-- ==== Sys2Proof/Word.lean ====
section
/-!
DEFINITION. The words of the Creith 880 and their plainest arithmetic (spec/00_scope.md, R5, R6, R9).
-/
namespace Sys2Proof

/-- A byte of memory or of a scratchpad. -/
abbrev Byte := BitVec 8

/-- A conductor register, an address, a control word: 64 bits. -/
abbrev Word64 := BitVec 64

/-- A facet operand: 128 bits. -/
abbrev Word128 := BitVec 128

namespace Word

/-- `x[h:l]` of R9, as a number. -/
def field {n : Nat} (x : BitVec n) (h l : Nat) : Nat := (x.toNat >>> l) % 2 ^ (h + 1 - l)

/-- Bit `i` of `x`. -/
def bit {n : Nat} (x : BitVec n) (i : Nat) : Bool := x.getLsbD i

/-- `x` with its bits `h` down to `l` replaced by `v`. -/
def setField {n : Nat} (x : BitVec n) (h l v : Nat) : BitVec n :=
  let m : Nat := (2 ^ (h + 1 - l) - 1) <<< l
  (x &&& ~~~(BitVec.ofNat n m)) ||| BitVec.ofNat n ((v % 2 ^ (h + 1 - l)) <<< l)

/-- The number a list of bytes stands for, least significant byte first (R6). -/
def ofBytes : List Byte → Nat
  | [] => 0
  | b :: bs => b.toNat + 256 * ofBytes bs

/-- The `k` bytes of a number, least significant byte first (R6). -/
def toBytes : Nat → Nat → List Byte
  | 0, _ => []
  | k + 1, v => BitVec.ofNat 8 v :: toBytes k (v / 256)

/-- `x` at least `lo` and at most `hi` (Sat of R164). -/
def sat (x lo hi : Int) : Int := if x < lo then lo else if hi < x then hi else x

end Word
end Sys2Proof
end

