-- ==== Sys2Proof/Syntax.lean ====
section
/-!
DEFINITION. The instructions and steps of the Creith 880: one constructor of `Instr` for each row of
spec/opcode_table.json. Facet words (R137 to R146), conductor words (R142 to R147), and the device's
own steps, whose arguments name the unit that acts and whatever the outside supplies.
-/
namespace Sys2Proof

/-- The 6-bit operand specifiers of R138. -/
inductive Operand where
  | reg (n : Fin 16)    -- v0 to v15
  | pop (c : Fin 4)     -- i0 to i3, the head token popped
  | peek (c : Fin 4)    -- i0 to i3, the head token left
  | out (c : Fin 4)     -- o0 to o3
  | zero
  | laneid
  | konst
  | none
  | imm (v : Fin 32)    -- the value v - 16
  deriving DecidableEq, Repr, Inhabited

/-- Element sizes of the integer family (R165). -/
inductive Size where | B | H | W | D
  deriving DecidableEq, Repr, Inhabited

/-- Formats of the floating-point rows 0x7_, 0x8_ and 0x9_ (R184). -/
inductive FFmt where | f32 | f16 | bf16
  deriving DecidableEq, Repr, Inhabited

/-- Formats of the narrowing and widening conversions (R187, R188). -/
inductive NFmt where | f16 | bf16 | tf8 | tf6
  deriving DecidableEq, Repr, Inhabited

/-- A facet word less its opcode (R137). -/
structure FWord where
  pm : BitVec 8
  pv : BitVec 8
  tgEn : Bool
  tgCh : Fin 4
  tgTag : BitVec 2
  d : Operand
  a : Operand
  b : Operand
  c : Operand
  puIdx : Fin 8
  puAct : BitVec 2
  h : BitVec 2
  sv : Bool
  sw : Bool
  deriving DecidableEq, Repr, Inhabited

/-- A conductor register number, x0 to x31 (R142). -/
abbrev Reg := Fin 32

/-- A scope level 0 to 4 (R123, R144). -/
abbrev Level := Fin 5

/-- The kinds of SHI (R214). -/
inductive ShiftKind where | shl | shrz | shrs
  deriving DecidableEq, Repr, Inhabited

/-- The state of a handle's slot (R282). -/
inductive SlotState where | free | reserved | filling | full | draining | aborted
  deriving DecidableEq, Repr, Inhabited

/-- The two kinds of port (R343). -/
inductive PortKind where | scaleUp | scaleOut
  deriving DecidableEq, Repr, Inhabited

/-- The causes of R360. -/
inductive Cause where
  | illegal | reservedField | formatCombo | config | predMismatch | switchOrphan | stateClass
  | pageFault | access | misalign | addressForm | race | poison
  | subnormalAssist | trapInsn | brk | watchdog | killed | deadlock | resized
  deriving DecidableEq, Repr, Inhabited

/-- What a scrub finds in the unit it reads (R368): nothing, an error it corrects, or an
uncorrectable one. Errors come from outside the program. -/
inductive Finding where | clean | corrected | uncorrectable
  deriving DecidableEq, Repr, Inhabited

/-- A host access through a window (R379, R382). -/
inductive HostAccess where
  | read (n : Nat)
  | write (bytes : List Byte)
  deriving DecidableEq, Repr, Inhabited

/-- A flit's fields above the link level (R346). The link sequence and the CRC belong to the raw
256 bytes. `net` is the network that a received flit came over: on scale-out its devices are peer-table indices (R347). -/
structure Flit where
  typ : Nat
  src : BitVec 8
  dst : BitVec 8
  ctx : BitVec 12
  txid : BitVec 16
  addr : Word64
  ztag : BitVec 32
  attr : BitVec 32
  psn : BitVec 16
  payload : List Byte
  net : PortKind := .scaleUp
  deriving DecidableEq, Repr, Inhabited

/-- What the PF stages (R389): firmware, the runtime or an update of the store. Whether its Falcon-1024
signature verifies and what its SHAKE256 measurement is come from the controller; `devId` is the device id that an update of the store
holds (R29, R388). -/
structure StagedImage where
  kind : Nat
  version : Nat
  sigOk : Bool
  digest : BitVec 256
  devId : BitVec 8 := 0
  deriving DecidableEq, Repr, Inhabited

/-- What the parts answer to one boot (R391): the step that fails, if one does, with its code; the quads
and ways found bad, the ports whose lanes fail, and whether the domain already holds the device id of the
store. -/
structure BootRun where
  failStep : Option Nat
  failCode : BitVec 8
  badQuads : List Nat
  badWays : List (Nat × Nat × Nat)
  badSup : BitVec 32
  badSop : BitVec 32
  idTaken : Bool
  badFacets : List (Nat × Nat) := []
  deriving DecidableEq, Repr, Inhabited

/-- One constructor for each row of spec/opcode_table.json: facet words, conductor words, the steps that a
register write or a fetch sets off, and the device's other steps. -/
inductive Instr where
  /-- NOP (R172). Facet no-operation; fires only to apply a predicate update. -/
  | nop (w : FWord)
  /-- MOV (R172). Copies source A to destination D. -/
  | mov (w : FWord)
  /-- MOVI (R172). Writes a zero-extended 12-bit immediate to D. -/
  | movi (w : FWord)
  /-- MOVIS (R172). Writes a sign-extended 12-bit immediate to D. -/
  | movis (w : FWord)
  /-- SEL (R172). Bitwise select of A and B under mask C. -/
  | sel (w : FWord)
  /-- DROP (R172). Consumes its sources and writes nothing. -/
  | drop (w : FWord)
  /-- STEER (R173). Routes a data token to one of two outputs by a control token. -/
  | steer (w : FWord)
  /-- STEERX (R173). Routes a data token by a control token and sends NULL to the other output. -/
  | steerx (w : FWord)
  /-- MERGE (R174). Ordered merge of two inputs selected by a control token. -/
  | merge (w : FWord)
  /-- MERGEU (R175). Unordered merge taking whichever input holds DATA. -/
  | mergeu (w : FWord)
  /-- EMITN (R177). Emits one NULL token on an output channel. -/
  | emitn (w : FWord)
  /-- CTL (R178). Emits a predicate value as a control token. -/
  | ctl (w : FWord)
  /-- CEASE (R267). Sends a cease upstream for the SEQ of the head versioned token. -/
  | cease (w : FWord)
  /-- VERS (R270). Reads the version word and bound of the head token. -/
  | vers (w : FWord)
  /-- VFIN (R271). Emits A as a final version token. -/
  | vfin (w : FWord)
  /-- HALT (R179). Finishes the facet node, emitting END on its declared outputs. -/
  | halt (w : FWord)
  /-- FACET_ADD (R180). Lane-wise wrapping integer add. -/
  | facetAdd (sz : Size) (w : FWord)
  /-- FACET_SUB (R180). Lane-wise wrapping integer subtract. -/
  | facetSub (sz : Size) (w : FWord)
  /-- ADDSS (R180). Lane-wise signed saturating add. -/
  | addss (sz : Size) (w : FWord)
  /-- ADDSZ (R180). Lane-wise unsigned saturating add. -/
  | addsz (sz : Size) (w : FWord)
  /-- SUBSS (R180). Lane-wise signed saturating subtract. -/
  | subss (sz : Size) (w : FWord)
  /-- SUBSZ (R180). Lane-wise unsigned saturating subtract. -/
  | subsz (sz : Size) (w : FWord)
  /-- FACET_MUL (R180). Lane-wise low half of the product. -/
  | facetMul (sz : Size) (w : FWord)
  /-- FACET_MULHS (R180). Lane-wise high half of the signed product. -/
  | facetMulhs (sz : Size) (w : FWord)
  /-- FACET_MULHZ (R180). Lane-wise high half of the unsigned product. -/
  | facetMulhz (sz : Size) (w : FWord)
  /-- FACET_MINS (R180). Lane-wise signed minimum. -/
  | facetMins (sz : Size) (w : FWord)
  /-- FACET_MINZ (R180). Lane-wise unsigned minimum. -/
  | facetMinz (sz : Size) (w : FWord)
  /-- FACET_MAXS (R180). Lane-wise signed maximum. -/
  | facetMaxs (sz : Size) (w : FWord)
  /-- FACET_MAXZ (R180). Lane-wise unsigned maximum. -/
  | facetMaxz (sz : Size) (w : FWord)
  /-- ABS (R180). Lane-wise absolute value. -/
  | abs (sz : Size) (w : FWord)
  /-- MAC (R180). Lane-wise multiply-accumulate. -/
  | mac (sz : Size) (w : FWord)
  /-- FACET_CLZ (R180). Lane-wise count of leading zeros. -/
  | facetClz (sz : Size) (w : FWord)
  /-- FACET_AND (R181). 128-bit bitwise AND. -/
  | facetAnd (w : FWord)
  /-- FACET_OR (R181). 128-bit bitwise OR. -/
  | facetOr (w : FWord)
  /-- FACET_XOR (R181). 128-bit bitwise XOR. -/
  | facetXor (w : FWord)
  /-- FACET_ANDN (R181). 128-bit A AND NOT B. -/
  | facetAndn (w : FWord)
  /-- FACET_SHL (R182). Lane-wise shift left with saturating count. -/
  | facetShl (sz : Size) (w : FWord)
  /-- FACET_SHRZ (R182). Lane-wise logical shift right. -/
  | facetShrz (sz : Size) (w : FWord)
  /-- FACET_SHRS (R182). Lane-wise arithmetic shift right. -/
  | facetShrs (sz : Size) (w : FWord)
  /-- CMPEQ (R183). Lane-wise integer equality compare. -/
  | cmpeq (sz : Size) (w : FWord)
  /-- CMPLTS (R183). Lane-wise signed less-than compare. -/
  | cmplts (sz : Size) (w : FWord)
  /-- CMPLTZ (R183). Lane-wise unsigned less-than compare. -/
  | cmpltz (sz : Size) (w : FWord)
  /-- TEST (R183). Lane-wise test of A AND B nonzero. -/
  | test (sz : Size) (w : FWord)
  /-- FADD (R184). Floating-point add in F32, F16 or BF16. -/
  | fadd (fm : FFmt) (w : FWord)
  /-- FSUB (R184). Floating-point subtract. -/
  | fsub (fm : FFmt) (w : FWord)
  /-- FMUL (R184). Floating-point multiply. -/
  | fmul (fm : FFmt) (w : FWord)
  /-- FFMA (R184). Fused multiply-add with one rounding. -/
  | ffma (fm : FFmt) (w : FWord)
  /-- FMIN (R186). Floating-point minimum. -/
  | fmin (fm : FFmt) (w : FWord)
  /-- FMAX (R186). Floating-point maximum. -/
  | fmax (fm : FFmt) (w : FWord)
  /-- FNEG (R184). Floating-point negation. -/
  | fneg (fm : FFmt) (w : FWord)
  /-- FABS (R184). Floating-point absolute value. -/
  | fabs (fm : FFmt) (w : FWord)
  /-- FCMPEQ (R184). Floating-point equality compare. -/
  | fcmpeq (fm : FFmt) (w : FWord)
  /-- FCMPLT (R184). Floating-point less-than compare. -/
  | fcmplt (fm : FFmt) (w : FWord)
  /-- FCMPLE (R184). Floating-point less-or-equal compare. -/
  | fcmple (fm : FFmt) (w : FWord)
  /-- FRCP (R184). Correctly rounded reciprocal. -/
  | frcp (fm : FFmt) (w : FWord)
  /-- FRSQ (R184). Correctly rounded reciprocal square root. -/
  | frsq (fm : FFmt) (w : FWord)
  /-- FEXP2 (R184). Correctly rounded power of two. -/
  | fexp2 (fm : FFmt) (w : FWord)
  /-- FLOG2 (R184). Correctly rounded base-2 logarithm. -/
  | flog2 (fm : FFmt) (w : FWord)
  /-- FSCALE (R184). Scales A by 2 to the integer in B. -/
  | fscale (fm : FFmt) (w : FWord)
  /-- CVTN (R187). Narrowing conversion of two sources into one register. -/
  | cvtn (nf : NFmt) (w : FWord)
  /-- CVTW (R188). Exact widening conversion of half of A. -/
  | cvtw (nf : NFmt) (w : FWord)
  /-- CVTFI (R189). Converts F32 lanes to saturated I32. -/
  | cvtfi (w : FWord)
  /-- CVTIF (R189). Converts I32 lanes to F32. -/
  | cvtif (w : FWord)
  /-- SHUF (R190). Byte shuffle from A and C by indices in B. -/
  | shuf (w : FWord)
  /-- BCAST (R191). Broadcasts one 32-bit word of A. -/
  | bcast (w : FWord)
  /-- EXTR (R191). Extracts 16 bytes from the 32-byte pair B and A. -/
  | extr (w : FWord)
  /-- LSUM_W (R192). Integer sum of the four 32-bit lanes. -/
  | lsumW (w : FWord)
  /-- LSUM_F32 (R192). F32 pairwise lane sum. -/
  | lsumF32 (w : FWord)
  /-- LMAX_F32 (R192). F32 maximum over lanes. -/
  | lmaxF32 (w : FWord)
  /-- LDS (R294). Loads 16 bytes of scratchpad. -/
  | lds (w : FWord)
  /-- STS (R294). Stores 16 bytes to scratchpad. -/
  | sts (w : FWord)
  /-- LDSW (R294). Gathers four 32-bit words from scratchpad. -/
  | ldsw (w : FWord)
  /-- STSW (R294). Scatters four 32-bit words to scratchpad. -/
  | stsw (w : FWord)
  /-- LDG (R294). Loads 16 bytes of global memory. -/
  | ldg (w : FWord)
  /-- LDGB (R294). Loads 4 bytes of global memory into every lane. -/
  | ldgb (w : FWord)
  /-- STG (R294). Stores 16 bytes to global memory. -/
  | stg (w : FWord)
  /-- STGE (R294). Stores enabled 32-bit lanes to global memory. -/
  | stge (w : FWord)
  /-- PREF (R294). Deprecated prefetch of a sector into the facet L1. -/
  | pref (w : FWord)
  /-- ATOMS (R295). Atomic operation on scratchpad. -/
  | atoms (w : FWord)
  /-- ATOMG (R295). Atomic operation on global memory. -/
  | atomg (w : FWord)
  /-- CASS (R295). Compare-exchange on scratchpad. -/
  | cass (w : FWord)
  /-- CASG (R295). Compare-exchange on global memory. -/
  | casg (w : FWord)
  /-- FENCE (R296). Facet full ordering point. -/
  | fence (w : FWord)
  /-- ACQ (R296). Facet acquire ordering point. -/
  | acq (w : FWord)
  /-- REL (R296). Facet release ordering point. -/
  | rel (w : FWord)
  /-- HSTAT (R297). Reads a handle slot's state word. -/
  | hstat (w : FWord)
  /-- HTAKE (R297). Takes a FULL slot to DRAINING. -/
  | htake (w : FWord)
  /-- HFREE (R297). Frees a handle slot. -/
  | hfree (w : FWord)
  /-- WPTR (R297). Reads a slot's write pointer. -/
  | wptr (w : FWord)
  /-- WPWAIT (R297). Waits until the write pointer reaches a value, then reads it. -/
  | wpwait (w : FWord)
  /-- TREQ (R297). Issues a streamer command from a facet. -/
  | treq (w : FWord)
  /-- ACCRD (R272). Reads one snapshot accumulator of the recorded tile. -/
  | accrd (w : FWord)
  /-- TEMPTY (R273). Reads TSTAT and INVROW of the recorded tile. -/
  | tempty (w : FWord)
  /-- LZRES (R298). Reserves a remote landing-zone slot. -/
  | lzres (w : FWord)
  /-- LZSEND (R299). Puts a local FULL slot into the reserved remote slot. -/
  | lzsend (w : FWord)
  /-- LZSTAT (R301). Reads a peer record's chord status word. -/
  | lzstat (w : FWord)
  /-- LZRESET (R301). Resumes or clears an ABORTED remote-writable slot. -/
  | lzreset (w : FWord)
  /-- TRAP (R193). Facet trap with TRAP_INSN. -/
  | trap (w : FWord)
  /-- BRK (R194). Facet breakpoint raising BREAK. -/
  | brk (w : FWord)
  /-- RDCNT (R195). Reads a rate counter of the completed window. -/
  | rdcnt (w : FWord)
  /-- RDST (R196). Reads identity, energy or cycle status. -/
  | rdst (w : FWord)
  /-- SETPV (R197). Writes predicates under a mask. -/
  | setpv (w : FWord)
  /-- GETP (R197). Reads the predicates. -/
  | getp (w : FWord)
  /-- BEAT (R198). Facet restart of the queue's progress timer. -/
  | beat (w : FWord)
  /-- LAYV (R198). Reads the layout version. -/
  | layv (w : FWord)
  /-- SEQ (R199). Sets the next SEQ of an output. -/
  | seq (w : FWord)
  /-- SETTAG (R199). Sets the TAG of an output. -/
  | settag (w : FWord)
  /-- DOT4_TF8 (R200). Experimental TF8 four-term dot product into F32. -/
  | dot4Tf8 (w : FWord)
  /-- SORT4_W (R201). Experimental stable sort of four I32 lanes. -/
  | sort4W (w : FWord)
  /-- ADD (R213). Conductor 64-bit add. -/
  | add (d : Reg) (a : Reg) (b : Reg)
  /-- SUB (R213). Conductor subtract. -/
  | sub (d : Reg) (a : Reg) (b : Reg)
  /-- AND (R213). Conductor bitwise AND. -/
  | and (d : Reg) (a : Reg) (b : Reg)
  /-- OR (R213). Conductor bitwise OR. -/
  | or (d : Reg) (a : Reg) (b : Reg)
  /-- XOR (R213). Conductor bitwise XOR. -/
  | xor (d : Reg) (a : Reg) (b : Reg)
  /-- ANDN (R213). Conductor AND NOT. -/
  | andn (d : Reg) (a : Reg) (b : Reg)
  /-- SHL (R213). Conductor shift left. -/
  | shl (d : Reg) (a : Reg) (b : Reg)
  /-- SHRZ (R213). Conductor logical shift right. -/
  | shrz (d : Reg) (a : Reg) (b : Reg)
  /-- SHRS (R213). Conductor arithmetic shift right. -/
  | shrs (d : Reg) (a : Reg) (b : Reg)
  /-- MUL (R213). Conductor low 64-bit product. -/
  | mul (d : Reg) (a : Reg) (b : Reg)
  /-- MULHS (R213). Conductor signed high product. -/
  | mulhs (d : Reg) (a : Reg) (b : Reg)
  /-- MULHZ (R213). Conductor unsigned high product. -/
  | mulhz (d : Reg) (a : Reg) (b : Reg)
  /-- DIVS (R213). Conductor signed division. -/
  | divs (d : Reg) (a : Reg) (b : Reg)
  /-- DIVZ (R213). Conductor unsigned division. -/
  | divz (d : Reg) (a : Reg) (b : Reg)
  /-- REMS (R213). Conductor signed remainder. -/
  | rems (d : Reg) (a : Reg) (b : Reg)
  /-- REMZ (R213). Conductor unsigned remainder. -/
  | remz (d : Reg) (a : Reg) (b : Reg)
  /-- SLTS (R213). Conductor signed set-less-than. -/
  | slts (d : Reg) (a : Reg) (b : Reg)
  /-- SLTZ (R213). Conductor unsigned set-less-than. -/
  | sltz (d : Reg) (a : Reg) (b : Reg)
  /-- MINS (R213). Conductor signed minimum. -/
  | mins (d : Reg) (a : Reg) (b : Reg)
  /-- MAXS (R213). Conductor signed maximum. -/
  | maxs (d : Reg) (a : Reg) (b : Reg)
  /-- MINZ (R213). Conductor unsigned minimum. -/
  | minz (d : Reg) (a : Reg) (b : Reg)
  /-- MAXZ (R213). Conductor unsigned maximum. -/
  | maxz (d : Reg) (a : Reg) (b : Reg)
  /-- CLZ (R213). Conductor count of leading zeros. -/
  | clz (d : Reg) (a : Reg)
  /-- POPC (R213). Conductor population count. -/
  | popc (d : Reg) (a : Reg)
  /-- ADDW (R213). Conductor 32-bit add, sign-extended. -/
  | addw (d : Reg) (a : Reg) (b : Reg)
  /-- SUBW (R213). Conductor 32-bit subtract, sign-extended. -/
  | subw (d : Reg) (a : Reg) (b : Reg)
  /-- SELNZ (R213). Conductor select xa when xb is nonzero. -/
  | selnz (d : Reg) (a : Reg) (b : Reg)
  /-- ADDI (R214). Add sign-extended immediate. -/
  | addi (d : Reg) (a : Reg) (imm : BitVec 16)
  /-- ANDI (R214). AND zero-extended immediate. -/
  | andi (d : Reg) (a : Reg) (imm : BitVec 16)
  /-- ORI (R214). OR zero-extended immediate. -/
  | ori (d : Reg) (a : Reg) (imm : BitVec 16)
  /-- XORI (R214). XOR zero-extended immediate. -/
  | xori (d : Reg) (a : Reg) (imm : BitVec 16)
  /-- SHI (R214). Shift by an immediate kind and count. -/
  | shi (d : Reg) (a : Reg) (k : ShiftKind) (n : BitVec 6)
  /-- SLTI (R214). Signed set-less-than immediate. -/
  | slti (d : Reg) (a : Reg) (imm : BitVec 16)
  /-- SLTIZ (R214). Unsigned set-less-than immediate. -/
  | sltiz (d : Reg) (a : Reg) (imm : BitVec 16)
  /-- LUI (R214). Loads an upper immediate. -/
  | lui (d : Reg) (imm : BitVec 16)
  /-- INS16 (R214). Shifts xa left 16 and inserts an immediate. -/
  | ins16 (d : Reg) (a : Reg) (imm : BitVec 16)
  /-- ADDPC (R214). Forms a pc-relative address. -/
  | addpc (d : Reg) (imm : BitVec 16)
  /-- BEQ (R215). Branch if equal. -/
  | beq (a : Reg) (b : Reg) (disp : BitVec 16)
  /-- BNE (R215). Branch if not equal. -/
  | bne (a : Reg) (b : Reg) (disp : BitVec 16)
  /-- BLTS (R215). Branch if signed less. -/
  | blts (a : Reg) (b : Reg) (disp : BitVec 16)
  /-- BGES (R215). Branch if signed greater or equal. -/
  | bges (a : Reg) (b : Reg) (disp : BitVec 16)
  /-- BLO (R215). Branch if unsigned lower. -/
  | blo (a : Reg) (b : Reg) (disp : BitVec 16)
  /-- BHS (R215). Branch if unsigned higher or same. -/
  | bhs (a : Reg) (b : Reg) (disp : BitVec 16)
  /-- J (R216). Jump. -/
  | j (disp : BitVec 26)
  /-- JAL (R216). Jump and link in x31. -/
  | jal (disp : BitVec 26)
  /-- JALR (R216). Register jump and link. -/
  | jalr (d : Reg) (a : Reg) (imm : BitVec 16)
  /-- LDB (R217). Load signed byte. -/
  | ldb (d : Reg) (a : Reg) (imm : BitVec 16)
  /-- LDH (R217). Load signed halfword. -/
  | ldh (d : Reg) (a : Reg) (imm : BitVec 16)
  /-- LDW (R217). Load signed word. -/
  | ldw (d : Reg) (a : Reg) (imm : BitVec 16)
  /-- LDD (R217). Load doubleword. -/
  | ldd (d : Reg) (a : Reg) (imm : BitVec 16)
  /-- LDBZ (R217). Load unsigned byte. -/
  | ldbz (d : Reg) (a : Reg) (imm : BitVec 16)
  /-- LDHZ (R217). Load unsigned halfword. -/
  | ldhz (d : Reg) (a : Reg) (imm : BitVec 16)
  /-- LDWZ (R217). Load unsigned word. -/
  | ldwz (d : Reg) (a : Reg) (imm : BitVec 16)
  /-- STB (R218). Store byte. -/
  | stb (d : Reg) (a : Reg) (imm : BitVec 16)
  /-- STH (R218). Store halfword. -/
  | sth (d : Reg) (a : Reg) (imm : BitVec 16)
  /-- STW (R218). Store word. -/
  | stw (d : Reg) (a : Reg) (imm : BitVec 16)
  /-- STD (R218). Store doubleword. -/
  | std (d : Reg) (a : Reg) (imm : BitVec 16)
  /-- AMO_ADD (R219). Atomic add. -/
  | amoAdd (d : Reg) (a : Reg) (b : Reg) (wide : Bool) (lvl : Level)
  /-- AMO_AND (R219). Atomic AND. -/
  | amoAnd (d : Reg) (a : Reg) (b : Reg) (wide : Bool) (lvl : Level)
  /-- AMO_OR (R219). Atomic OR. -/
  | amoOr (d : Reg) (a : Reg) (b : Reg) (wide : Bool) (lvl : Level)
  /-- AMO_XOR (R219). Atomic XOR. -/
  | amoXor (d : Reg) (a : Reg) (b : Reg) (wide : Bool) (lvl : Level)
  /-- AMO_MINS (R219). Atomic signed minimum. -/
  | amoMins (d : Reg) (a : Reg) (b : Reg) (wide : Bool) (lvl : Level)
  /-- AMO_MAXS (R219). Atomic signed maximum. -/
  | amoMaxs (d : Reg) (a : Reg) (b : Reg) (wide : Bool) (lvl : Level)
  /-- AMO_MINZ (R219). Atomic unsigned minimum. -/
  | amoMinz (d : Reg) (a : Reg) (b : Reg) (wide : Bool) (lvl : Level)
  /-- AMO_MAXZ (R219). Atomic unsigned maximum. -/
  | amoMaxz (d : Reg) (a : Reg) (b : Reg) (wide : Bool) (lvl : Level)
  /-- AMO_XCHG (R219). Atomic exchange. -/
  | amoXchg (d : Reg) (a : Reg) (b : Reg) (wide : Bool) (lvl : Level)
  /-- AMO_CAS (R219). Atomic compare-exchange. -/
  | amoCas (d : Reg) (a : Reg) (b : Reg) (wide : Bool) (lvl : Level)
  /-- AMO_FADD (R219). Atomic F32 add. -/
  | amoFadd (d : Reg) (a : Reg) (b : Reg) (lvl : Level)
  /-- FENCE_FULL (R220). Conductor full fence. -/
  | fenceFull (lvl : Level)
  /-- FENCE_ACQ (R220). Conductor acquire fence. -/
  | fenceAcq (lvl : Level)
  /-- FENCE_REL (R220). Conductor release fence. -/
  | fenceRel (lvl : Level)
  /-- FENCE_TINV (R221). Translation invalidation across the device. -/
  | fenceTinv (a : Reg) (b : Reg)
  /-- L2CTL_SETRB (R222). Writes a retention base register. -/
  | l2ctlSetrb (a : Reg) (b : Reg) (n : Fin 16)
  /-- L2CTL_SETRL (R222). Writes a retention limit register. -/
  | l2ctlSetrl (a : Reg) (b : Reg) (n : Fin 16)
  /-- L2CTL_UNPIN (R222). Disables a retention range and releases its ways. -/
  | l2ctlUnpin (a : Reg) (b : Reg) (n : Fin 16)
  /-- L2CTL_WBINV (R223). Writes back and invalidates L2 lines of a virtual range. -/
  | l2ctlWbinv (a : Reg) (b : Reg)
  /-- WAITH (R231). Waits for a handle slot to reach a state. -/
  | waith (d : Reg) (a : Reg) (b : Reg) (st : SlotState)
  /-- MFS (R224). Reads a system register. -/
  | mfs (d : Reg) (n : BitVec 16)
  /-- MTS (R224). Writes a system register. -/
  | mts (a : Reg) (n : BitVec 16)
  /-- TOKIN (R228). Receives a token at a conductor consumer port. -/
  | tokin (d : Reg) (a : Reg)
  /-- TOKOUT (R229). Emits a token on a conductor producer port. -/
  | tokout (a : Reg) (b : Reg)
  /-- TOKTRY (R230). Deprecated non-waiting token receive. -/
  | toktry (d : Reg) (a : Reg)
  /-- CFGLD (R232). Checks and stages a graph image configuration. -/
  | cfgld (d : Reg) (a : Reg) (b : Reg)
  /-- CFGGO (R233). Starts a staged configuration once the current one has finished. -/
  | cfggo (d : Reg) (a : Reg)
  /-- SWITCH (R234). Replaces the running configuration by a wavefront. -/
  | switch (d : Reg) (a : Reg)
  /-- REWIRE_HINT (R236). Sets a node's clone target. -/
  | rewireHint (d : Reg) (a : Reg) (b : Reg)
  /-- REWIRE_LOCK (R236). Locks a subgraph against rewiring. -/
  | rewireLock (d : Reg) (a : Reg) (b : Reg)
  /-- REWIRE_UNLOCK (R236). Clears a subgraph lock. -/
  | rewireUnlock (d : Reg) (a : Reg) (b : Reg)
  /-- REWIRE_PIN (R236). Pins a node against rate-driven rewiring. -/
  | rewirePin (d : Reg) (a : Reg) (b : Reg)
  /-- REWIRE_UNPIN (R236). Clears a node's pin. -/
  | rewireUnpin (d : Reg) (a : Reg) (b : Reg)
  /-- LAYVER (R237). Reads the layout version. -/
  | layver (d : Reg)
  /-- LAYQ (R238). Reads the placement of one clone. -/
  | layq (d : Reg) (a : Reg)
  /-- RATE (R239). Reads a rate counter of one clone. -/
  | rate (d : Reg) (a : Reg) (b : Reg)
  /-- STRM (R289). Queues a streamer read into a handle slot. -/
  | strm (d : Reg) (a : Reg) (b : Reg)
  /-- STRMST (R289). Queues a streamer store from a handle slot. -/
  | strmst (d : Reg) (a : Reg) (b : Reg)
  /-- TDSET (R252). Reads or writes an island tile descriptor word. -/
  | tdset (d : Reg) (a : Reg) (b : Reg)
  /-- PRSET (R252). Reads or writes a tile precision register. -/
  | prset (d : Reg) (a : Reg) (b : Reg)
  /-- CHORD (R299). Puts bytes from any address into a reserved remote slot. -/
  | chord (d : Reg) (a : Reg) (b : Reg)
  /-- LZCTL_RESERVE (R302). Conductor landing-zone reservation. -/
  | lzctlReserve (d : Reg) (a : Reg) (b : Reg)
  /-- LZCTL_RELEASE (R302). Releases a reservation and invalidates the record. -/
  | lzctlRelease (d : Reg) (a : Reg) (b : Reg)
  /-- LZCTL_STATUS (R302). Reads a peer record's status. -/
  | lzctlStatus (d : Reg) (a : Reg) (b : Reg)
  /-- LZCTL_RESUME (R302). Resumes an ABORTED slot. -/
  | lzctlResume (d : Reg) (a : Reg) (b : Reg)
  /-- LZCTL_CLEAR (R302). Clears an ABORTED slot to RESERVED. -/
  | lzctlClear (d : Reg) (a : Reg) (b : Reg)
  /-- LAUNCH (R240). Puts a launch into the pending-launch pool. -/
  | launch (d : Reg) (a : Reg) (b : Reg)
  /-- SYS_TRAP (R241). Conductor trap with TRAP_INSN. -/
  | sysTrap (code : BitVec 6)
  /-- ERET (R208). Returns from a trap. -/
  | eret
  /-- WFI (R242). Waits for a token, event or handle change. -/
  | wfi
  /-- SYS_BRK (R241). Conductor breakpoint trap. -/
  | sysBrk (code : BitVec 6)
  /-- ICINV (R244). Invalidates instruction and configuration caches over a range. -/
  | icinv (a : Reg) (b : Reg)
  /-- SYS_BEAT (R241). Conductor restart of the queue's progress timer. -/
  | sysBeat (code : BitVec 6)
  /-- SYS_CEASE (R241). Conductor cease sent upstream of a consumer port. -/
  | sysCease (code : BitVec 6)
  /-- SYS_HALT (R245). Ends the conductor program, emitting END on producer ports. -/
  | sysHalt
  /-- ILLEGAL (R143). A conductor reaches in execution a word with an invalid or reserved opcode, FN or sub-operation, or a nonzero unused field, and traps with ILLEGAL. -/
  | illegal (r : Nat)
  /-- FETCH_FAULT (R216). A conductor instruction fetch fails translation or finds X = 0 and traps at the fetched address. -/
  | fetchFault (r : Nat) (cause : Cause) (addr : Word64)
  /-- BREAKPOINT_MATCH (R243). A graph-level instruction matching a breakpoint register traps with BREAK before it executes. -/
  | breakpointMatch (r : Nat)
  /-- REGISTER_PARTITION (R319). HREG command registering a partition control block. -/
  | registerPartition (addr : Word64)
  /-- REGISTER_CONTEXT (R320). HREG command registering a context control block. -/
  | registerContext (addr : Word64)
  /-- REGISTER_QUEUE (R321). HREG command registering and enabling a queue. -/
  | registerQueue (addr : Word64) (q : Nat)
  /-- REREAD_QUADS (R338). HREG command applying a new QUADS value to a partition. -/
  | rereadQuads (addr : Word64)
  /-- KILL (R340). Starts the kill of a context. -/
  | kill (ctx : BitVec 12) (cause : Cause)
  /-- PORT_ENABLE (R344). Setting EN moves a port to TRAINING. -/
  | portEnable (k : PortKind) (p : Nat)
  /-- PORT_DISABLE (R344). Clearing EN moves a port to DISABLED. -/
  | portDisable (k : PortKind) (p : Nat)
  /-- DBGSLOT_SET (R375). Sets the debug-trap bit of a loaded slot. -/
  | dbgslotSet (v : Word64)
  /-- DBGSLOT_CLEAR (R375). Clears the debug-trap bit of a loaded slot. -/
  | dbgslotClear (v : Word64)
  /-- CHECKPOINT_COLLECT (R376). GO with PHASE 0 marks dirty granules in CKMAP. -/
  | checkpointCollect (i : Nat)
  /-- CHECKPOINT_COPY (R376). GO with PHASE 1 copies marked granules to CKDST. -/
  | checkpointCopy (i : Nat)
  /-- REMOTE_REQUEST (R349). A load, store or atomic flit is performed at its home device. -/
  | remoteRequest (f : Flit) (p : Nat)
  /-- REMOTE_RESPONSE (R349). A remote access answer reaches the requester. -/
  | remoteResponse (f : Flit)
  /-- PUT_PACKET (R299). A put packet reaches the receiver and is written or dropped. -/
  | putPacket (f : Flit) (k : PortKind) (p : Nat)
  /-- PUTACK (R299). A packet acknowledgement reaches the sender and advances ACKED. -/
  | putack (f : Flit)
  /-- RESERVATION_REQUEST (R298). A reservation request reaches the receiver and is granted, refused or busy. -/
  | reservationRequest (f : Flit)
  /-- RESERVATION_ANSWER (R298). A reservation answer reaches the sender and fills the record. -/
  | reservationAnswer (f : Flit)
  /-- RELEASE_REQUEST (R302). A release reaches the receiver and frees the held slot. -/
  | releaseRequest (f : Flit)
  /-- NODE_FAULT_TRAP (R206). A precise node fault of the region is taken by the conductor. -/
  | nodeFaultTrap (r : Nat)
  /-- BREAK_RESUME (R194). After a BREAK the context is resumed and the firing completes as a NOP. -/
  | breakResume (r : Nat) (rank : Nat)
  /-- TOKEN_ACCEPT (R40). A consumer accepts an emitted token into its input channel, clearing its pending bit. -/
  | tokenAccept (inst : Nat) (arc : Nat)
  /-- FACET_NULL_HANDLING (R42). A facet pops NULL from every declared input and emits NULL without firing. -/
  | facetNullHandling (r : Nat) (rank : Nat)
  /-- FACET_END_HANDLING (R42). A facet pops END from every input, emits END and finishes. -/
  | facetEndHandling (r : Nat) (rank : Nat)
  /-- ISLAND_NULL_HANDLING (R43). An island pops a NULL from a port and passes or discards it. -/
  | islandNullHandling (r : Nat) (isl : Nat)
  /-- ISLAND_END_HANDLING (R43). An island pops END on every port and finishes. -/
  | islandEndHandling (r : Nat) (isl : Nat)
  /-- ENGINE_NULL_HANDLING (R43). A streamer or chord engine node passes a NULL after earlier commands complete. -/
  | engineNullHandling (inst : Nat) (node : Nat)
  /-- ENGINE_END_HANDLING (R43). A streamer or chord engine node passes END and finishes. -/
  | engineEndHandling (inst : Nat) (node : Nat)
  /-- STEER_MERGE_NULL (R176). A STEER, STEERX or MERGE node handles a NULL with its control token. -/
  | steerMergeNull (r : Nat) (rank : Nat)
  /-- MERGEU_NULL_DISCARD (R175). A MERGEU node pops and discards a NULL at an input. -/
  | mergeuNullDiscard (r : Nat) (rank : Nat)
  /-- STEER_MERGE_END (R47). END at every data input of a steer or ordered merge is checked against leftover tokens. -/
  | steerMergeEnd (r : Nat) (rank : Nat)
  /-- CHAIN_MEMBER_FIRING (R49). A chain member fires the leader's chosen slot at its own clock, waiting on handle conditions. -/
  | chainMemberFiring (r : Nat) (rank : Nat)
  /-- SPILL_RING_ENTRY (R56). A token enters the spill ring of an arc whose consumer channel is full. -/
  | spillRingEntry (inst : Nat) (arc : Nat)
  /-- SPILL_RING_DELIVERY (R56). A token is delivered from the spill ring into the consumer's channel. -/
  | spillRingDelivery (inst : Nat) (arc : Nat)
  /-- COMPLETE (R58). The quiescence detector finds the instance settled and complete. -/
  | complete (inst : Nat)
  /-- DEADLOCK (R59). No firing for 65,536 counted clocks with tokens held freezes the instance. -/
  | deadlock (inst : Nat)
  /-- TABLE_WALK (R93). A page-table walk starts when the translation unit has room. -/
  | tableWalk (die : Nat)
  /-- TRACKED_ENTRY_EXPIRE (R120). A disambiguator entry leaves the table 256 clk after its access completes. -/
  | trackedEntryExpire (r : Nat)
  /-- MULTICAST_REQUEST (R106). A multicast read reaches its home slice and opens, joins or misses a merge record. -/
  | multicastRequest (r : Nat) (st : Nat)
  /-- MULTICAST_RESPONSE (R106). At the later of window close and data ready the response leaves once to all joined regions. -/
  | multicastResponse (slice : Nat) (i : Nat)
  /-- MERGE_RECORD_EXPIRE (R106). A closed merge record is discarded 1,024 clk after its response left. -/
  | mergeRecordExpire (slice : Nat) (i : Nat)
  /-- CHASE_LINK_RETURN (R108). A pointer-chase link returns and the next node read is issued. -/
  | chaseLinkReturn (r : Nat) (st : Nat)
  /-- STREAM_UNIT (R288). A streamer moves one 128-byte unit of its running command. -/
  | streamUnit (r : Nat) (st : Nat)
  /-- ARRIVAL_TOKEN (R284). A FULL or ABORTED slot's arrival token enters its target when there is room. -/
  | arrivalToken (r : Nat) (h : Nat)
  /-- STREAM_NODE_COMMAND (R291). A streamer node takes a command token and queues it. -/
  | streamNodeCommand (inst : Nat) (node : Nat)
  /-- CHORD_NODE_PUT (R291). A chord engine node takes a put token and issues it. -/
  | chordNodePut (inst : Nat) (node : Nat)
  /-- ISLAND_FIRING (R263). An island fires a tile once operands, weights and destination are ready. -/
  | islandFiring (r : Nat) (isl : Nat)
  /-- DIAGONAL_END (R264). A diagonal of an island firing completes, at a possible publication point or firing end. -/
  | diagonalEnd (r : Nat) (isl : Nat)
  /-- SKIPPED_FIRING (R268). A remaining firing of a ceased accumulation is skipped when its A slot is FULL. -/
  | skippedFiring (r : Nat) (isl : Nat)
  /-- WEIGHT_RELOAD (R260). An island starts reading a B tile into its weight store. -/
  | weightReload (r : Nat) (isl : Nat)
  /-- WEIGHT_RELOAD_DONE (R260). A weight reload completes, popping port B and freeing the B slot. -/
  | weightReloadDone (r : Nat) (isl : Nat)
  /-- PUBLICATION (R264). An owed or due publication copies the snapshot and takes a FREE slot. -/
  | publication (r : Nat) (isl : Nat) (t : Nat)
  /-- DRAIN_ROW (R264). One snapshot row is drained into the destination slot. -/
  | drainRow (r : Nat) (isl : Nat) (t : Nat)
  /-- VERSION_TOKEN (R265). The drained slot becomes FULL and a version token is emitted on the route port. -/
  | versionToken (r : Nat) (isl : Nat) (t : Nat)
  /-- FINAL_REPEAT_TOKEN (R269). A ceased accumulation emits a final token repeating its last version. -/
  | finalRepeatToken (r : Nat) (isl : Nat) (t : Nat)
  /-- CEASE_AT_ISLAND (R268). A cease reaches an island and stops or skips the accumulation. -/
  | ceaseAtIsland (i : Nat)
  /-- CEASE_AT_FACET (R266). A cease reaches a facet node and is forwarded on its versioned inputs. -/
  | ceaseAtFacet (i : Nat)
  /-- CEASE_DISCARD (R266). A cease reaching a streamer, chord engine or conductor port is discarded. -/
  | ceaseDiscard (i : Nat)
  /-- SETTLED (R275). A level settles and a SETTLED event goes out on port SET. -/
  | settled (inst : Nat) (level : Nat)
  /-- ISLAND_SWITCH (R277). An island takes its new configuration under a switch. -/
  | islandSwitch (r : Nat) (isl : Nat)
  /-- RESERVATION_TIMEOUT (R298). No answer within LZTIMEOUT gives UNREACHABLE. -/
  | reservationTimeout (tx : Nat)
  /-- PUT_PACKET_SEND (R355). A chord engine sends the next packet of a put. -/
  | putPacketSend (eng : Nat)
  /-- QUIET_PERIOD_END (R355). After 5 µs the engine resends from ACKED on the next allowed port. -/
  | quietPeriodEnd (eng : Nat) (id : Nat)
  /-- LINK_FAIL (R300). LZTIMEOUT after the last allowed port went down ends the put LINK_FAIL. -/
  | linkFail (eng : Nat) (id : Nat)
  /-- FAILURE_SEEN (R356). The receiver's slot sees the link failure after a port down or 3 µs of silence. -/
  | failureSeen (r : Nat) (h : Nat) (sl : Nat)
  /-- SLOT_ABORT (R300). A FILLING slot with no packet for LZTIMEOUT after failure becomes ABORTED. -/
  | slotAbort (r : Nat) (h : Nat) (sl : Nat)
  /-- KEEP (R356). Every 1 µs an idle sending engine sends a KEEP flit to the receiver. -/
  | keep (eng : Nat) (id : Nat)
  /-- TRAINING_SUCCESS (R344). Training succeeds and the port becomes UP or DEGRADED. -/
  | trainingSuccess (k : PortKind) (p : Nat) (lanes : Nat) (peer : BitVec 8)
  /-- TRAINING_TIMEOUT (R344). Training without success for 100 ms sets the port DOWN. -/
  | trainingTimeout (k : PortKind) (p : Nat)
  /-- LANE_FAILURE (R344). A data lane fails and is spared, degraded or takes the port down. -/
  | laneFailure (k : PortKind) (p : Nat) (lane : Nat)
  /-- RECEIVE_TIMEOUT (R344). No flit or frame for 1 µs declares the port down. -/
  | receiveTimeout (k : PortKind) (p : Nat)
  /-- REPLAY_LIMIT (R344). The 32nd consecutive replay of a flit declares the port down. -/
  | replayLimit (k : PortKind) (p : Nat)
  /-- DOWN_RETRY (R344). 1 ms after going DOWN an enabled port retrains. -/
  | downRetry (k : PortKind) (p : Nat)
  /-- FLIT_RECEIVE (R346). A scale-up flit is received, checked by CRC and acted on or replayed. -/
  | flitReceive (p : Nat) (raw : List Byte)
  /-- FRAME_RECEIVE (R347). A scale-out frame is received with its flits. -/
  | frameReceive (p : Nat) (peer : Nat) (raw : List Byte)
  /-- FRAME_RESEND (R347). An unacknowledged frame is resent after 8 µs. -/
  | frameResend (peer : Nat) (pseq : Nat)
  /-- REMOTE_FAILOVER (R349). After the 5 µs quiet period unanswered accesses are resent on the next port. -/
  | remoteFailover (dst : Nat)
  /-- REMOTE_TIMEOUT (R350). A remote access unanswered for 1 ms raises ACCESS or kills the context. -/
  | remoteTimeout (tx : Nat)
  /-- KILL_COMPLETE (R340). All kill conditions met; the device writes DEAD and interrupts the host. -/
  | killComplete (ctx : BitVec 12)
  /-- PACKET_LAUNCH (R330). A LAUNCH packet is dispatched and starts an instance. -/
  | packetLaunch (q : Nat) (regions : List Nat)
  /-- PACKET_COPY (R325). A COPY packet starts a hub copy. -/
  | packetCopy (q : Nat)
  /-- COPY_DONE (R325). The copy's last write completes and its signal is made. -/
  | copyDone (q : Nat)
  /-- PACKET_EVENT (R325). An EVENT packet makes its signal. -/
  | packetEvent (q : Nat)
  /-- PACKET_NOP (R325). A NOP packet is dispatched with no action. -/
  | packetNop (q : Nat)
  /-- POOL_DISPATCH (R336). A pending-launch pool entry is dispatched by its queue. -/
  | poolDispatch (q : Nat) (regions : List Nat)
  /-- PREEMPT (R327). A higher-priority queue becomes ready and the holder is pre-empted. -/
  | preempt (part : Nat)
  /-- DEFICIT_EXPIRY (R328). A queue's deficit reaches zero and it yields or is refilled. -/
  | deficitExpiry (part : Nat)
  /-- FREEZE (R331). A running instance is frozen at firing boundaries. -/
  | freeze (inst : Nat)
  /-- SAVE_DONE (R332). The frozen instance's state has been written to its save record. -/
  | saveDone (inst : Nat)
  /-- RESUME (R335). A saved instance resumes on regions of its partition. -/
  | resume (inst : Nat) (regions : List Nat)
  /-- RETIRE (R330). After acknowledgements the instance retires and its signal is made. -/
  | retire (inst : Nat)
  /-- FAULT_DOMAIN_ACTION (R337). An unhandled fault acts on the instance's fault domain. -/
  | faultDomainAction (r : Nat)
  /-- WATCHDOG (R339). A queue's progress timer expires and its partition is reset. -/
  | watchdog (q : Nat)
  /-- QUEUE_UNPAUSE (R338). A PAUSED queue becomes READY once enough regions are usable. -/
  | queueUnpause (q : Nat)
  /-- WINDOW_BOUNDARY (R304). A sample window completes and counters roll over. -/
  | windowBoundary (inst : Nat)
  /-- REWIRE_START (R312). The layout controller starts a switch wavefront. -/
  | rewireStart (inst : Nat)
  /-- NODE_SWITCH (R312). An affected node takes its new configuration when SWITCH stands on its inputs. -/
  | nodeSwitch (inst : Nat) (node : Nat)
  /-- SWITCH_ORPHAN (R314). A non-merge node is stuck between SWITCH and older tokens. -/
  | switchOrphan (r : Nat) (rank : Nat)
  /-- SPLITTER_DEAL (R309). A splitter deals a token to the chosen clone. -/
  | splitterDeal (inst : Nat) (arc : Nat)
  /-- REORDER_MERGE_EMIT (R309). A reorder merge passes on a token in deal order. -/
  | reorderMergeEmit (inst : Nat) (node : Nat) (port : Nat)
  /-- CONTAINMENT_REPLAY (R364). A facet in containment replays and re-executes its firings. -/
  | containmentReplay (r : Nat) (rank : Nat) (agree : Bool)
  /-- SPARE_MOVE (R365). A failed facet's node moves to a spare facet. -/
  | spareMove (r : Nat) (rank : Nat)
  /-- ISLAND_RERUN (R366). An island re-runs a firing after a checksum mismatch. -/
  | islandRerun (r : Nat) (isl : Nat) (agree : Bool)
  /-- L2_SCRUB (R368). A background scrub reads an L2 line and handles its errors. -/
  | l2Scrub (slice : Nat) (set : Nat) (way : Nat) (found : Finding)
  /-- HBM_SCRUB (R368). A background scrub reads HBM and handles its errors. -/
  | hbmScrub (addr : Nat) (found : Finding)
  /-- CHECKPOINT_PHASE_END (R376). A checkpoint phase ends and interrupts the physical function. -/
  | checkpointPhaseEnd (i : Nat)
  /-- HOST_WINDOW_ACCESS (R382). A PF BAR2 access reaches a local address of the device. -/
  | hostWindowAccess (off : Nat) (acc : HostAccess)
  /-- VF_WINDOW_ACCESS (R379). A VF BAR2 access is translated in the window's context. -/
  | vfWindowAccess (vf : Nat) (off : Nat) (acc : HostAccess)
  /-- REGISTER_WRITE (R382). A write to a device register without a row of its own, checked against its ranges. -/
  | registerWrite (off : Nat) (v : Word64)
  /-- KEY_SLOT_FILL (R384). An SPDM message fills a tenant key slot. -/
  | keySlotFill (slot : Nat) (vf : Nat) (key : BitVec 512)
  /-- TDI_EXIT (R387). A TDI leaving RUN erases its key slots and kills their contexts. -/
  | tdiExit (vf : Nat)
  /-- GET_MEASUREMENTS (R390). A function answers SPDM GET_MEASUREMENTS. -/
  | getMeasurements (fn : Nat)
  /-- FIRMWARE_STAGE (R389). The PF stages a signed firmware or store update. -/
  | firmwareStage (img : StagedImage)
  /-- PERST_RELEASE (R391). Release of PERST# starts the boot sequence. -/
  | perstRelease (b : BootRun)
  /-- SHDN (R397). SHDN# stops all work without a save. -/
  | shdn
  /-- THERMTRIP (R396). At 115 °C the device asserts THERMTRIP# and stops. -/
  | thermtrip (tmax : BitVec 8)
  /-- ENERGY_REFILL (R393). At each 10 µs boundary the energy pool is divided into accounts. -/
  | energyRefill (tmax : BitVec 8) (watts : BitVec 16)
  /-- WFI_COMPLETE (R242). A waiting WFI completes at any other time, with none of its wake events. -/
  | wfiComplete (r : Nat)
  /-- PERST_ASSERT (R397). Assertion of the PERST# fundamental reset resets the running device, and all state returns to its reset values. -/
  | perstAssert
  /-- PWRGD (R397). The PWRGD input is asserted or deasserted as the rails come within, or leave, tolerance. -/
  | pwrgd (up : Bool)
  deriving DecidableEq, Repr

end Sys2Proof
end

