-- ==== Sys2Proof/WellFormed.lean ====
section
/-!
DEFINITION. When a facet word's fields are permitted (R138, R140, R141, and each instruction's own
table): the form of every facet instruction, and the check. Conductor words and device steps carry no
field that their types leave unchecked.
-/
namespace Sys2Proof

/-- What an instruction allows in D (R138, R141). -/
inductive DestKind where
  | no    -- NONE alone
  | any   -- a register, an output channel or NONE
  | out   -- an output channel alone (R173, R177, R271)
  deriving DecidableEq, Repr

/-- What an instruction allows in A, B or C. -/
inductive SrcKind where
  | no              -- NONE alone
  | src             -- any source of R138
  | opt             -- a source, or NONE (R172, R271)
  | pop             -- an input channel, popped (R174)
  | popOpt          -- the same, or NONE (R177)
  | chan            -- an input channel, popped or peeked (R267, R270)
  | imm (hi : Nat)  -- an immediate of 0 to hi
  | raw             -- six bits read in another way (R140)
  | ctl             -- a control channel, 0 or 1 (R140)
  deriving DecidableEq, Repr

/-- What an instruction allows in H. -/
inductive HKind where | zero | any
  deriving DecidableEq, Repr

/-- The permitted fields of one instruction. -/
structure Form where
  d : DestKind
  a : SrcKind
  b : SrcKind
  c : SrcKind
  h : HKind
  sv : Bool
  deriving DecidableEq, Repr

namespace Operand

/-- The specifier's six bits (R138). -/
def code : Operand → Nat
  | reg n => n.val
  | pop c => 16 + c.val
  | peek c => 20 + c.val
  | out c => 24 + c.val
  | zero => 28
  | laneid => 29
  | konst => 30
  | none => 31
  | imm v => 32 + v.val

/-- The specifier that six bits name (R138). -/
def ofCode (k : Nat) : Operand :=
  if k < 16 then .reg (Fin.ofNat 16 k)
  else if k < 20 then .pop (Fin.ofNat 4 (k - 16))
  else if k < 24 then .peek (Fin.ofNat 4 (k - 20))
  else if k < 28 then .out (Fin.ofNat 4 (k - 24))
  else if k = 28 then .zero
  else if k = 29 then .laneid
  else if k = 30 then .konst
  else if k = 31 then .none
  else .imm (Fin.ofNat 32 (k - 32))

/-- The value of an immediate specifier, -16 to 15 (R138). -/
def immVal (v : Fin 32) : Int := (v.val : Int) - 16

/-- A source of R138. -/
def isSource : Operand → Bool
  | out _ => false
  | none => false
  | _ => true

/-- A destination of R138. -/
def isDest : Operand → Bool
  | reg _ => true
  | out _ => true
  | none => true
  | _ => false

end Operand

/-- Whether `o` is permitted in D. -/
def DestKind.ok : DestKind → Operand → Bool
  | .no, o => o == .none
  | .any, o => o.isDest
  | .out, .out _ => true
  | .out, _ => false

/-- Whether `o` is permitted in A, B or C. -/
def SrcKind.ok : SrcKind → Operand → Bool
  | .no, o => o == .none
  | .src, o => o.isSource
  | .opt, o => o.isSource || o == .none
  | .pop, .pop _ => true
  | .pop, _ => false
  | .popOpt, .pop _ => true
  | .popOpt, o => o == .none
  | .chan, .pop _ => true
  | .chan, .peek _ => true
  | .chan, _ => false
  | .imm hi, .imm v => 16 ≤ v.val && v.val ≤ 16 + hi
  | .imm _, _ => false
  | .raw, _ => true
  | .ctl, o => o.code ≤ 1

/-- The form of each facet instruction, and the word it carries. -/
def Instr.form : Instr → Option (Form × FWord)
  | .nop w => some (⟨.no, .no, .no, .no, .zero, true⟩, w)
  | .mov w => some (⟨.any, .src, .no, .no, .zero, true⟩, w)
  | .movi w => some (⟨.any, .no, .raw, .raw, .zero, true⟩, w)
  | .movis w => some (⟨.any, .no, .raw, .raw, .zero, true⟩, w)
  | .sel w => some (⟨.any, .src, .src, .src, .zero, true⟩, w)
  | .drop w => some (⟨.no, .src, .opt, .opt, .zero, true⟩, w)
  | .steer w => some (⟨.out, .src, .no, .ctl, .zero, true⟩, w)
  | .steerx w => some (⟨.out, .src, .no, .ctl, .zero, true⟩, w)
  | .merge w => some (⟨.any, .pop, .pop, .ctl, .zero, true⟩, w)
  | .mergeu w => some (⟨.any, .pop, .pop, .ctl, .zero, true⟩, w)
  | .emitn w => some (⟨.out, .popOpt, .no, .no, .zero, true⟩, w)
  | .ctl w => some (⟨.no, .imm 7, .no, .ctl, .zero, true⟩, w)
  | .cease w => some (⟨.no, .chan, .no, .no, .zero, false⟩, w)
  | .vers w => some (⟨.any, .chan, .no, .no, .zero, true⟩, w)
  | .vfin w => some (⟨.out, .src, .opt, .no, .zero, false⟩, w)
  | .halt w => some (⟨.no, .no, .no, .no, .zero, true⟩, w)
  | .facetAdd _ w => some (⟨.any, .src, .src, .no, .zero, true⟩, w)
  | .facetSub _ w => some (⟨.any, .src, .src, .no, .zero, true⟩, w)
  | .addss _ w => some (⟨.any, .src, .src, .no, .zero, true⟩, w)
  | .addsz _ w => some (⟨.any, .src, .src, .no, .zero, true⟩, w)
  | .subss _ w => some (⟨.any, .src, .src, .no, .zero, true⟩, w)
  | .subsz _ w => some (⟨.any, .src, .src, .no, .zero, true⟩, w)
  | .facetMul _ w => some (⟨.any, .src, .src, .no, .zero, true⟩, w)
  | .facetMulhs _ w => some (⟨.any, .src, .src, .no, .zero, true⟩, w)
  | .facetMulhz _ w => some (⟨.any, .src, .src, .no, .zero, true⟩, w)
  | .facetMins _ w => some (⟨.any, .src, .src, .no, .zero, true⟩, w)
  | .facetMinz _ w => some (⟨.any, .src, .src, .no, .zero, true⟩, w)
  | .facetMaxs _ w => some (⟨.any, .src, .src, .no, .zero, true⟩, w)
  | .facetMaxz _ w => some (⟨.any, .src, .src, .no, .zero, true⟩, w)
  | .abs _ w => some (⟨.any, .src, .no, .no, .zero, true⟩, w)
  | .mac _ w => some (⟨.any, .src, .src, .src, .zero, true⟩, w)
  | .facetClz _ w => some (⟨.any, .src, .no, .no, .zero, true⟩, w)
  | .facetAnd w => some (⟨.any, .src, .src, .no, .zero, true⟩, w)
  | .facetOr w => some (⟨.any, .src, .src, .no, .zero, true⟩, w)
  | .facetXor w => some (⟨.any, .src, .src, .no, .zero, true⟩, w)
  | .facetAndn w => some (⟨.any, .src, .src, .no, .zero, true⟩, w)
  | .facetShl _ w => some (⟨.any, .src, .src, .no, .zero, true⟩, w)
  | .facetShrz _ w => some (⟨.any, .src, .src, .no, .zero, true⟩, w)
  | .facetShrs _ w => some (⟨.any, .src, .src, .no, .zero, true⟩, w)
  | .cmpeq _ w => some (⟨.any, .src, .src, .no, .zero, true⟩, w)
  | .cmplts _ w => some (⟨.any, .src, .src, .no, .zero, true⟩, w)
  | .cmpltz _ w => some (⟨.any, .src, .src, .no, .zero, true⟩, w)
  | .test _ w => some (⟨.any, .src, .src, .no, .zero, true⟩, w)
  | .fadd _ w => some (⟨.any, .src, .src, .no, .any, true⟩, w)
  | .fsub _ w => some (⟨.any, .src, .src, .no, .any, true⟩, w)
  | .fmul _ w => some (⟨.any, .src, .src, .no, .any, true⟩, w)
  | .ffma _ w => some (⟨.any, .src, .src, .src, .any, true⟩, w)
  | .fmin _ w => some (⟨.any, .src, .src, .no, .any, true⟩, w)
  | .fmax _ w => some (⟨.any, .src, .src, .no, .any, true⟩, w)
  | .fneg _ w => some (⟨.any, .src, .no, .no, .zero, true⟩, w)
  | .fabs _ w => some (⟨.any, .src, .no, .no, .zero, true⟩, w)
  | .fcmpeq _ w => some (⟨.any, .src, .src, .no, .zero, true⟩, w)
  | .fcmplt _ w => some (⟨.any, .src, .src, .no, .zero, true⟩, w)
  | .fcmple _ w => some (⟨.any, .src, .src, .no, .zero, true⟩, w)
  | .frcp _ w => some (⟨.any, .src, .no, .no, .any, true⟩, w)
  | .frsq _ w => some (⟨.any, .src, .no, .no, .any, true⟩, w)
  | .fexp2 _ w => some (⟨.any, .src, .no, .no, .any, true⟩, w)
  | .flog2 _ w => some (⟨.any, .src, .no, .no, .any, true⟩, w)
  | .fscale _ w => some (⟨.any, .src, .src, .no, .any, true⟩, w)
  | .cvtn _ w => some (⟨.any, .src, .src, .no, .any, true⟩, w)
  | .cvtw _ w => some (⟨.any, .src, .imm 1, .no, .zero, true⟩, w)
  | .cvtfi w => some (⟨.any, .src, .no, .no, .any, true⟩, w)
  | .cvtif w => some (⟨.any, .src, .no, .no, .any, true⟩, w)
  | .shuf w => some (⟨.any, .src, .src, .src, .zero, true⟩, w)
  | .bcast w => some (⟨.any, .src, .imm 3, .no, .zero, true⟩, w)
  | .extr w => some (⟨.any, .src, .src, .src, .zero, true⟩, w)
  | .lsumW w => some (⟨.any, .src, .no, .no, .zero, true⟩, w)
  | .lsumF32 w => some (⟨.any, .src, .no, .no, .any, true⟩, w)
  | .lmaxF32 w => some (⟨.any, .src, .no, .no, .zero, true⟩, w)
  | .lds w => some (⟨.any, .src, .no, .raw, .zero, true⟩, w)
  | .sts w => some (⟨.no, .src, .src, .raw, .zero, true⟩, w)
  | .ldsw w => some (⟨.any, .src, .no, .raw, .zero, true⟩, w)
  | .stsw w => some (⟨.no, .src, .src, .raw, .zero, true⟩, w)
  | .ldg w => some (⟨.any, .src, .no, .raw, .any, true⟩, w)
  | .ldgb w => some (⟨.any, .src, .no, .raw, .any, true⟩, w)
  | .stg w => some (⟨.no, .src, .src, .raw, .any, true⟩, w)
  | .stge w => some (⟨.no, .src, .src, .raw, .any, true⟩, w)
  | .pref w => some (⟨.no, .src, .no, .raw, .any, true⟩, w)
  | .atoms w => some (⟨.any, .src, .src, .raw, .zero, true⟩, w)
  | .atomg w => some (⟨.any, .src, .src, .raw, .any, true⟩, w)
  | .cass w => some (⟨.any, .src, .src, .raw, .zero, true⟩, w)
  | .casg w => some (⟨.any, .src, .src, .raw, .any, true⟩, w)
  | .fence w => some (⟨.no, .imm 4, .no, .no, .zero, true⟩, w)
  | .acq w => some (⟨.no, .imm 4, .no, .no, .zero, true⟩, w)
  | .rel w => some (⟨.no, .imm 4, .no, .no, .zero, true⟩, w)
  | .hstat w => some (⟨.any, .raw, .src, .no, .zero, true⟩, w)
  | .htake w => some (⟨.any, .raw, .src, .no, .zero, true⟩, w)
  | .hfree w => some (⟨.no, .raw, .src, .no, .zero, true⟩, w)
  | .wptr w => some (⟨.any, .raw, .src, .no, .zero, true⟩, w)
  | .wpwait w => some (⟨.any, .raw, .src, .src, .zero, true⟩, w)
  | .treq w => some (⟨.any, .raw, .src, .no, .zero, true⟩, w)
  | .accrd w => some (⟨.any, .raw, .src, .no, .zero, false⟩, w)
  | .tempty w => some (⟨.any, .raw, .no, .no, .zero, true⟩, w)
  | .lzres w => some (⟨.any, .raw, .src, .no, .zero, true⟩, w)
  | .lzsend w => some (⟨.any, .raw, .src, .no, .zero, true⟩, w)
  | .lzstat w => some (⟨.any, .raw, .src, .no, .zero, true⟩, w)
  | .lzreset w => some (⟨.no, .raw, .src, .no, .zero, true⟩, w)
  | .trap w => some (⟨.no, .src, .no, .no, .zero, true⟩, w)
  | .brk w => some (⟨.no, .no, .no, .no, .zero, true⟩, w)
  | .rdcnt w => some (⟨.any, .no, .imm 10, .no, .zero, true⟩, w)
  | .rdst w => some (⟨.any, .no, .imm 2, .no, .zero, true⟩, w)
  | .setpv w => some (⟨.no, .src, .no, .no, .zero, true⟩, w)
  | .getp w => some (⟨.any, .no, .no, .no, .zero, true⟩, w)
  | .beat w => some (⟨.no, .no, .no, .no, .zero, true⟩, w)
  | .layv w => some (⟨.any, .no, .no, .no, .zero, true⟩, w)
  | .seq w => some (⟨.no, .imm 3, .src, .no, .zero, true⟩, w)
  | .settag w => some (⟨.no, .imm 3, .src, .no, .zero, true⟩, w)
  | .dot4Tf8 w => some (⟨.any, .src, .src, .src, .any, true⟩, w)
  | .sort4W w => some (⟨.any, .src, .no, .no, .zero, true⟩, w)
  | _ => none

/-- The rules of R141 that every facet word keeps, whatever its form: neutral TG and PU fields. -/
def FWord.neutral (w : FWord) : Bool :=
  (w.tgEn || (w.tgCh == 0 && w.tgTag == 0)) && (w.puAct != 0 || w.puIdx == 0)

/-- MERGE and MERGEU take two different channels (R174, R175). -/
def Instr.twoChannels : Instr → Bool
  | .merge w => w.a != w.b
  | .mergeu w => w.a != w.b
  | _ => true

/-- Whether an instruction's fields are permitted (R138 to R141, R144). -/
def Instr.wf (i : Instr) : Bool :=
  match i.form with
  | none => true
  | some (f, w) =>
    w.neutral && f.d.ok w.d && f.a.ok w.a && f.b.ok w.b && f.c.ok w.c &&
      (f.h == .any || w.h == 0) && (f.sv || !w.sv) && i.twoChannels

end Sys2Proof
end

