-- ==== Sys2Proof/Decode.lean ====
section
/-!
DEFINITION. Decoding and encoding (R136 to R147). Decoding is total: every word gives an instruction or
the name of what is wrong with it. The encoder is written from the same tables.
-/
namespace Sys2Proof

/-- Why a word is no instruction. -/
inductive DecodeError where
  | invalid        -- an opcode marked inv (R146, R147)
  | reserved       -- an opcode marked res (R146, R147)
  | experimental   -- an experimental opcode with no mnemonic (R145)
  | subOperation   -- a reserved FN or sub-operation value (R143, R144)
  | unusedField    -- a nonzero unused field of a conductor word (R143)
  | field          -- a facet word breaking R141
  deriving DecidableEq, Repr

namespace Decode

/-- `len` bits of `w` from bit `lo`, as a number. -/
def bits {n : Nat} (w : BitVec n) (lo len : Nat) : Nat := (w.extractLsb' lo len).toNat

/-- The element size of a size code (R180). -/
def size : Nat → Size
  | 0 => .B
  | 1 => .H
  | 2 => .W
  | _ => .D

/-- The size code of an element size (R180). -/
def sizeCode : Size → Nat
  | .B => 0
  | .H => 1
  | .W => 2
  | .D => 3

/-- The narrow format of a column of row 0xA_ (R146). -/
def nfmt : Nat → NFmt
  | 0 => .f16
  | 1 => .bf16
  | 2 => .tf8
  | _ => .tf6

/-- The column of a narrow format (R146). -/
def nfmtCode : NFmt → Nat
  | .f16 => 0
  | .bf16 => 1
  | .tf8 => 2
  | .tf6 => 3

/-- The row of a floating-point format, counted from 0x7_ (R146). -/
def ffmtCode : FFmt → Nat
  | .f32 => 0
  | .f16 => 1
  | .bf16 => 2

/-- A scope level, where the three bits name one (R144). -/
def level (k : Nat) : Option Level := if h : k < 5 then some ⟨k, h⟩ else none

/-- The slot state of a WAITH (R144). -/
def slotState : Nat → Option SlotState
  | 0 => some .free
  | 1 => some .reserved
  | 2 => some .filling
  | 3 => some .full
  | 4 => some .draining
  | 5 => some .aborted
  | _ => none

/-- The code of a slot state (R282). -/
def slotStateCode : SlotState → Nat
  | .free => 0
  | .reserved => 1
  | .filling => 2
  | .full => 3
  | .draining => 4
  | .aborted => 5

/-- The kind of a SHI (R214). -/
def shiftKind : Nat → Option ShiftKind
  | 0 => some .shl
  | 1 => some .shrz
  | 2 => some .shrs
  | _ => none

/-- The code of a SHI's kind (R214). -/
def shiftKindCode : ShiftKind → Nat
  | .shl => 0
  | .shrz => 1
  | .shrs => 2

/-- The fields of a facet word below its opcode and above it (R137). -/
def fword (x : BitVec 64) : FWord :=
  { pm := x.extractLsb' 56 8
    pv := x.extractLsb' 48 8
    tgEn := x.getLsbD 47
    tgCh := Fin.ofNat 4 (bits x 45 2)
    tgTag := x.extractLsb' 43 2
    d := Operand.ofCode (bits x 29 6)
    a := Operand.ofCode (bits x 23 6)
    b := Operand.ofCode (bits x 17 6)
    c := Operand.ofCode (bits x 11 6)
    puIdx := Fin.ofNat 8 (bits x 8 3)
    puAct := x.extractLsb' 6 2
    h := x.extractLsb' 4 2
    sv := x.getLsbD 3
    sw := x.getLsbD 2 }

/-- The opcode of a facet word (R137). -/
def facetOp (x : BitVec 64) : Nat := bits x 35 8

/-- The facet opcode map of R146. -/
def facetRow (op : Nat) (w : FWord) : Option Instr :=
  let col := op % 16
  let sz := size (op % 4)
  match op / 16 with
  | 0x0 =>
    match col with
    | 0 => some (.nop w)
    | 1 => some (.mov w)
    | 2 => some (.movi w)
    | 3 => some (.movis w)
    | 4 => some (.sel w)
    | 5 => some (.drop w)
    | 6 => some (.steer w)
    | 7 => some (.steerx w)
    | 8 => some (.merge w)
    | 9 => some (.mergeu w)
    | 10 => some (.emitn w)
    | 11 => some (.ctl w)
    | 12 => some (.cease w)
    | 13 => some (.vers w)
    | 14 => some (.vfin w)
    | 15 => some (.halt w)
    | _ => none
  | 0x1 =>
    match col / 4 with
    | 0 => some (.facetAdd sz w)
    | 1 => some (.facetSub sz w)
    | 2 => some (.addss sz w)
    | 3 => some (.addsz sz w)
    | _ => none
  | 0x2 =>
    match col / 4 with
    | 0 => some (.subss sz w)
    | 1 => some (.subsz sz w)
    | 2 => some (.facetMul sz w)
    | 3 => some (.facetMulhs sz w)
    | _ => none
  | 0x3 =>
    match col / 4 with
    | 0 => some (.facetMulhz sz w)
    | 1 => some (.facetMins sz w)
    | 2 => some (.facetMinz sz w)
    | 3 => some (.facetMaxs sz w)
    | _ => none
  | 0x4 =>
    match col / 4 with
    | 0 => some (.facetMaxz sz w)
    | 1 => some (.abs sz w)
    | 2 => some (.mac sz w)
    | 3 => some (.facetClz sz w)
    | _ => none
  | 0x5 =>
    match col / 4 with
    | 0 =>
      match col with
      | 0 => some (.facetAnd w)
      | 1 => some (.facetOr w)
      | 2 => some (.facetXor w)
      | 3 => some (.facetAndn w)
      | _ => none
    | 1 => some (.facetShl sz w)
    | 2 => some (.facetShrz sz w)
    | 3 => some (.facetShrs sz w)
    | _ => none
  | 0x6 =>
    match col / 4 with
    | 0 => some (.cmpeq sz w)
    | 1 => some (.cmplts sz w)
    | 2 => some (.cmpltz sz w)
    | 3 => some (.test sz w)
    | _ => none
  | 0x7 =>
    match col with
    | 0 => some (.fadd .f32 w)
    | 1 => some (.fsub .f32 w)
    | 2 => some (.fmul .f32 w)
    | 3 => some (.ffma .f32 w)
    | 4 => some (.fmin .f32 w)
    | 5 => some (.fmax .f32 w)
    | 6 => some (.fneg .f32 w)
    | 7 => some (.fabs .f32 w)
    | 8 => some (.fcmpeq .f32 w)
    | 9 => some (.fcmplt .f32 w)
    | 10 => some (.fcmple .f32 w)
    | 11 => some (.frcp .f32 w)
    | 12 => some (.frsq .f32 w)
    | 13 => some (.fexp2 .f32 w)
    | 14 => some (.flog2 .f32 w)
    | 15 => some (.fscale .f32 w)
    | _ => none
  | 0x8 =>
    match col with
    | 0 => some (.fadd .f16 w)
    | 1 => some (.fsub .f16 w)
    | 2 => some (.fmul .f16 w)
    | 3 => some (.ffma .f16 w)
    | 4 => some (.fmin .f16 w)
    | 5 => some (.fmax .f16 w)
    | 6 => some (.fneg .f16 w)
    | 7 => some (.fabs .f16 w)
    | 8 => some (.fcmpeq .f16 w)
    | 9 => some (.fcmplt .f16 w)
    | 10 => some (.fcmple .f16 w)
    | 11 => some (.frcp .f16 w)
    | 12 => some (.frsq .f16 w)
    | 13 => some (.fexp2 .f16 w)
    | 14 => some (.flog2 .f16 w)
    | 15 => some (.fscale .f16 w)
    | _ => none
  | 0x9 =>
    match col with
    | 0 => some (.fadd .bf16 w)
    | 1 => some (.fsub .bf16 w)
    | 2 => some (.fmul .bf16 w)
    | 3 => some (.ffma .bf16 w)
    | 4 => some (.fmin .bf16 w)
    | 5 => some (.fmax .bf16 w)
    | 6 => some (.fneg .bf16 w)
    | 7 => some (.fabs .bf16 w)
    | 8 => some (.fcmpeq .bf16 w)
    | 9 => some (.fcmplt .bf16 w)
    | 10 => some (.fcmple .bf16 w)
    | 11 => some (.frcp .bf16 w)
    | 12 => some (.frsq .bf16 w)
    | 13 => some (.fexp2 .bf16 w)
    | 14 => some (.flog2 .bf16 w)
    | 15 => some (.fscale .bf16 w)
    | _ => none
  | 0xA =>
    match col with
    | 0 => some (.cvtn .f16 w)
    | 1 => some (.cvtn .bf16 w)
    | 2 => some (.cvtn .tf8 w)
    | 3 => some (.cvtn .tf6 w)
    | 4 => some (.cvtw .f16 w)
    | 5 => some (.cvtw .bf16 w)
    | 6 => some (.cvtw .tf8 w)
    | 7 => some (.cvtw .tf6 w)
    | 8 => some (.cvtfi w)
    | 9 => some (.cvtif w)
    | 10 => some (.shuf w)
    | 11 => some (.bcast w)
    | 12 => some (.lsumW w)
    | 13 => some (.lsumF32 w)
    | 14 => some (.lmaxF32 w)
    | 15 => some (.extr w)
    | _ => none
  | 0xB =>
    match col with
    | 0 => some (.lds w)
    | 1 => some (.sts w)
    | 2 => some (.ldsw w)
    | 3 => some (.stsw w)
    | 4 => some (.ldg w)
    | 5 => some (.ldgb w)
    | 6 => some (.stg w)
    | 7 => some (.stge w)
    | 8 => some (.atoms w)
    | 9 => some (.atomg w)
    | 10 => some (.cass w)
    | 11 => some (.casg w)
    | 12 => some (.fence w)
    | 13 => some (.acq w)
    | 14 => some (.rel w)
    | 15 => some (.pref w)
    | _ => none
  | 0xC =>
    match col with
    | 0 => some (.hstat w)
    | 1 => some (.htake w)
    | 2 => some (.hfree w)
    | 3 => some (.wptr w)
    | 4 => some (.wpwait w)
    | 5 => some (.treq w)
    | 6 => some (.accrd w)
    | 7 => some (.tempty w)
    | 8 => some (.lzres w)
    | 9 => some (.lzsend w)
    | 10 => some (.lzstat w)
    | 11 => some (.lzreset w)
    | _ => none
  | 0xD =>
    match col with
    | 0 => some (.trap w)
    | 1 => some (.brk w)
    | 2 => some (.rdcnt w)
    | 3 => some (.rdst w)
    | 4 => some (.setpv w)
    | 5 => some (.getp w)
    | 6 => some (.beat w)
    | 7 => some (.layv w)
    | 8 => some (.seq w)
    | 9 => some (.settag w)
    | _ => none
  | 0xE =>
    match col with
    | 0 => some (.dot4Tf8 w)
    | 1 => some (.sort4W w)
    | _ => none
  | _ => none

/-- What an opcode with no instruction is called (R145, R146). -/
def facetMissing (op : Nat) : DecodeError :=
  if op / 16 = 0xF then .invalid else if op / 16 = 0xE then .experimental else .reserved

/-- An instruction of a facet slot, on a stepping where every opcode of the table exists (R146, R148). -/
def facet (x : BitVec 64) : Except DecodeError Instr :=
  match facetRow (facetOp x) (fword x) with
  | none => .error (facetMissing (facetOp x))
  | some i => if i.wf && bits x 0 2 == 0 then .ok i else .error .field

/-- Register number fields of a conductor word (R142). -/
def reg (k : Nat) : Reg := Fin.ofNat 32 k

/-- An instruction, once its unused bits are found to be zero (R143). -/
def whenZero (zero : Bool) (i : Instr) : Except DecodeError Instr :=
  if zero then .ok i else .error .unusedField

/-- The ALU operations of R213. -/
def alu (fn : Nat) (d a b : Reg) : Except DecodeError Instr :=
  match fn with
  | 0 => .ok (.add d a b)
  | 1 => .ok (.sub d a b)
  | 2 => .ok (.and d a b)
  | 3 => .ok (.or d a b)
  | 4 => .ok (.xor d a b)
  | 5 => .ok (.andn d a b)
  | 6 => .ok (.shl d a b)
  | 7 => .ok (.shrz d a b)
  | 8 => .ok (.shrs d a b)
  | 9 => .ok (.mul d a b)
  | 10 => .ok (.mulhs d a b)
  | 11 => .ok (.mulhz d a b)
  | 12 => .ok (.divs d a b)
  | 13 => .ok (.divz d a b)
  | 14 => .ok (.rems d a b)
  | 15 => .ok (.remz d a b)
  | 16 => .ok (.slts d a b)
  | 17 => .ok (.sltz d a b)
  | 18 => .ok (.mins d a b)
  | 19 => .ok (.maxs d a b)
  | 20 => .ok (.minz d a b)
  | 21 => .ok (.maxz d a b)
  | 22 => whenZero (b == 0) (.clz d a)
  | 23 => whenZero (b == 0) (.popc d a)
  | 24 => .ok (.addw d a b)
  | 25 => .ok (.subw d a b)
  | 26 => .ok (.selnz d a b)
  | _ => .error .subOperation

/-- The atomics of R144 and R219. -/
def amo (fn : Nat) (d a b : Reg) : Except DecodeError Instr :=
  let wide := (fn / 64) % 2 == 1
  match level ((fn / 8) % 8) with
  | none => .error .subOperation
  | some lvl =>
    let z := fn % 8 == 0
    match fn / 128 with
    | 0 => whenZero z (.amoAdd d a b wide lvl)
    | 1 => whenZero z (.amoAnd d a b wide lvl)
    | 2 => whenZero z (.amoOr d a b wide lvl)
    | 3 => whenZero z (.amoXor d a b wide lvl)
    | 4 => whenZero z (.amoMins d a b wide lvl)
    | 5 => whenZero z (.amoMaxs d a b wide lvl)
    | 6 => whenZero z (.amoMinz d a b wide lvl)
    | 7 => whenZero z (.amoMaxz d a b wide lvl)
    | 8 => whenZero z (.amoXchg d a b wide lvl)
    | 9 => whenZero z (.amoCas d a b wide lvl)
    | 10 => if wide then .error .subOperation else whenZero z (.amoFadd d a b lvl)
    | _ => .error .subOperation

/-- The fences of R144 and R220. -/
def fence (fn : Nat) (d a b : Reg) : Except DecodeError Instr :=
  let z := d == 0 && fn / 32 == 0
  match level ((fn / 4) % 8) with
  | none => .error .subOperation
  | some lvl =>
    match fn % 4 with
    | 0 => whenZero (z && a == 0 && b == 0) (.fenceFull lvl)
    | 1 => whenZero (z && a == 0 && b == 0) (.fenceAcq lvl)
    | 2 => whenZero (z && a == 0 && b == 0) (.fenceRel lvl)
    | _ => if lvl == 0 then whenZero z (.fenceTinv a b) else .error .unusedField

/-- The L2 controls of R144 and R222. -/
def l2ctl (fn : Nat) (d a b : Reg) : Except DecodeError Instr :=
  let z := d == 0 && fn / 256 == 0
  let n : Fin 16 := Fin.ofNat 16 (fn / 16)
  match fn % 16 with
  | 0 => whenZero z (.l2ctlSetrb a b n)
  | 1 => whenZero z (.l2ctlSetrl a b n)
  | 2 => whenZero z (.l2ctlUnpin a b n)
  | 3 => whenZero (z && n == 0) (.l2ctlWbinv a b)
  | _ => .error .subOperation

/-- The rewire operations of R144 and R236. -/
def rewire (fn : Nat) (d a b : Reg) : Except DecodeError Instr :=
  let z := fn / 8 == 0
  match fn % 8 with
  | 0 => whenZero z (.rewireHint d a b)
  | 1 => whenZero z (.rewireLock d a b)
  | 2 => whenZero z (.rewireUnlock d a b)
  | 3 => whenZero z (.rewirePin d a b)
  | 4 => whenZero z (.rewireUnpin d a b)
  | _ => .error .subOperation

/-- The landing-zone operations of R144 and R302. -/
def lzctl (fn : Nat) (d a b : Reg) : Except DecodeError Instr :=
  let z := fn / 8 == 0
  match fn % 8 with
  | 0 => whenZero z (.lzctlReserve d a b)
  | 1 => whenZero z (.lzctlRelease d a b)
  | 2 => whenZero z (.lzctlStatus d a b)
  | 3 => whenZero z (.lzctlResume d a b)
  | 4 => whenZero z (.lzctlClear d a b)
  | _ => .error .subOperation

/-- The system operations of R144 and R241. -/
def sys (fn : Nat) (d a b : Reg) : Except DecodeError Instr :=
  let code : BitVec 6 := BitVec.ofNat 6 (fn / 32)
  let z := d == 0 && a == 0 && b == 0
  match fn % 32 with
  | 0 => whenZero z (.sysTrap code)
  | 1 => whenZero (z && code == 0) .eret
  | 2 => whenZero (z && code == 0) .wfi
  | 3 => whenZero z (.sysBrk code)
  | 4 => whenZero (d == 0 && code == 0) (.icinv a b)
  | 5 => whenZero z (.sysBeat code)
  | 6 => whenZero z (.sysCease code)
  | 7 => whenZero (z && code == 0) .sysHalt
  | _ => .error .subOperation

/-- A conductor word (R142 to R144, R147). -/
def conductor (w : BitVec 32) : Except DecodeError Instr :=
  let d := reg (bits w 21 5)
  let a := reg (bits w 16 5)
  let b := reg (bits w 11 5)
  let fn := bits w 0 11
  let imm : BitVec 16 := w.extractLsb' 0 16
  let disp : BitVec 26 := w.extractLsb' 0 26
  match bits w 26 6 with
  | 0x00 => .error .invalid
  | 0x01 => alu fn d a b
  | 0x02 => .ok (.addi d a imm)
  | 0x03 => .ok (.andi d a imm)
  | 0x04 => .ok (.ori d a imm)
  | 0x05 => .ok (.xori d a imm)
  | 0x06 => match shiftKind ((imm.toNat / 64) % 4) with
    | none => .error .subOperation
    | some k => whenZero (imm.toNat / 256 == 0) (.shi d a k (BitVec.ofNat 6 imm.toNat))
  | 0x07 => .ok (.slti d a imm)
  | 0x08 => .ok (.sltiz d a imm)
  | 0x09 => whenZero (a == 0) (.lui d imm)
  | 0x0A => .ok (.ins16 d a imm)
  | 0x0B => whenZero (a == 0) (.addpc d imm)
  | 0x0C => .error .experimental
  | 0x0D => .error .experimental
  | 0x0E => .error .experimental
  | 0x0F => .error .experimental
  | 0x10 => .ok (.beq d a imm)
  | 0x11 => .ok (.bne d a imm)
  | 0x12 => .ok (.blts d a imm)
  | 0x13 => .ok (.bges d a imm)
  | 0x14 => .ok (.blo d a imm)
  | 0x15 => .ok (.bhs d a imm)
  | 0x16 => .ok (.j disp)
  | 0x17 => .ok (.jal disp)
  | 0x18 => .ok (.jalr d a imm)
  | 0x19 => .ok (.ldb d a imm)
  | 0x1A => .ok (.ldh d a imm)
  | 0x1B => .ok (.ldw d a imm)
  | 0x1C => .ok (.ldd d a imm)
  | 0x1D => .ok (.ldbz d a imm)
  | 0x1E => .ok (.ldhz d a imm)
  | 0x1F => .ok (.ldwz d a imm)
  | 0x20 => .ok (.stb d a imm)
  | 0x21 => .ok (.sth d a imm)
  | 0x22 => .ok (.stw d a imm)
  | 0x23 => .ok (.std d a imm)
  | 0x24 => amo fn d a b
  | 0x25 => fence fn d a b
  | 0x26 => l2ctl fn d a b
  | 0x27 => match slotState (fn % 8) with
    | none => .error .subOperation
    | some s => whenZero (fn / 8 == 0) (.waith d a b s)
  | 0x28 => whenZero (a == 0) (.mfs d imm)
  | 0x29 => whenZero (d == 0) (.mts a imm)
  | 0x2A => whenZero (b == 0 && fn == 0) (.tokin d a)
  | 0x2B => whenZero (d == 0 && fn == 0) (.tokout a b)
  | 0x2C => whenZero (b == 0 && fn == 0) (.toktry d a)
  | 0x30 => whenZero (fn == 0) (.cfgld d a b)
  | 0x31 => whenZero (b == 0 && fn == 0) (.cfggo d a)
  | 0x32 => whenZero (b == 0 && fn == 0) (.switch d a)
  | 0x33 => rewire fn d a b
  | 0x34 => whenZero (a == 0 && b == 0 && fn == 0) (.layver d)
  | 0x35 => whenZero (b == 0 && fn == 0) (.layq d a)
  | 0x36 => whenZero (fn == 0) (.rate d a b)
  | 0x38 => whenZero (fn == 0) (.strm d a b)
  | 0x39 => whenZero (fn == 0) (.strmst d a b)
  | 0x3A => whenZero (fn == 0) (.tdset d a b)
  | 0x3B => whenZero (fn == 0) (.prset d a b)
  | 0x3C => whenZero (fn == 0) (.chord d a b)
  | 0x3D => lzctl fn d a b
  | 0x3E => whenZero (fn == 0) (.launch d a b)
  | 0x3F => sys fn d a b
  | _ => .error .reserved

end Decode

namespace Encode

/-- A register number's five bits (R142). -/
def reg (r : Reg) : BitVec 5 := BitVec.ofNat 5 r.val

/-- Format R (R142). -/
def formR (op : BitVec 6) (d a b : Reg) (fn : BitVec 11) : BitVec 32 := op ++ reg d ++ reg a ++ reg b ++ fn

/-- Formats I and B (R142): two registers and 16 bits. -/
def formI (op : BitVec 6) (d a : Reg) (imm : BitVec 16) : BitVec 32 := op ++ reg d ++ reg a ++ imm

/-- Format J (R142). -/
def formJ (op : BitVec 6) (disp : BitVec 26) : BitVec 32 := op ++ disp

/-- An atomic's FN (R144). -/
def amoFn (oper : Nat) (wide : Bool) (lvl : Level) : BitVec 11 :=
  BitVec.ofNat 11 (128 * oper + 64 * wide.toNat + 8 * lvl.val)

/-- An operand specifier's six bits (R138). -/
def operand (o : Operand) : BitVec 6 := BitVec.ofNat 6 o.code

/-- A facet word (R137). -/
def formF (op : Nat) (w : FWord) : BitVec 64 :=
  w.pm ++ w.pv ++ BitVec.ofBool w.tgEn ++ BitVec.ofNat 2 w.tgCh.val ++ w.tgTag ++ BitVec.ofNat 8 op ++
    operand w.d ++ operand w.a ++ operand w.b ++ operand w.c ++ BitVec.ofNat 3 w.puIdx.val ++ w.puAct ++ w.h ++
    BitVec.ofBool w.sv ++ BitVec.ofBool w.sw ++ (0#2)

/-- The opcode and fields of a facet instruction (R146). -/
def facetParts : Instr → Option (Nat × FWord)
  | .nop w => some (0x00, w)
  | .mov w => some (0x01, w)
  | .movi w => some (0x02, w)
  | .movis w => some (0x03, w)
  | .sel w => some (0x04, w)
  | .drop w => some (0x05, w)
  | .steer w => some (0x06, w)
  | .steerx w => some (0x07, w)
  | .merge w => some (0x08, w)
  | .mergeu w => some (0x09, w)
  | .emitn w => some (0x0A, w)
  | .ctl w => some (0x0B, w)
  | .cease w => some (0x0C, w)
  | .vers w => some (0x0D, w)
  | .vfin w => some (0x0E, w)
  | .halt w => some (0x0F, w)
  | .facetAdd sz w => some (0x10 + Decode.sizeCode sz, w)
  | .facetSub sz w => some (0x14 + Decode.sizeCode sz, w)
  | .addss sz w => some (0x18 + Decode.sizeCode sz, w)
  | .addsz sz w => some (0x1C + Decode.sizeCode sz, w)
  | .subss sz w => some (0x20 + Decode.sizeCode sz, w)
  | .subsz sz w => some (0x24 + Decode.sizeCode sz, w)
  | .facetMul sz w => some (0x28 + Decode.sizeCode sz, w)
  | .facetMulhs sz w => some (0x2C + Decode.sizeCode sz, w)
  | .facetMulhz sz w => some (0x30 + Decode.sizeCode sz, w)
  | .facetMins sz w => some (0x34 + Decode.sizeCode sz, w)
  | .facetMinz sz w => some (0x38 + Decode.sizeCode sz, w)
  | .facetMaxs sz w => some (0x3C + Decode.sizeCode sz, w)
  | .facetMaxz sz w => some (0x40 + Decode.sizeCode sz, w)
  | .abs sz w => some (0x44 + Decode.sizeCode sz, w)
  | .mac sz w => some (0x48 + Decode.sizeCode sz, w)
  | .facetClz sz w => some (0x4C + Decode.sizeCode sz, w)
  | .facetAnd w => some (0x50, w)
  | .facetOr w => some (0x51, w)
  | .facetXor w => some (0x52, w)
  | .facetAndn w => some (0x53, w)
  | .facetShl sz w => some (0x54 + Decode.sizeCode sz, w)
  | .facetShrz sz w => some (0x58 + Decode.sizeCode sz, w)
  | .facetShrs sz w => some (0x5C + Decode.sizeCode sz, w)
  | .cmpeq sz w => some (0x60 + Decode.sizeCode sz, w)
  | .cmplts sz w => some (0x64 + Decode.sizeCode sz, w)
  | .cmpltz sz w => some (0x68 + Decode.sizeCode sz, w)
  | .test sz w => some (0x6C + Decode.sizeCode sz, w)
  | .fadd fm w => some (0x70 + 16 * Decode.ffmtCode fm, w)
  | .fsub fm w => some (0x71 + 16 * Decode.ffmtCode fm, w)
  | .fmul fm w => some (0x72 + 16 * Decode.ffmtCode fm, w)
  | .ffma fm w => some (0x73 + 16 * Decode.ffmtCode fm, w)
  | .fmin fm w => some (0x74 + 16 * Decode.ffmtCode fm, w)
  | .fmax fm w => some (0x75 + 16 * Decode.ffmtCode fm, w)
  | .fneg fm w => some (0x76 + 16 * Decode.ffmtCode fm, w)
  | .fabs fm w => some (0x77 + 16 * Decode.ffmtCode fm, w)
  | .fcmpeq fm w => some (0x78 + 16 * Decode.ffmtCode fm, w)
  | .fcmplt fm w => some (0x79 + 16 * Decode.ffmtCode fm, w)
  | .fcmple fm w => some (0x7A + 16 * Decode.ffmtCode fm, w)
  | .frcp fm w => some (0x7B + 16 * Decode.ffmtCode fm, w)
  | .frsq fm w => some (0x7C + 16 * Decode.ffmtCode fm, w)
  | .fexp2 fm w => some (0x7D + 16 * Decode.ffmtCode fm, w)
  | .flog2 fm w => some (0x7E + 16 * Decode.ffmtCode fm, w)
  | .fscale fm w => some (0x7F + 16 * Decode.ffmtCode fm, w)
  | .cvtn nf w => some (0xA0 + Decode.nfmtCode nf, w)
  | .cvtw nf w => some (0xA4 + Decode.nfmtCode nf, w)
  | .cvtfi w => some (0xA8, w)
  | .cvtif w => some (0xA9, w)
  | .shuf w => some (0xAA, w)
  | .bcast w => some (0xAB, w)
  | .extr w => some (0xAF, w)
  | .lsumW w => some (0xAC, w)
  | .lsumF32 w => some (0xAD, w)
  | .lmaxF32 w => some (0xAE, w)
  | .lds w => some (0xB0, w)
  | .sts w => some (0xB1, w)
  | .ldsw w => some (0xB2, w)
  | .stsw w => some (0xB3, w)
  | .ldg w => some (0xB4, w)
  | .ldgb w => some (0xB5, w)
  | .stg w => some (0xB6, w)
  | .stge w => some (0xB7, w)
  | .pref w => some (0xBF, w)
  | .atoms w => some (0xB8, w)
  | .atomg w => some (0xB9, w)
  | .cass w => some (0xBA, w)
  | .casg w => some (0xBB, w)
  | .fence w => some (0xBC, w)
  | .acq w => some (0xBD, w)
  | .rel w => some (0xBE, w)
  | .hstat w => some (0xC0, w)
  | .htake w => some (0xC1, w)
  | .hfree w => some (0xC2, w)
  | .wptr w => some (0xC3, w)
  | .wpwait w => some (0xC4, w)
  | .treq w => some (0xC5, w)
  | .accrd w => some (0xC6, w)
  | .tempty w => some (0xC7, w)
  | .lzres w => some (0xC8, w)
  | .lzsend w => some (0xC9, w)
  | .lzstat w => some (0xCA, w)
  | .lzreset w => some (0xCB, w)
  | .trap w => some (0xD0, w)
  | .brk w => some (0xD1, w)
  | .rdcnt w => some (0xD2, w)
  | .rdst w => some (0xD3, w)
  | .setpv w => some (0xD4, w)
  | .getp w => some (0xD5, w)
  | .beat w => some (0xD6, w)
  | .layv w => some (0xD7, w)
  | .seq w => some (0xD8, w)
  | .settag w => some (0xD9, w)
  | .dot4Tf8 w => some (0xE0, w)
  | .sort4W w => some (0xE1, w)
  | _ => none

/-- The word of a facet instruction (R137, R146). -/
def facet (i : Instr) : Option (BitVec 64) :=
  match facetParts i with
  | some (op, w) => some (formF op w)
  | none => none

/-- The word of a conductor instruction (R142 to R144, R147). -/
def conductor : Instr → Option (BitVec 32)
  | .add d a b => some (formR 0x01 d a b 0)
  | .sub d a b => some (formR 0x01 d a b 1)
  | .and d a b => some (formR 0x01 d a b 2)
  | .or d a b => some (formR 0x01 d a b 3)
  | .xor d a b => some (formR 0x01 d a b 4)
  | .andn d a b => some (formR 0x01 d a b 5)
  | .shl d a b => some (formR 0x01 d a b 6)
  | .shrz d a b => some (formR 0x01 d a b 7)
  | .shrs d a b => some (formR 0x01 d a b 8)
  | .mul d a b => some (formR 0x01 d a b 9)
  | .mulhs d a b => some (formR 0x01 d a b 10)
  | .mulhz d a b => some (formR 0x01 d a b 11)
  | .divs d a b => some (formR 0x01 d a b 12)
  | .divz d a b => some (formR 0x01 d a b 13)
  | .rems d a b => some (formR 0x01 d a b 14)
  | .remz d a b => some (formR 0x01 d a b 15)
  | .slts d a b => some (formR 0x01 d a b 16)
  | .sltz d a b => some (formR 0x01 d a b 17)
  | .mins d a b => some (formR 0x01 d a b 18)
  | .maxs d a b => some (formR 0x01 d a b 19)
  | .minz d a b => some (formR 0x01 d a b 20)
  | .maxz d a b => some (formR 0x01 d a b 21)
  | .clz d a => some (formR 0x01 d a 0 22)
  | .popc d a => some (formR 0x01 d a 0 23)
  | .addw d a b => some (formR 0x01 d a b 24)
  | .subw d a b => some (formR 0x01 d a b 25)
  | .selnz d a b => some (formR 0x01 d a b 26)
  | .addi d a imm => some (formI 0x02 d a imm)
  | .andi d a imm => some (formI 0x03 d a imm)
  | .ori d a imm => some (formI 0x04 d a imm)
  | .xori d a imm => some (formI 0x05 d a imm)
  | .shi d a k n => some (formI 0x06 d a (BitVec.ofNat 16 (64 * Decode.shiftKindCode k + n.toNat)))
  | .slti d a imm => some (formI 0x07 d a imm)
  | .sltiz d a imm => some (formI 0x08 d a imm)
  | .lui d imm => some (formI 0x09 d 0 imm)
  | .ins16 d a imm => some (formI 0x0A d a imm)
  | .addpc d imm => some (formI 0x0B d 0 imm)
  | .beq a b disp => some (formI 0x10 a b disp)
  | .bne a b disp => some (formI 0x11 a b disp)
  | .blts a b disp => some (formI 0x12 a b disp)
  | .bges a b disp => some (formI 0x13 a b disp)
  | .blo a b disp => some (formI 0x14 a b disp)
  | .bhs a b disp => some (formI 0x15 a b disp)
  | .j disp => some (formJ 0x16 disp)
  | .jal disp => some (formJ 0x17 disp)
  | .jalr d a imm => some (formI 0x18 d a imm)
  | .ldb d a imm => some (formI 0x19 d a imm)
  | .ldh d a imm => some (formI 0x1A d a imm)
  | .ldw d a imm => some (formI 0x1B d a imm)
  | .ldd d a imm => some (formI 0x1C d a imm)
  | .ldbz d a imm => some (formI 0x1D d a imm)
  | .ldhz d a imm => some (formI 0x1E d a imm)
  | .ldwz d a imm => some (formI 0x1F d a imm)
  | .stb d a imm => some (formI 0x20 d a imm)
  | .sth d a imm => some (formI 0x21 d a imm)
  | .stw d a imm => some (formI 0x22 d a imm)
  | .std d a imm => some (formI 0x23 d a imm)
  | .amoAdd d a b wide lvl => some (formR 0x24 d a b (amoFn 0 wide lvl))
  | .amoAnd d a b wide lvl => some (formR 0x24 d a b (amoFn 1 wide lvl))
  | .amoOr d a b wide lvl => some (formR 0x24 d a b (amoFn 2 wide lvl))
  | .amoXor d a b wide lvl => some (formR 0x24 d a b (amoFn 3 wide lvl))
  | .amoMins d a b wide lvl => some (formR 0x24 d a b (amoFn 4 wide lvl))
  | .amoMaxs d a b wide lvl => some (formR 0x24 d a b (amoFn 5 wide lvl))
  | .amoMinz d a b wide lvl => some (formR 0x24 d a b (amoFn 6 wide lvl))
  | .amoMaxz d a b wide lvl => some (formR 0x24 d a b (amoFn 7 wide lvl))
  | .amoXchg d a b wide lvl => some (formR 0x24 d a b (amoFn 8 wide lvl))
  | .amoCas d a b wide lvl => some (formR 0x24 d a b (amoFn 9 wide lvl))
  | .amoFadd d a b lvl => some (formR 0x24 d a b (amoFn 10 false lvl))
  | .fenceFull lvl => some (formR 0x25 0 0 0 (BitVec.ofNat 11 (4 * lvl.val + 0)))
  | .fenceAcq lvl => some (formR 0x25 0 0 0 (BitVec.ofNat 11 (4 * lvl.val + 1)))
  | .fenceRel lvl => some (formR 0x25 0 0 0 (BitVec.ofNat 11 (4 * lvl.val + 2)))
  | .fenceTinv a b => some (formR 0x25 0 a b 3)
  | .l2ctlSetrb a b n => some (formR 0x26 0 a b (BitVec.ofNat 11 (16 * n.val + 0)))
  | .l2ctlSetrl a b n => some (formR 0x26 0 a b (BitVec.ofNat 11 (16 * n.val + 1)))
  | .l2ctlUnpin a b n => some (formR 0x26 0 a b (BitVec.ofNat 11 (16 * n.val + 2)))
  | .l2ctlWbinv a b => some (formR 0x26 0 a b 3)
  | .waith d a b st => some (formR 0x27 d a b (BitVec.ofNat 11 (Decode.slotStateCode st)))
  | .mfs d n => some (formI 0x28 d 0 n)
  | .mts a n => some (formI 0x29 0 a n)
  | .tokin d a => some (formR 0x2A d a 0 0)
  | .tokout a b => some (formR 0x2B 0 a b 0)
  | .toktry d a => some (formR 0x2C d a 0 0)
  | .cfgld d a b => some (formR 0x30 d a b 0)
  | .cfggo d a => some (formR 0x31 d a 0 0)
  | .switch d a => some (formR 0x32 d a 0 0)
  | .rewireHint d a b => some (formR 0x33 d a b 0)
  | .rewireLock d a b => some (formR 0x33 d a b 1)
  | .rewireUnlock d a b => some (formR 0x33 d a b 2)
  | .rewirePin d a b => some (formR 0x33 d a b 3)
  | .rewireUnpin d a b => some (formR 0x33 d a b 4)
  | .layver d => some (formR 0x34 d 0 0 0)
  | .layq d a => some (formR 0x35 d a 0 0)
  | .rate d a b => some (formR 0x36 d a b 0)
  | .strm d a b => some (formR 0x38 d a b 0)
  | .strmst d a b => some (formR 0x39 d a b 0)
  | .tdset d a b => some (formR 0x3A d a b 0)
  | .prset d a b => some (formR 0x3B d a b 0)
  | .chord d a b => some (formR 0x3C d a b 0)
  | .lzctlReserve d a b => some (formR 0x3D d a b 0)
  | .lzctlRelease d a b => some (formR 0x3D d a b 1)
  | .lzctlStatus d a b => some (formR 0x3D d a b 2)
  | .lzctlResume d a b => some (formR 0x3D d a b 3)
  | .lzctlClear d a b => some (formR 0x3D d a b 4)
  | .launch d a b => some (formR 0x3E d a b 0)
  | .sysTrap code => some (formR 0x3F 0 0 0 (BitVec.ofNat 11 (32 * code.toNat + 0)))
  | .eret => some (formR 0x3F 0 0 0 1)
  | .wfi => some (formR 0x3F 0 0 0 2)
  | .sysBrk code => some (formR 0x3F 0 0 0 (BitVec.ofNat 11 (32 * code.toNat + 3)))
  | .icinv a b => some (formR 0x3F 0 a b 4)
  | .sysBeat code => some (formR 0x3F 0 0 0 (BitVec.ofNat 11 (32 * code.toNat + 5)))
  | .sysCease code => some (formR 0x3F 0 0 0 (BitVec.ofNat 11 (32 * code.toNat + 6)))
  | .sysHalt => some (formR 0x3F 0 0 0 7)
  | _ => none

end Encode

/-- The decoder on an instruction's bits as spec/opcode_table.json numbers them: conductor words of 32
bits, facet words of 64 (R136). A shorter `nbits` leaves the bits above it zero. -/
def decodeTableWord (nbits w : Nat) : Option Instr :=
  let v := w % 2 ^ nbits
  if nbits ≤ 32 then
    match Decode.conductor (BitVec.ofNat 32 (Word.ofBytes (Word.toBytes 4 v))) with
    | .ok i => some i
    | .error _ => none
  else
    match Decode.facet (BitVec.ofNat 64 (Word.ofBytes (Word.toBytes 8 v))) with
    | .ok i => some i
    | .error _ => none

end Sys2Proof
end

