-- ==== Sys2Proof/Machine/Float.lean ====
section
/-!
DEFINITION. Number formats (R60 to R67, spec/05_numbers.md) and the arithmetic of the facets' floating-point
rows (R184 to R189): exact values, and one rounding at the end.
-/
namespace Sys2Proof.Machine.Float

/-- A decoded value: ±m × 2^e, an infinity, or NaN (NaR in a tapered format). -/
inductive Val where
  | nan
  | inf (neg : Bool)
  | fin (neg : Bool) (m : Nat) (e : Int)
  deriving DecidableEq, Repr, Inhabited

/-- An IEEE-like format: exponent bits, fraction bits, and whether subnormals are flushed (R61, R62). -/
structure Fmt where
  eb : Nat
  mb : Nat
  flush : Bool
  deriving DecidableEq, Repr

def f32 : Fmt := ⟨8, 23, false⟩
def f16 : Fmt := ⟨5, 10, false⟩
def bf16 : Fmt := ⟨8, 7, true⟩

/-- The format of a floating-point row (R184). -/
def ofRow : FFmt → Fmt
  | .f32 => f32
  | .f16 => f16
  | .bf16 => bf16

namespace Fmt
def width (f : Fmt) : Nat := 1 + f.eb + f.mb
def bias (f : Fmt) : Nat := 2 ^ (f.eb - 1) - 1
def emin (f : Fmt) : Int := 1 - (f.bias : Int)
def emax (f : Fmt) : Int := (f.bias : Int)
/-- The default NaN of R63. -/
def nan (f : Fmt) : Nat := (2 ^ f.eb - 1) * 2 ^ f.mb + 2 ^ (f.mb - 1)
def inf (f : Fmt) (neg : Bool) : Nat := neg.toNat * 2 ^ (f.eb + f.mb) + (2 ^ f.eb - 1) * 2 ^ f.mb
def maxFin (f : Fmt) (neg : Bool) : Nat := neg.toNat * 2 ^ (f.eb + f.mb) + ((2 ^ f.eb - 1) * 2 ^ f.mb - 1)
def zero (f : Fmt) (neg : Bool) : Nat := neg.toNat * 2 ^ (f.eb + f.mb)
end Fmt

/-- Decode of an IEEE format or BF16 (R61, R62, R164). -/
def decode (f : Fmt) (x : Nat) : Val :=
  let neg := (x / 2 ^ (f.eb + f.mb)) % 2 == 1
  let ex := (x / 2 ^ f.mb) % 2 ^ f.eb
  let fr := x % 2 ^ f.mb
  if ex = 2 ^ f.eb - 1 then
    if fr = 0 then .inf neg else .nan
  else if ex = 0 then
    if f.flush then .fin neg 0 0 else .fin neg fr (f.emin - f.mb)
  else .fin neg (fr + 2 ^ f.mb) ((ex : Int) - f.bias - f.mb)

/-- The number of bits of `m`. -/
def bitLen (m : Nat) : Nat := if m = 0 then 0 else Nat.log2 m + 1

/-- `m × 2^e` (and a little more when `sticky`) rounded to a whole number of units 2^u by a mode of R63. -/
def roundUnits (mode : Nat) (neg : Bool) (m : Nat) (e : Int) (sticky : Bool) (u : Int) : Nat :=
  let sh := u - e
  if sh ≤ 0 then
    let q := m <<< (-sh).toNat
    if sticky && ((mode == 2 && !neg) || (mode == 3 && neg)) then q + 1 else q
  else
    let n := sh.toNat
    let q := m >>> n
    let r := m - (q <<< n)
    let half := 1 <<< (n - 1)
    let inexact := r != 0 || sticky
    let up :=
      if mode = 0 then half < r || (r == half && (sticky || q % 2 == 1))
      else if mode = 1 then false
      else if mode = 2 then inexact && !neg
      else inexact && neg
    if up then q + 1 else q

/-- A value rounded into a format: its bits, and whether it overflowed or is subnormal under R61. -/
structure Rounded where
  bits : Nat
  overflow : Bool := false
  subnormal : Bool := false
  deriving DecidableEq, Repr

/-- Round of R164 for an IEEE format or BF16: R61, R62, R63. A `sticky` value lies strictly between
m × 2^e and (m + 1) × 2^e. -/
def round (f : Fmt) (mode : Nat) (neg : Bool) (m : Nat) (e : Int) (sticky : Bool) : Rounded :=
  if m = 0 then { bits := f.zero neg }
  else
    let lead := e + (bitLen m : Int) - 1
    let q := roundUnits mode neg m e sticky (lead - f.mb)
    let carry := q == 2 ^ (f.mb + 1)
    let lead' := if carry then lead + 1 else lead
    let q' := if carry then 2 ^ f.mb else q
    if lead' < f.emin then
      if f.flush then { bits := f.zero neg }
      else
        { bits := f.zero neg + roundUnits mode neg m e sticky (f.emin - f.mb), subnormal := true }
    else if f.emax < lead' then
      let toInf := mode = 0 || (mode = 2 && !neg) || (mode = 3 && neg)
      { bits := if toInf then f.inf neg else f.maxFin neg, overflow := true }
    else
      { bits := f.zero neg + ((lead' + f.bias).toNat * 2 ^ f.mb + (q' - 2 ^ f.mb)) }

/-- Encode of R164 for an IEEE format or BF16. -/
def encode (f : Fmt) (mode : Nat) : Val → Rounded
  | .nan => { bits := f.nan }
  | .inf neg => { bits := f.inf neg }
  | .fin neg m e => round f mode neg m e false

/-- A tapered format (R64): body bits and exponent bits. -/
structure Taper where
  nb : Nat
  es : Nat
  deriving DecidableEq, Repr

def tf8 : Taper := ⟨7, 2⟩
def tf6 : Taper := ⟨5, 1⟩

/-- How many of the `n` bits below bit `n` of `body`, from the top, equal `b` (R65). -/
def runLen (body : Nat) (b : Bool) : Nat → Nat
  | 0 => 0
  | n + 1 => if ((body >>> n) % 2 == 1) == b then runLen body b n + 1 else 0

/-- A tapered encoding read by R65. -/
def decodeTaper (t : Taper) (x : Nat) : Val :=
  let neg := (x >>> t.nb) % 2 == 1
  let body := x % 2 ^ t.nb
  if body = 0 then (if neg then .nan else .fin false 0 0)
  else
    let b := (body >>> (t.nb - 1)) % 2 == 1
    let run := runLen body b t.nb
    let k : Int := if b then (run : Int) - 1 else -(run : Int)
    let tailLen := t.nb - run - 1
    let tail := body % 2 ^ tailLen
    let eTaken := min t.es tailLen
    let e := (tail >>> (tailLen - eTaken)) <<< (t.es - eTaken)
    let fLen := tailLen - eTaken
    let fr := tail % 2 ^ fLen
    .fin neg (2 ^ fLen + fr) ((2 ^ t.es : Nat) * k + (e : Int) - fLen)

/-- The largest exponent of a tapered format (R64): maxpos is 2^maxExp and minpos is 2^-maxExp. -/
def Taper.maxExp (t : Taper) : Nat := 2 ^ t.es * (t.nb - 1)

/-- A value rounded into a tapered format by R66, the remainder test under `mode` as R82 lays down.
`overflow` marks a value clamped to ±maxpos. -/
def encodeTaper (t : Taper) (mode : Nat) (v : Val) : Rounded :=
  let sign (neg : Bool) : Nat := neg.toNat * 2 ^ t.nb
  let maxBody := 2 ^ t.nb - 1
  match v with
  | .nan => { bits := 2 ^ t.nb }
  | .inf neg => { bits := sign neg + maxBody, overflow := true }
  | .fin neg m e =>
    if m = 0 then { bits := 0 }
    else
      let len := bitLen m
      let lead := e + (len : Int) - 1
      let pow2 := m == 2 ^ (len - 1)
      if (t.maxExp : Int) ≤ lead then
        { bits := sign neg + maxBody, overflow := !(lead == (t.maxExp : Int) && pow2) }
      else if lead < -(t.maxExp : Int) - 1 then { bits := 0 }
      else if lead < -(t.maxExp : Int) then { bits := sign neg + 1 }
      else
        let k := lead.fdiv ((2 ^ t.es : Nat) : Int)
        let ex := (lead - (2 ^ t.es : Nat) * k).toNat
        let regime := if 0 ≤ k then 2 * (2 ^ (k.toNat + 1) - 1) else 1
        let rl := if 0 ≤ k then k.toNat + 2 else (-k).toNat + 1
        let full := ((regime <<< t.es) + ex) <<< (len - 1) ||| (m - 2 ^ (len - 1))
        let total := rl + t.es + (len - 1)
        let body :=
          if total ≤ t.nb then full <<< (t.nb - total)
          else
            let n := total - t.nb
            let q := full >>> n
            let r := full - (q <<< n)
            let half := 1 <<< (n - 1)
            let up :=
              if mode = 0 then half < r || (r == half && q % 2 == 1)
              else if mode = 1 then false
              else if mode = 2 then r != 0 && !neg
              else r != 0 && neg
            if up then q + 1 else q
        { bits := sign neg + body }

/-- The sum of two signed magnitudes at one exponent. -/
def addMag (n1 : Bool) (a : Nat) (n2 : Bool) (b : Nat) : Bool × Nat :=
  if n1 == n2 then (n1, a + b) else if b ≤ a then (n1, a - b) else (n2, b - a)

/-- The exact sum of two values, with the zero rule of R185 under a rounding mode. -/
def add (mode : Nat) : Val → Val → Val
  | .nan, _ => .nan
  | _, .nan => .nan
  | .inf a, .inf b => if a == b then .inf a else .nan
  | .inf a, _ => .inf a
  | _, .inf b => .inf b
  | .fin n1 m1 e1, .fin n2 m2 e2 =>
    if m1 = 0 && m2 = 0 then .fin (if n1 == n2 then n1 else mode == 3) 0 0
    else if m1 = 0 then .fin n2 m2 e2
    else if m2 = 0 then .fin n1 m1 e1
    else
      let e := min e1 e2
      let (n, m) := addMag n1 (m1 <<< (e1 - e).toNat) n2 (m2 <<< (e2 - e).toNat)
      if m = 0 then .fin (mode == 3) 0 0 else .fin n m e

/-- The exact product. -/
def mul : Val → Val → Val
  | .nan, _ => .nan
  | _, .nan => .nan
  | .inf a, .inf b => .inf (a != b)
  | .inf a, .fin n m _ => if m = 0 then .nan else .inf (a != n)
  | .fin n m _, .inf b => if m = 0 then .nan else .inf (n != b)
  | .fin n1 m1 e1, .fin n2 m2 e2 => .fin (n1 != n2) (m1 * m2) (e1 + e2)

/-- A value with its sign inverted (R184). -/
def neg : Val → Val
  | .nan => .nan
  | .inf n => .inf (!n)
  | .fin n m e => .fin (!n) m e

/-- A value with its sign cleared (R184). -/
def abs : Val → Val
  | .nan => .nan
  | .inf _ => .inf false
  | .fin _ m e => .fin false m e

/-- Whether a < b, −0 equal to +0 (R186); false when either is NaN. -/
def lt : Val → Val → Bool
  | .nan, _ => false
  | _, .nan => false
  | .inf a, .inf b => a && !b
  | .inf a, _ => a
  | _, .inf b => !b
  | .fin n1 m1 e1, .fin n2 m2 e2 =>
    let e := min e1 e2
    let a := m1 <<< (e1 - e).toNat
    let b := m2 <<< (e2 - e).toNat
    let x : Int := if n1 then -(a : Int) else a
    let y : Int := if n2 then -(b : Int) else b
    x < y

/-- Whether a = b, −0 equal to +0 (R186); false when either is NaN. -/
def eq (a b : Val) : Bool := a != .nan && b != .nan && !lt a b && !lt b a

/-- The sign of a value. -/
def isNeg : Val → Bool
  | .nan => false
  | .inf n => n
  | .fin n _ _ => n

/-- FMIN of R186: −0 below +0, the other operand beside one NaN. -/
def fmin (a b : Val) : Val :=
  if a == .nan then b
  else if b == .nan then a
  else if lt a b then a
  else if lt b a then b
  else if isNeg a then a else b

/-- FMAX of R186. -/
def fmax (a b : Val) : Val :=
  if a == .nan then b
  else if b == .nan then a
  else if lt a b then b
  else if lt b a then a
  else if isNeg a then b else a

/-- The integer square root of `n`, found bit by bit from bit `k - 1` down. -/
def isqrt (n : Nat) : Nat → Nat → Nat
  | 0, r => r
  | k + 1, r =>
    let r' := r + 2 ^ k
    isqrt n k (if r' * r' ≤ n then r' else r)

/-- Floor of the square root. -/
def sqrt (n : Nat) : Nat := isqrt n (bitLen n / 2 + 1) 0

/-- Rnd(1 / a) (R184, R185). -/
def rcp (f : Fmt) (mode : Nat) : Val → Rounded
  | .nan => { bits := f.nan }
  | .inf n => { bits := f.zero n }
  | .fin n m e =>
    if m = 0 then { bits := f.inf n }
    else
      let k := bitLen m + 70
      let q := 2 ^ k / m
      round f mode n q (-(k : Int) - e) (2 ^ k % m != 0)

/-- Rnd(1 / √a) (R184, R185). -/
def rsq (f : Fmt) (mode : Nat) : Val → Rounded
  | .nan => { bits := f.nan }
  | .inf n => if n then { bits := f.nan } else { bits := f.zero false }
  | .fin n m e =>
    if m = 0 then { bits := f.inf n }
    else if n then { bits := f.nan }
    else
      let odd := e % 2 != 0
      let m' := if odd then 2 * m else m
      let e' := if odd then e - 1 else e
      let k := bitLen m' + 70
      let r := sqrt (2 ^ (2 * k) / m')
      round f mode false r (-(k : Int) - e' / 2) (r * r * m' != 2 ^ (2 * k))

/-- Working precision of FEXP2 and FLOG2, in bits (DESIGN CHOICE, log entry 15). -/
def prec : Nat := 320

/-- 2^(f / 2^n) × 2^prec, rounded down at each step: for each bit of f from the top, one more square root of 2
and, where the bit is set, one product. -/
def exp2Frac (f : Nat) : Nat → Nat → Nat → Nat
  | 0, _, acc => acc
  | n + 1, s, acc =>
    let s' := sqrt (s * 2 ^ prec)
    exp2Frac f n s' (if (f >>> n) % 2 == 1 then acc * s' / 2 ^ prec else acc)

/-- Rnd(2^a) (R184, R185). An exponent past ±100,000 overflows or underflows in every format. -/
def exp2 (f : Fmt) (mode : Nat) : Val → Rounded
  | .nan => { bits := f.nan }
  | .inf n => if n then { bits := f.zero false } else { bits := f.inf false }
  | .fin n m e =>
    if m = 0 then round f mode false 1 0 false
    else if (20 : Int) < e + bitLen m then round f mode false 1 (if n then -100000 else 100000) false
    else
      let s : Int := if n then -(m : Int) else m
      if 0 ≤ e then round f mode false 1 (s * (2 ^ e.toNat : Nat)) false
      else
        let w := (-e).toNat
        let i := s.fdiv (2 ^ w : Nat)
        let fr := (s - i * (2 ^ w : Nat)).toNat
        if fr = 0 then round f mode false 1 i false
        else round f mode false (exp2Frac fr w (2 * 2 ^ prec) (2 ^ prec)) (i - prec) true

/-- `n` further bits of log2 of y / 2^(2 × prec), for y in [1, 2): one squaring for each. -/
def log2Frac : Nat → Nat → Nat → Nat
  | 0, _, acc => acc
  | n + 1, y, acc =>
    let y2 := y * y / 2 ^ (2 * prec)
    if 2 * 2 ^ (2 * prec) ≤ y2 then log2Frac n (y2 / 2) (2 * acc + 1) else log2Frac n y2 (2 * acc)

/-- Rnd(log2 a) (R184, R185). -/
def log2 (f : Fmt) (mode : Nat) : Val → Rounded
  | .nan => { bits := f.nan }
  | .inf n => if n then { bits := f.nan } else { bits := f.inf false }
  | .fin n m e =>
    if m = 0 then { bits := f.inf true }
    else if n then { bits := f.nan }
    else
      let len := bitLen m
      let ex := e + (len : Int) - 1
      if m = 2 ^ (len - 1) then round f mode (ex < 0) ex.natAbs 0 false
      else
        let bitsN := 192
        let fr := log2Frac bitsN (m * 2 ^ (2 * prec) / 2 ^ (len - 1)) 0
        let l := ex * (2 ^ bitsN : Nat) + fr
        if 0 ≤ l then round f mode false l.toNat (-(bitsN : Int)) true
        else round f mode true (-l - 1).toNat (-(bitsN : Int)) true

/-- Rnd(a × 2^k) (R184, R185). A count past ±2,000 overflows or underflows in every format. -/
def scale (f : Fmt) (mode : Nat) (k : Int) : Val → Rounded
  | .fin n m e => if m = 0 then { bits := f.zero n } else round f mode n m (e + Word.sat k (-2000) 2000) false
  | v => encode f mode v

/-- A value rounded to an integer by a mode (R189, R82). -/
def toInt (mode : Nat) (n : Bool) (m : Nat) (e : Int) : Int :=
  let q := roundUnits mode n m e false 0
  if n then -(q : Int) else q

end Sys2Proof.Machine.Float
end

