-- ==== Sys2Proof/Config.lean ====
section
/-!
DEFINITION. The free values of the model: what the spec leaves open and the machine goes on. None has a
body, so no proof can know one. `State.fresh` counts the values taken, so that each is taken once.
-/
namespace Sys2Proof.Config

/-- A byte read from the host window or the CXL.mem window, memory outside the device (R87, R128; log
entry 7). -/
opaque hostByte : Nat → Nat → Byte

/-- AES-256-XTS decryption of one block of 16 bytes under a key: the tweak of its data unit, its place in that unit, and its bytes
(R386; DESIGN CHOICE, log entry 8). -/
opaque xts : BitVec 512 → Nat → Nat → List Byte → List Byte

/-- The SHAKE256 digest of a block (R149, R390; DESIGN CHOICE, log entry 8). -/
opaque shake : List Byte → BitVec 256

/-- A Falcon-1024 signature with the identity key that comes from a seed and the PUF, over digests and a stepping (R388, R390; DESIGN
CHOICE, log entry 8). -/
opaque sign : List Byte → List (BitVec 256) → Nat → List Byte

/-- The order in which add.F32 partial states are combined (R83, R307; DESIGN CHOICE, log entry 6). -/
opaque pick : Nat → Nat

/-- SEQ and TAG of the token that a streamer or chord engine node emits for a completed command, which R291
does not state (DESIGN CHOICE, log entry 25). -/
opaque doneTag : Nat → BitVec 18

/-- The address of the spill area of a launched image, by context and image base: the device runtime's choice (R55,
R209; DESIGN CHOICE, log entry 26). -/
opaque launchSpill : Nat → Nat → Word64

/-- A byte of the parts of a save record whose encoding belongs to the device, by record and offset (R332; DESIGN CHOICE, log entry 16). -/
opaque saveByte : Nat → Nat → Byte

end Sys2Proof.Config
end

