-- ==== Sys2Proof/Machine/State.lean ====
section
/-!
DEFINITION. The state of one Creith 880 as plain data, its parts, and the state after reset. What each
field is, and the rule that names it, stands in its docstring; fields marked "model" belong to the model
alone (notes/assumptions).
-/
namespace Sys2Proof.Machine

/-- Reasons the machine itself stops. No step raises one: a fault of the spec is a trap, a node fault or
a status word, which are next states. -/
inductive Fault where
  /-- Raised by `exec` of a facet or conductor instruction when `State.cur` names no unit that could execute
  it. `step` always sets `cur` first. Safe: the machine stops where nothing could run. -/
  | noUnit
  deriving DecidableEq, Repr

/-- Reasons a step has no meaning. -/
inductive Refusal where
  /-- Raised by an arm of `exec` whose instruction has no meaning yet. Safe. -/
  | notModelled (mnemonic : String)
  deriving DecidableEq, Repr

/-- The steppings of R28. -/
inductive Stepping where | A0 | B0 | B1
  deriving DecidableEq, Repr, Inhabited

/-- How a facet firing is being made (model): afresh, completed by the assist routine (R61), past its
debug-trap bit (R375), or as a NOP after a BREAK (R194). -/
inductive FireMode where | normal | assisted | pastBreak | asNop
  deriving DecidableEq, Repr, Inhabited

/-- The unit whose turn it is (model). -/
structure Focus where
  region : Nat := 0
  rank : Nat := 0
  node : Nat := 0
  slot : Nat := 0
  mode : FireMode := .normal
  deriving DecidableEq, Repr, Inhabited

/-- A copy that a cache or a TLB may lose at any time (R93, R96, R97; DESIGN CHOICE, log entry 6). -/
inductive Copy where
  | tlb (region : Nat) (ctx : BitVec 12) (va : Nat)
  | dieTlb (die : Nat) (ctx : BitVec 12) (va : Nat)
  | facetL1 (region rank addr : Nat)
  | condL1 (region addr : Nat)
  | text (region : Nat) (ctx : BitVec 12) (va : Nat)
  | config (ctx : BitVec 12) (va : Nat)
  deriving DecidableEq, Repr

/-- A memory error (R368): one that is rewritten in place in a region, one left as poison in the data of a scratchpad unit, a facet
register, an island's weights or an accumulator, or an uncorrectable one in HBM or in an L2 line, that an access or a scrub is
yet to find. -/
inductive Upset where
  | fixed (region : Nat)
  | spad (key : Nat)
  | reg (region rank n : Nat)
  | weights (region isl : Nat)
  | acc (region isl tile k : Nat)
  | hbm (a : Nat)
  | l2 (slice set way : Nat)
  deriving DecidableEq, Repr

/-- Whose turn is next (model, DESIGN CHOICE, log entry 1). -/
inductive Turn where
  | clock
  | conductor (r : Nat)
  | facet (r rank : Nat)
  | event (i : Instr)
  | lose (c : Copy)
  | relink (p : Nat)
  | walkFirst (die k : Nat)
  | hostRevision
  | hostDeviceId (fn : Nat)
  | hostBar0 (fn off : Nat) (acc : HostAccess)
  | sensors
  | upsetFacet (r rank : Nat) (lane : Option Nat)
  | upsetIsland (r isl : Nat)
  | upset (x : Upset)
  | found (a n : Nat)
  | shutdown
  | tdiLock (vf session : Nat)
  | doom (ctx : BitVec 12)
  deriving DecidableEq, Repr

/-- The agents of R111. -/
inductive Agent where
  | facet (inst node clone : Nat)
  | conductor (r : Nat)
  | engine (inst node : Nat)
  deriving DecidableEq, Repr, Inhabited

/-- What is known to have happened before (the relation of R116): the accesses of an agent up to a number, and single
accesses. -/
structure VClock where
  upto : List (Agent × Nat) := []
  only : List (Agent × Nat) := []
  deriving DecidableEq, Repr, Inhabited

/-- The physical scopes of R123. -/
inductive Scope where
  | node (a : Agent)
  | region (r : Nat)
  | die (d : Nat)
  | device
  | domain
  deriving DecidableEq, Repr, Inhabited

/-- A release or full point that a token or a write carries (R118). -/
structure RelPoint where
  agent : Agent
  region : Nat
  scope : Scope
  vc : VClock
  deriving DecidableEq, Repr, Inhabited

/-- What one agent knows of happens-before (R116 to R119). -/
structure AgentHB where
  agent : Agent
  vc : VClock := {}
  rels : List RelPoint := []
  seen : List RelPoint := []
  deriving DecidableEq, Repr, Inhabited

/-- A write that carries release points (R118); `hidden` while a later plain write stands over it, until an atomic is written there. -/
structure WriteRel where
  space : Nat
  addr : Nat
  len : Nat
  rels : List RelPoint
  hidden : Bool := false
  deriving DecidableEq, Repr, Inhabited

/-- A tracked access of the disambiguator (R120): while the remote access `tx` is outstanding it is in flight, and where `held`
while the firing that issued it awaits the answer to an atomic; `known` is what happens before it. -/
structure Tracked where
  space : Nat
  addr : Nat
  len : Nat
  isWrite : Bool
  atomicScope : Option Scope
  agent : Agent
  epoch : Nat
  region : Nat
  ctx : BitVec 12 := 0
  party : Word64
  doneAt : Nat
  tx : Option Nat := none
  held : Bool := false
  known : VClock := {}
  deriving DecidableEq, Repr, Inhabited

/-- A data-network token (R41), with the release points and the knowledge it carries (R118, R119), what happens before
the drain that a version token publishes (R130), and its deal number (R309). -/
structure Token where
  payload : Word128
  side : Word64
  rels : List RelPoint := []
  vc : VClock := {}
  drain : VClock := {}
  deal : Nat := 0
  deriving DecidableEq, Repr, Inhabited

/-- A token-buffer entry (R40). -/
structure OutEntry where
  tok : Token
  mask : BitVec 4
  deriving DecidableEq, Repr, Inhabited

/-- A cached line or sector of an L1 (R96, R97), with the carriers among the writes that it holds (R118). -/
structure CacheLine where
  addr : Nat
  bytes : List Byte
  rels : List WriteRel := []
  deriving DecidableEq, Repr, Inhabited

/-- A line of program text in an instruction cache (R97, R244): matched by context and virtual address; `sys` is SYS of
the page it came from (R91). -/
structure TextLine where
  ctx : BitVec 12
  va : Nat
  bytes : List Byte
  sys : Bool := false
  deriving DecidableEq, Repr, Inhabited

/-- The rate counters of a node clone (R303). -/
structure Counters where
  firings : Nat := 0
  full : Nat := 0
  blocked : Nat := 0
  ins : List Nat := [0, 0, 0, 0]
  outs : List Nat := [0, 0, 0, 0]
  deriving DecidableEq, Repr, Inhabited

/-- The unit a fault names (R206). -/
inductive UnitRef where
  | facet (inst node clone : Nat)
  | island (r isl : Nat)
  | stream (r st : Nat)
  | chord (eng : Nat)
  | none
  deriving DecidableEq, Repr, Inhabited

/-- A precise node fault, pending at a conductor (R206, R207). -/
structure NodeFault where
  cause : Cause
  info : BitVec 16 := 0
  faddr : Word64 := 0
  finfo : Word64 := 0
  other : Word64 := 0
  unit : UnitRef := .none
  deriving DecidableEq, Repr, Inhabited

/-- Bytes of another device that an answer brought (R349), kept for the access that asked: of a chain, that of the member at `pos`. -/
structure Arrived where
  addr : Nat
  pos : Nat := 0
  bytes : List Byte
  poison : Bool
  failed : Bool
  deriving DecidableEq, Repr, Inhabited

/-- A committed firing kept for containment (R364): its slot, the tokens that it took and the register values that it read. -/
structure Replay where
  slot : Nat
  clk : Nat
  toks : List Token := []
  vals : List (Nat × Word128) := []
  deriving DecidableEq, Repr, Inhabited

/-- One facet of a loaded facet node: a clone, or one member of a chain (R33, R49, R167, R307). `inClk` gives for inputs i0 to
i3, c0 and c1 the clk of the last arrival and how many tokens have arrived in it (R204); `spoiled` marks registers that hold poison
(R368); `firedAt` is the clk of its own firing while the rest of its chain is still to fire (R49). -/
structure FacetUnit where
  inst : Nat
  node : Nat
  clone : Nat := 0
  pos : Nat := 0
  chain : Nat := 1
  region : Nat := 0
  rank : Nat := 0
  slots : List (BitVec 64) := List.replicate 16 0x00000003EFBEF800
  preds : BitVec 8 := 0
  regs : List Word128 := List.replicate 16 0
  pres : BitVec 16 := 0
  chreg : BitVec 16 := 0
  spoiled : BitVec 16 := 0
  konst : Word128 := 0
  ins : List (List Token) := [[], [], [], []]
  outs : List (List OutEntry) := [[], [], [], []]
  cins : List (List Token) := [[], []]
  inClk : List (Nat × Nat) := [(0, 0), (0, 0), (0, 0), (0, 0), (0, 0), (0, 0)]
  couts : List (List OutEntry) := [[], []]
  indecl : BitVec 8 := 0
  outdecl : BitVec 8 := 0
  vmode : BitVec 8 := 0
  misc : BitVec 8 := 0
  cls : BitVec 8 := 0
  combmask : BitVec 16 := 0
  key : BitVec 8 := 0
  hbase : BitVec 8 := 0
  seqcnt : List (BitVec 16) := [0, 0, 0, 0]
  seqnext : List (Option (BitVec 16)) := [none, none, none, none]
  tagreg : List (BitVec 2) := [0, 0, 0, 0]
  lastseq : BitVec 16 := 0
  halted : Bool := false
  finished : Bool := false
  firstMem : List (List (BitVec 16)) := [[], [], [], []]
  l1 : List CacheLine := []
  live : Counters := {}
  last : Counters := {}
  restart : Bool := false
  dbg : BitVec 16 := 0
  faulted : Option Nat := none
  assist : Option Nat := none
  brk : Option Nat := none
  passBreak : Bool := false
  contain : Bool := false
  suspect : Bool := false
  broken : Bool := false
  recent : List Replay := []
  ceases : List (BitVec 16) := []
  deal : Nat := 0
  emitted : List Nat := [0, 0, 0, 0]
  cemitted : List Nat := [0, 0]
  chainFire : Option (Nat × Nat) := none
  firedAt : Option Nat := none
  arrived : List Arrived := []
  deriving DecidableEq, Repr, Inhabited

/-- A tile's state (R257, R261). -/
inductive TileState where | empty | accum | firing | final
  deriving DecidableEq, Repr, Inhabited

/-- The snapshot of a tile (R264): its accumulators, those that hold poison (`spoiled`, R368), version, anchor and bounds, and the drain. -/
structure Snap where
  acc : List Int
  sat : List Bool
  ver : BitVec 32
  anchor : Int
  invrow : Word64
  invcol : Word64
  busy : Bool
  handle : Nat
  slot : Nat
  row : Nat
  rowAt : Nat
  col : Nat := 0
  fo : Nat
  rnd : Nat
  diag : Nat
  spoiled : List Nat := []
  deriving DecidableEq, Repr, Inhabited

/-- An accumulator tile (R73, R77, R80, R252 to R257, R263); `spoiled` are the accumulators that hold poison (R368). -/
structure Tile where
  acfg : Word64 := 0
  awin : Word64 := 0
  route3 : Word64 := 0
  route4 : Word64 := 0
  preg : Word64 := 0x0000000000003084
  lAcfg : Word64 := 0
  lRoute3 : Word64 := 0
  lRoute4 : Word64 := 0
  acc : List Int := []
  sat : List Bool := []
  spoiled : List Nat := []
  anchor : Int := 0
  inexact : Bool := false
  dinex : Bool := false
  ovf : Bool := false
  dsat : Bool := false
  invrow : Word64 := 0
  invcol : Word64 := 0
  state : TileState := .empty
  route : Nat := 0
  fired : Nat := 0
  lastver : BitVec 32 := 0
  ceased : Bool := false
  seqacc : BitVec 16 := 0
  snap : Option Snap := none
  owed : Bool := false
  repeats : Bool := false
  diagDone : Nat := 0
  complete : Bool := false
  bexp : BitVec 8 := 0x80
  published : Option Word64 := none
  deriving DecidableEq, Repr, Inhabited

/-- A decoded operand element (R70): sign, magnitude and its block's exponent. -/
structure Elem where
  neg : Bool
  mag : Nat
  exp : Int
  deriving DecidableEq, Repr, Inhabited

/-- A firing of an island in progress (R263). From `fillAt` on, once `filled`, A has been decoded, with AWIN and the format of the
start, and `auto` says that the anchor was then fixed by R73's second way; `rerun` that it has been run again once (R366). -/
structure Firing where
  tile : Nat
  k : Nat
  ma : Nat
  mb : Nat
  ps : Nat
  d : Nat
  a : List (List Elem)
  maxA : Int
  maxB : Int
  handle : Nat
  slot : Nat
  fmt : Nat
  awin : Word64
  auto : Bool
  fillAt : Nat
  filled : Bool := false
  due : Nat
  split : Bool := false
  rerun : Bool := false
  deriving DecidableEq, Repr, Inhabited

/-- One tile's decode of the latched weights (R71, R260). -/
structure BDec where
  mb : Nat
  b : List (List Elem)
  maxB : Option Int
  dinex : Bool
  invcol : Word64
  deriving DecidableEq, Repr, Inhabited

/-- The latched weights of an island (R260), and whether they hold poison (R368). -/
structure Weights where
  fmt : Nat
  kb : Nat
  dec : List BDec
  uses : Nat
  spoiled : Bool := false
  deriving DecidableEq, Repr, Inhabited

/-- A write of a descriptor word or a precision register that an island has accepted in this clk (R252, R278). -/
structure IslandWrite where
  preg : Bool
  tile : Nat
  word : Nat
  value : Word64
  deriving DecidableEq, Repr, Inhabited

/-- A matrix island holding a node (R249). `writes` take effect in the next clk; `shown` are the tiles as they stood when this clk
began (R278); `diagAt` is the clk in which a diagonal last ended. -/
structure IslandUnit where
  inst : Nat
  node : Nat
  region : Nat
  isl : Nat
  tiles : List Tile := [{}, {}]
  bcfg : Word64 := 0
  settle : BitVec 16 := 0
  turn : Nat := 0
  weights : Option Weights := none
  reload : Option (Nat × Nat × Nat) := none
  firing : Option Firing := none
  ins : List (List Token) := [[], [], []]
  outs : List (List OutEntry) := [[], [], [], [], []]
  ceases : List (BitVec 16) := []
  finished : Bool := false
  faulted : Bool := false
  contain : Bool := false
  broken : Bool := false
  errTimes : List Nat := []
  setWait : Option Token := none
  writes : List IslandWrite := []
  shown : List Tile := [{}, {}]
  diagAt : Option Nat := none
  live : Counters := {}
  last : Counters := {}
  deriving DecidableEq, Repr, Inhabited

/-- A streamer or chord engine node (R291). -/
structure EngineNode where
  inst : Nat
  node : Nat
  isChord : Bool
  region : Nat
  unit : Nat
  ins : List Token := []
  outs : List OutEntry := []
  arrived : List Arrived := []
  done : List Word64 := []
  pending : Nat := 0
  finished : Bool := false
  faulted : Bool := false
  live : Counters := {}
  last : Counters := {}
  deriving DecidableEq, Repr, Inhabited

/-- One slot of a handle (R282, R283): `metAt` is the clk in which an event that HFREE and RELEASE come before last took effect on it
(R286). `holder` is the sender that holds it (`Flit.sender`) and its context, `grant` the chord engine and the TXID of its request. -/
structure HSlot where
  state : SlotState := .free
  wptr : Nat := 0
  oob : Bool := false
  poison : Bool := false
  gen : BitVec 20 := 0
  holder : Option (Nat × BitVec 12) := none
  grant : Nat × BitVec 16 := (0, 0)
  fullAt : Nat := 0
  freedAt : Option Nat := none
  metAt : Option Nat := none
  vc : VClock := {}
  lastPort : Option (PortKind × Nat) := none
  seenFail : Option Nat := none
  idle : Nat := 0
  deriving DecidableEq, Repr, Inhabited

/-- The peer record of a slot (R298, R301). -/
structure PeerRec where
  valid : Bool := false
  target : Word64 := 0
  ztag : BitVec 32 := 0
  rbytes : Nat := 0
  route : Word64 := 0
  status : Word64 := 0
  deriving DecidableEq, Repr, Inhabited

/-- A configured handle (R280); `tile` is the tile that it records (R264), `shown` that of the clk's beginning (R278). -/
structure Handle where
  region : Nat
  num : Nat
  inst : Nat
  ctx : BitVec 12
  rw : Bool := false
  rank : Nat := 0
  fmt : Nat := 0
  offset : Nat := 0
  bytes : Nat := 0
  arr : Nat := 0
  ach : Nat := 0
  atgt : Nat := 0
  peer : BitVec 12 := 0
  slots : List HSlot := []
  recs : List PeerRec := []
  arrCount : BitVec 16 := 0
  arrQueue : List Token := []
  tile : Option (Nat × Nat) := none
  shown : Option (Nat × Nat) := none
  was : List Nat := []
  deriving DecidableEq, Repr, Inhabited

/-- A byte that a store is to write, or the bits of one that `mask` names, and whether it carries poison (R109, R285). -/
structure Piece where
  addr : Nat
  mask : Byte
  byte : Byte
  bad : Bool
  deriving DecidableEq, Repr, Inhabited

/-- A 16-byte unit of memory as an engine has read it (R112), each byte with its poison. -/
structure Unit16 where
  addr : Nat
  bytes : List (Byte × Bool)
  deriving DecidableEq, Repr, Inhabited

/-- Who issued a stream command or a put (R290), or awaits a remote access. -/
inductive Issuer where
  | node (inst node : Nat)
  | facet (inst node clone slot pos : Nat)
  | conductor (r : Nat)
  | stream (r st : Nat)
  | engine (e : Nat)
  | hub
  | queue (n : Nat)
  | host
  | check (i : Nat)
  | text (r : Nat)
  deriving DecidableEq, Repr, Inhabited

/-- A stream command held by a streamer (R287 to R289). It begins once the remote accesses of the agent `behind` numbered below its
number are acknowledged (R97, R129). Of a multicast line it awaits the response (`mcWait`), has its bytes (`line`), or reads it for its
region alone (`single`, R105, R106). `units` are the last units read and `due` the last unit's bytes not yet written, so that
each unit is read and written at once (R112). -/
structure StreamCmd where
  issuer : Issuer
  ctx : BitVec 12
  inst : Nat
  store : Bool
  free : Bool
  handle : Nat
  slot : Nat
  desc : List Byte
  off : Nat := 0
  chase : Option Word64 := none
  linkDue : Bool := false
  mcWait : Bool := false
  line : List (Byte × Bool) := []
  single : Bool := false
  arrived : List Arrived := []
  vc : VClock := {}
  behind : Option (Agent × Nat) := none
  units : List Unit16 := []
  due : List Piece := []
  deriving DecidableEq, Repr, Inhabited

/-- A put of a chord engine (R299, R354 to R357); `vc`, `behind` and `units` as of a stream command. -/
structure Put where
  id : Nat
  issuer : Issuer
  inst : Nat
  ctx : BitVec 12
  region : Nat
  handle : Nat
  slot : Nat
  lzsend : Bool
  src : Nat
  start : Nat
  fin : Nat
  next : Nat
  acked : Nat
  port : Option Nat
  kind : PortKind
  route : Word64
  target : Word64
  ztag : BitVec 32
  timeout : Nat
  quietAt : Option Nat := none
  failAt : Option Nat := none
  keepAt : Nat := 0
  arrived : List Arrived := []
  vc : VClock := {}
  behind : Option (Agent × Nat) := none
  units : List Unit16 := []
  deriving DecidableEq, Repr, Inhabited

/-- A chord engine (R354): puts in the order accepted; the first eight run, the others wait. `turn` is the put that sent last. -/
structure ChordEngine where
  puts : List Put := []
  turn : Nat := 0
  deriving DecidableEq, Repr, Inhabited

/-- A reservation request whose answer is due (R298), sent by `port`, which is quiet since `quietAt` (R355). `late` when it has been
given up as UNREACHABLE and kept for a grant that still comes; its issuer is the hub once a freeze has abandoned it (R302). -/
structure Resv where
  tx : Nat
  inst : Nat
  region : Nat
  handle : Nat
  slot : Nat
  issuer : Issuer
  target : Word64
  route : Word64
  timeout : Nat
  counted : Nat := 0
  port : Option Nat := none
  quietAt : Option Nat := none
  answer : Option Word64 := none
  late : Bool := false
  vc : VClock := {}
  deriving DecidableEq, Repr, Inhabited

/-- A remote access outstanding (R349, R350); `lz` is the LZTIMEOUT of a release (R302). -/
structure Txn where
  tx : Nat
  issuer : Issuer
  inst : Nat
  ctx : BitVec 12
  flit : Flit
  port : Option Nat
  issued : Nat
  quietAt : Option Nat := none
  returns : Bool
  route : Option Word64 := none
  lz : Option Nat := none
  deriving DecidableEq, Repr, Inhabited

/-- A flit that has left by a port (R346, R347): under its link sequence number with the last one received in good order, or in a
frame with its PSEQ and PACK, the Ethernet address of its peer and the word of SOCFG. `tries` counts its replays. -/
structure Sent where
  kind : PortKind
  port : Nat
  flit : Flit
  seq : Nat := 0
  ack : Nat := 0
  mac : Nat := 0
  socfg : Word64 := 0
  tries : Nat := 0
  deriving DecidableEq, Repr, Inhabited

/-- A port (R343 to R347): its status word's fields, the data lanes it holds (`good`), whether the boot holds it
disabled (`held`, R391), its timers, its link sequence numbers and the flits sent and not yet acknowledged. -/
structure Port where
  retry : BitVec 16 := 0
  downs : BitVec 16 := 0
  lanes : Nat := 0
  spare : BitVec 4 := 0xF
  peer : BitVec 8 := 0xFF
  en : Bool := false
  state : Nat := 0
  since : Nat := 0
  lastRx : Nat := 0
  unacked : List Sent := []
  rxBad : Nat := 0
  good : Nat := 0
  downAt : Nat := 0
  held : Bool := false
  discarded : Nat := 0
  txSeq : Nat := 0
  rxSeq : Nat := 0
  deriving DecidableEq, Repr, Inhabited

/-- A frame sent on a scale-out port and not yet acknowledged (R347). -/
structure Frame where
  pseq : Nat
  port : Nat
  sentAt : Nat
  resends : Nat := 0
  flit : Flit
  deriving DecidableEq, Repr, Inhabited

/-- The scale-out transport toward one peer (R347). -/
structure Peer where
  pseq : Nat := 0
  pack : Nat := 0
  ahead : List Nat := []
  unacked : List Frame := []
  deriving DecidableEq, Repr, Inhabited

/-- A consumer port of the lead conductor (R227). -/
structure CPort where
  port : Nat
  toks : List Token := []
  lastSeq : Option (BitVec 16) := none
  deriving DecidableEq, Repr, Inhabited

/-- A producer port of the lead conductor (R227). -/
structure PPort where
  port : Nat
  entries : List OutEntry := []
  ended : Bool := false
  deriving DecidableEq, Repr, Inhabited

/-- What an access needs of a page (R91). -/
structure Need where
  write : Bool := false
  fetch : Bool := false
  sys : Bool := false
  deriving DecidableEq, Repr, Inhabited

/-- A walk asked for (R93). -/
structure Walk where
  die : Nat
  region : Nat
  ctx : BitVec 12
  va : Word64
  need : Need
  deriving DecidableEq, Repr, Inhabited

/-- A conductor (R205 to R209, R224 to R227, R242 to R245). While `issued`, `text` is the word of the instruction in progress;
`stray` holds the tokens at consumer ports that the running configuration lacks (R233); `told` says that the fault in hand has acted
on its domain (R337). -/
structure Conductor where
  x : List Word64 := List.replicate 32 0
  pc : Word64 := 0
  pl : Bool := true
  ppl : Bool := false
  bskip : Bool := false
  epc : Word64 := 0
  cause : Word64 := 0
  faddr : Word64 := 0
  tvec : Word64 := 0
  finfo : Word64 := 0
  savea : Word64 := 0
  saveb : Word64 := 0
  plsize : BitVec 8 := 0
  plidx : BitVec 8 := 0
  inst : Option Nat := none
  ss : Bool := false
  tokhi : Word64 := 0
  toksb : Word64 := 0
  tokohi : Word64 := 0
  tokosb : Word64 := 0
  bkpta : List Word64 := List.replicate 8 0
  bkptc : List Word64 := List.replicate 8 0
  halted : Bool := false
  haltPc : Word64 := 0
  wfi : Option Bool := none
  issued : Bool := false
  text : BitVec 32 := 0
  pend : List NodeFault := []
  handling : Option NodeFault := none
  told : Bool := false
  other : Word64 := 0
  cports : List CPort := []
  stray : List CPort := []
  pports : List PPort := []
  l1 : List CacheLine := []
  ic : List TextLine := []
  arrived : List Arrived := []
  fetched : List Arrived := []
  fenced : Option (List Walk) := none
  deriving DecidableEq, Repr, Inhabited

/-- A node block of an image (R151). -/
structure NodeBlk where
  kind : Nat
  sub : Nat
  hint : Nat
  bytes : List Byte
  deriving DecidableEq, Repr, Inhabited

/-- A graph image as CFGLD stages it (R149 to R154, R280). -/
structure Image where
  base : Word64 := 0
  nodes : List NodeBlk := []
  arcs : List Word64 := []
  levels : List (BitVec 32) := []
  handles : List (List Byte) := []
  codeOff : Nat := 0
  codeSize : Nat := 0
  entry : Nat := 0
  spillSize : Nat := 0
  routeVa : Option Word64 := none
  digest : BitVec 256 := 0
  enc : Bool := false
  deriving DecidableEq, Repr, Inhabited

/-- An arc of the running configuration (R154, R400) and its spill ring (R54 to R56); `ringAt` gives for each token in the ring how many
the arc had accepted before it. -/
structure ArcSt where
  inst : Nat
  idx : Nat
  word : Word64
  taken : Nat := 0
  accepted : Nat := 0
  ringBase : Nat := 0
  ringHead : Nat := 0
  ring : List Token := []
  ringAt : List Nat := []
  live : Nat := 0
  last : Nat := 0
  switchAt : Option Nat := none
  deriving DecidableEq, Repr, Inhabited

/-- The reorder merge of an arc that leaves a cloned node's output `port` (R308, R309): `ends` holds the clones that have emitted END, with
their ENDs. -/
structure Merge where
  inst : Nat
  node : Nat
  port : Nat
  arc : Nat := 0
  held : List (Nat × Token) := []
  next : Nat := 0
  ends : List (Nat × Token) := []
  outq : List OutEntry := []
  deriving DecidableEq, Repr, Inhabited

/-- The splitters of a node (R308, R309): how many tokens each input has been dealt, and the clone that received each set. Of a
node that is not cloned it counts the arrival tokens that its channels have been dealt (R400). -/
structure Splitter where
  inst : Nat
  node : Nat
  counts : List (Nat × Nat) := []
  order : List Nat := []
  deriving DecidableEq, Repr, Inhabited

/-- A cease token in flight against an arc (R266). -/
structure CeaseTok where
  inst : Nat
  arc : Nat
  seq : BitVec 16
  poison : Bool := false
  deriving DecidableEq, Repr, Inhabited

/-- The change a wavefront makes (R234, R306, R310, R317, R365). -/
inductive Change where
  | switch (img : Image)
  | clone (node k : Nat)
  | fold (a b : Nat)
  | unfold (a : Nat)
  | move (node clone region unit : Nat)
  | repair (nodes : List Nat)
  deriving DecidableEq, Repr, Inhabited

/-- Where a node, or one of its clones, is placed: its region, or the first region of its die where it stands on a die and
in no region (R13, R123). -/
structure Placed where
  node : Nat
  region : Nat
  onDie : Bool
  deriving DecidableEq, Repr, Inhabited

/-- Where a clone stood as a wavefront began (R238): its region, its unit, and whether it shared its facet. -/
structure Stood where
  node : Nat
  clone : Nat
  region : Nat
  unit : Nat
  fold : Bool
  deriving DecidableEq, Repr, Inhabited

/-- A switch wavefront in flight (R312), with the places of the nodes as it began (R124, R238). -/
structure Wave where
  change : Change
  affected : List Nat
  switched : List (Nat × Nat) := []
  old : List Placed := []
  stood : List Stood := []
  deriving DecidableEq, Repr, Inhabited

/-- Controller states of R316. -/
inductive CtlState where | idle | waiting | wave
  deriving DecidableEq, Repr, Inhabited

/-- The layout controller of an instance (R236, R305, R306, R310, R316). -/
structure LayoutCtl where
  state : CtlState := .idle
  hints : List (Nat × Nat) := []
  pins : List Nat := []
  unpins : List Nat := []
  locks : List Nat := []
  hot : List (Nat × Nat) := []
  cold : List (Nat × Nat) := []
  warm : List (Nat × Nat) := []
  wave : Option Wave := none
  deriving DecidableEq, Repr, Inhabited

/-- The life of an instance (R330 to R337). -/
inductive InstState where | running | freezing | frozen | saved | complete | discarding
  deriving DecidableEq, Repr, Inhabited

/-- A page pinned for the device: its translation is held (R55, R321). -/
structure HeldPage where
  ctx : BitVec 12
  va : Nat
  size : Nat
  pa : Nat
  deriving DecidableEq, Repr, Inhabited

/-- A graph instance (R30, R209, R224, R232, R330); `owed` are faults that act once its save is complete (R342), and `openVers` the node,
output and SEQ of every version whose final token is still to come (R274). -/
structure Inst where
  id : Nat
  ctx : BitVec 12
  part : Nat
  queue : Nat
  packet : List Byte
  regions : List Nat
  state : InstState := .running
  image : Image := {}
  active : Bool := true
  stages : List (Option (Image × Word64)) := [none, none, none, none]
  layver : BitVec 32 := 1
  ratewin : Nat := 12
  ratewinNext : Nat := 12
  clonewin : Nat := 4
  clonewinNext : Nat := 4
  foldwin : Nat := 8
  foldwinNext : Nat := 8
  lztimeout : Nat := 50
  counted : Nat := 0
  sinceFiring : Nat := 0
  winStart : Nat := 0
  winIndex : BitVec 32 := 0
  winDone : Nat := 0
  ctl : LayoutCtl := {}
  settledCount : List (Nat × BitVec 16) := []
  settledNow : List Nat := []
  versSince : List Nat := []
  openVers : List (Nat × Nat × BitVec 16) := []
  spillBase : Word64 := 0
  fault : Option NodeFault := none
  later : Nat := 0
  pinned : List HeldPage := []
  saveOff : Nat := 0
  savemax : Nat := 0
  prio : Nat := 0
  share : Nat := 1
  fdom : Nat := 1
  dir : List Nat := []
  stopCause : Option Cause := none
  saved : List Conductor := []
  saveKey : Nat := 0
  saveHead : List Byte := []
  saveTotal : Nat := 0
  signals : Bool := true
  killed : Bool := false
  leftOut : Nat := 0
  owed : List (NodeFault × List Word64) := []
  before : VClock := {}
  deriving DecidableEq, Repr, Inhabited

/-- A registered partition (R319) and who holds it (R327). -/
structure Partition where
  id : Nat
  addr : Nat := 0
  quads : BitVec 48 := 0
  prio : Nat := 0
  weight : Nat := 1
  fdom : Nat := 1
  eshare : Nat := 1
  quantum : Nat := 1000
  holder : Option Nat := none
  served : List (Nat × Nat) := []
  leaving : BitVec 48 := 0
  yielding : Bool := false
  dispatched : Nat := 0
  deriving DecidableEq, Repr, Inhabited

/-- A registered context (R320, R340). -/
structure Context where
  id : BitVec 12
  addr : Nat := 0
  root : Word64 := 0
  part : Nat := 0
  prio : Nat := 15
  weight : Nat := 0
  fdom : Nat := 0
  eshare : Nat := 0
  quota : Nat := 0
  state : Nat := 0
  key : BitVec 32 := 0
  killCause : Option Cause := none
  killAt : Nat := 0
  lz : Nat := 50
  deriving DecidableEq, Repr, Inhabited

/-- A hub copy in progress (R325): once its last write has been made, `upto` numbers the remote accesses that may still await their
acknowledgement. -/
structure HubCopy where
  src : Word64
  dst : Word64
  len : Nat
  packet : List Byte
  upto : Option Nat := none
  deriving DecidableEq, Repr, Inhabited

/-- A registered queue (R321, R322, R328, R339); `biting` while the sequence of R339 is under way. -/
structure Queue where
  num : Nat
  addr : Nat := 0
  base : Word64 := 0
  nent : Nat := 16
  ctx : BitVec 12 := 0
  prio : Nat := 15
  weight : Nat := 0
  fdom : Nat := 0
  eshare : Nat := 0
  wdog : Nat := 2000
  savebase : Word64 := 0
  savesize : Nat := 0
  frec : Word64 := 0
  frecsz : Nat := 256
  errcnt : Nat := 0
  cause : Option Cause := none
  state : Nat := 0
  deficit : Int := 0
  timer : Nat := 0
  copy : Option HubCopy := none
  copyVc : VClock := {}
  biting : Bool := false
  pinned : List HeldPage := []
  arrived : List Arrived := []
  deriving DecidableEq, Repr, Inhabited

/-- An entry of the pending-launch pool (R240, R336); `behind` as of a stream command. -/
structure PoolEntry where
  queue : Nat
  ctx : BitVec 12
  packet : List Byte
  vc : VClock := {}
  behind : Option (Agent × Nat) := none
  deriving DecidableEq, Repr, Inhabited

/-- A translation held by a region's TLB (R93); an entry with V clear is the end of a walk that found no page (DESIGN CHOICE, log
entry 64). -/
structure TlbEntry where
  region : Nat
  ctx : BitVec 12
  va : Nat
  size : Nat
  leaf : Word64
  deriving DecidableEq, Repr, Inhabited

/-- A translation held by a die's L2 TLB (R23, R93). -/
structure DieTlbEntry where
  die : Nat
  ctx : BitVec 12
  va : Nat
  size : Nat
  leaf : Word64
  deriving DecidableEq, Repr, Inhabited

/-- The write pointer of a slot that an agent last observed (R133), for one generation of the slot. -/
structure SeenPtr where
  agent : Agent
  region : Nat
  handle : Nat
  slot : Nat
  gen : BitVec 20
  ptr : Nat
  deriving DecidableEq, Repr, Inhabited

/-- A valid L2 line (R98 to R100): its data stands in `State.mem`. `bad` says that it holds an uncorrectable error not yet found
(R368). -/
structure L2Line where
  slice : Nat
  set : Nat
  way : Nat
  line : Nat
  valid : BitVec 8
  dirty : BitVec 8
  owner : BitVec 12
  retain : Bool
  used : Int
  bad : Bool := false
  deriving DecidableEq, Repr, Inhabited

/-- An L2 way out of use, or with errors corrected in it (R371, R372). -/
structure WayRec where
  slice : Nat
  set : Nat
  way : Nat
  corrected : Nat := 0
  quarantined : Bool := false
  boot : Bool := false
  spared : Bool := false
  deriving DecidableEq, Repr, Inhabited

/-- A merge record of a slice (R106). -/
structure MergeRec where
  slice : Nat
  line : Nat
  ctx : BitVec 12
  mask : Word64
  joined : List (Nat × Nat)
  hint : Nat
  opened : Nat
  left : Option Nat := none
  deriving DecidableEq, Repr, Inhabited

/-- The counters of a slice (R107). -/
structure SliceCounters where
  slice : Nat
  mcmerge : BitVec 32 := 0
  mclate : BitVec 32 := 0
  mcfull : BitVec 32 := 0
  retovf : BitVec 32 := 0
  deriving DecidableEq, Repr, Inhabited

/-- The error counters of a function (R374). -/
structure ErrSum where
  corr : BitVec 16 := 0
  repl : BitVec 16 := 0
  spare : BitVec 16 := 0
  term : BitVec 8 := 0
  retire : BitVec 8 := 0
  deriving DecidableEq, Repr, Inhabited

/-- The repair state of a region (R365, R366, R372): ranks held by spares, facets recorded as failed, ranks that no facet
holds any more, failed islands. -/
structure Repair where
  region : Nat
  spares : List (Nat × Nat) := []
  failed : Nat := 0
  dead : List Nat := []
  deadIslands : List Nat := []
  deriving DecidableEq, Repr, Inhabited

/-- The checkpoint registers of a streamer (R376). -/
structure Checkpoint where
  idx : Nat
  base : Word64 := 0
  cnt : Word64 := 0
  map : Word64 := 0
  dst : Word64 := 0
  ctx : BitVec 12 := 0
  phase : Bool := false
  status : Nat := 0
  bad : Bool := false
  arrived : List Arrived := []
  deriving DecidableEq, Repr, Inhabited

/-- A key slot (R384): bound to a VF and to the secured session of its TDI. -/
structure KeySlot where
  slot : Nat
  vf : Nat
  session : Nat := 0
  key : BitVec 512
  deriving DecidableEq, Repr, Inhabited

/-- A request of the device on the host link (R87, R382): a read of `len` bytes, or a write of bytes under a mask. -/
structure HostReq where
  write : Bool := false
  addr : Nat
  len : Nat
  bytes : List Byte := []
  mask : List Byte := []
  poison : Bool := false
  deriving DecidableEq, Repr, Inhabited

/-- What the host is answered through a window or a message (R379, R390). -/
inductive HostReply where
  | data (bytes : List Byte) (poison : Bool)
  | unsupported
  | page (addr : Nat)
  | measurements (fn : Nat) (fw : List (BitVec 256)) (stepping : Nat) (digests : List (BitVec 256)) (sig : List Byte)
  deriving DecidableEq, Repr, Inhabited

/-- The boot record (R391, R392). -/
structure Boot where
  step : Nat := 0
  ready : Bool := false
  recovery : Bool := false
  tries : Nat := 0
  failcode : BitVec 8 := 0
  failstep : Nat := 0
  again : Bool := false
  recs : List Word64 := List.replicate 16 0
  sup : BitVec 32 := 0
  sop : BitVec 32 := 0
  deriving DecidableEq, Repr, Inhabited

/-- What the nonvolatile store keeps across a reset (R29, R370 to R372, R388, R391). Of the trims, the identity seed and the certificate
chain the spec gives no layout. -/
structure Store where
  devId : BitVec 8 := 0
  trims : List Byte := []
  seed : List Byte := []
  chain : List Byte := []
  repair : List Repair := []
  retired : List Nat := []
  ways : List WayRec := []
  quadsOut : List Nat := []
  supOut : BitVec 32 := 0
  sopOut : BitVec 32 := 0
  rollback : Nat := 0
  staged : List StagedImage := []
  running : List StagedImage := []
  failStep : Nat := 0
  failCode : BitVec 8 := 0
  tries : Nat := 0
  levels : List (Nat × Nat) := []
  deriving DecidableEq, Repr, Inhabited

/-- The pins of R397. -/
structure Pins where
  perst : Bool := true
  pwrgd : Bool := true
  pwrgdAt : Nat := 0
  shdn : Bool := false
  thermtrip : Bool := false
  deriving DecidableEq, Repr, Inhabited

/-- The window, mapping, power and route registers (R345, R348, R382, R396). -/
structure Regs where
  winbase : Word64 := 0
  vfctx : List (Nat × Word64) := []
  vfbase : List (Nat × Word64) := []
  cxlwin : List Word64 := List.replicate 8 0
  socfg : Word64 := 0
  domrt : List (Nat × BitVec 32) := []
  sopeer : List (Nat × Word64) := []
  budget : Nat := 1600
  reserve : Nat := 460
  powerIn : Nat × Nat := (1600, 460)
  powerAt : Nat := 0
  tlimit : Nat := 95
  tmax : Nat := 0
  scale : Nat := 16
  pwrnow : Nat := 0
  hregBusy : Bool := false
  hregState : Nat := 0
  hregReason : Nat := 0
  l2rb : List Word64 := List.replicate 16 0
  l2rl : List Word64 := List.replicate 16 0
  deriving DecidableEq, Repr, Inhabited

/-- The device. -/
structure State where
  agenda : List Turn := []
  cur : Focus := {}
  fresh : Nat := 0
  clk : Nat := 0
  resetAt : Nat := 0
  stepping : Stepping := .B1
  devId : BitVec 8 := 0
  pins : Pins := {}
  boot : Boot := {}
  store : Store := {}
  regs : Regs := {}
  stopped : Bool := false
  mem : List Host.Cell := []
  poison : List Nat := []
  latent : List Nat := []
  spad : List Host.Cell := []
  spadPoison : List Nat := []
  spadHigh : List (Nat × Nat) := []
  tlb : List TlbEntry := []
  dieTlb : List DieTlbEntry := []
  walksWaiting : List Walk := []
  l2 : List L2Line := []
  l2ways : List WayRec := []
  retiring : List (Nat × Nat) := []
  mergeRecs : List MergeRec := []
  slices : List SliceCounters := []
  conds : List Conductor := List.replicate 192 {}
  energy : List Nat := List.replicate 192 1000000000
  lastRefill : List Nat := List.replicate 192 0
  refillAt : Nat := 10000
  gain : List Nat := List.replicate 192 0
  gainAt : Option Nat := none
  facets : List FacetUnit := []
  islands : List IslandUnit := []
  engines : List EngineNode := []
  arcs : List ArcSt := []
  merges : List Merge := []
  splitters : List Splitter := []
  ceases : List CeaseTok := []
  insts : List Inst := []
  nextInst : Nat := 1
  handles : List Handle := []
  gens : List (Nat × BitVec 20) := []
  streams : List (Nat × Nat × List StreamCmd) := []
  chords : List (Nat × ChordEngine) := []
  nextPut : Nat := 1
  resvs : List Resv := []
  txns : List Txn := []
  nextTx : Nat := 1
  performed : List (BitVec 8 × BitVec 16 × Flit × Nat) := []
  sup : List Port := List.replicate 32 {}
  sop : List Port := List.replicate 32 {}
  peers : List (Nat × Peer) := []
  outbox : List Sent := []
  replies : List Flit := []
  heard : List (Nat × Nat) := []
  domPath : List (Nat × Nat) := []
  tracked : List (Nat × Tracked) := []
  acted : List (Nat × Nat × Nat) := []
  ptrs : List SeenPtr := []
  hb : List AgentHB := []
  writeRels : List WriteRel := []
  parts : List Partition := []
  ctxs : List Context := []
  queues : List Queue := []
  pool : List PoolEntry := []
  poolGone : List (BitVec 12) := []
  errPf : ErrSum := {}
  errPart : List (Nat × ErrSum) := []
  checks : List Checkpoint := []
  keys : List KeySlot := []
  tdis : List (Nat × Nat) := []
  facetErrs : List (Nat × Nat × Nat) := []
  digests : List (Nat × BitVec 256) := []
  interrupts : List (Nat × Nat) := []
  hostReplies : List HostReply := []
  hostReqs : List HostReq := []
  cfgCache : List TextLine := []
  deriving DecidableEq, Repr, Inhabited

/-- The machine right after a device reset (R8, and the Reset columns of the field maps): nothing is loaded,
nothing is registered, every conductor is at system level (R226). Values the spec does not give are named in
notes/assumptions/4.md (DESIGN CHOICE). -/
def State.reset : State := {}

end Sys2Proof.Machine
end

