-- ==== Sys2Proof/Machine/Ops.lean ====
section
/-!
DEFINITION. The shared operations: bytes of memory in canonical form, the parts of the state by name, the
agenda, and taking and leaving a trap (R206 to R208) as one operation each.
-/
namespace Sys2Proof.Machine

/-- What a step answers. -/
abbrev Out := Host.Outcome State Fault Refusal

/-! ### Bytes -/

/-- What a byte no cell lists reads as: 0 (DESIGN CHOICE, log entry 3). -/
def unlisted : Byte := 0

/-- The byte at `a`. -/
def Memory.read : List Host.Cell → Nat → Byte
  | [], _ => unlisted
  | (k, b) :: m, a => if k = a then b else Memory.read m a

/-- `m` with byte `v` at `a`, in the same canonical form. -/
def Memory.write : List Host.Cell → Nat → Byte → List Host.Cell
  | [], a, v => if v = unlisted then [] else [(a, v)]
  | (k, b) :: m, a, v =>
    if k < a then (k, b) :: Memory.write m a v
    else if k = a then (if v = unlisted then m else (a, v) :: m)
    else if v = unlisted then (k, b) :: m else (a, v) :: (k, b) :: m

/-- Addresses strictly rising from `lo` on, and no cell that an unlisted address would read the same. -/
def Memory.wfFrom : Nat → List Host.Cell → Bool
  | _, [] => true
  | lo, (k, b) :: m => decide (lo ≤ k) && b != unlisted && Memory.wfFrom (k + 1) m

/-- The canonical form of a list of cells. -/
def Memory.wf (m : List Host.Cell) : Bool := Memory.wfFrom 0 m

/-- The `n` bytes from `a` up. -/
def Memory.readN (m : List Host.Cell) (a : Nat) : Nat → List Byte
  | 0 => []
  | n + 1 => Memory.read m a :: Memory.readN m (a + 1) n

/-- `m` with `bs` stored from `a` up. -/
def Memory.writeN (m : List Host.Cell) (a : Nat) : List Byte → List Host.Cell
  | [] => m
  | b :: bs => Memory.writeN (Memory.write m a b) (a + 1) bs

/-- The little-endian number in `n` bytes of HBM from `a` (R6). -/
def State.num (s : State) (a n : Nat) : Nat := Word.ofBytes (Memory.readN s.mem a n)

/-- A scratchpad's key in `State.spad`: region, rank and offset (R94). -/
def spadKey (region rank off : Nat) : Nat := region * 0x1000000 + rank * 0x40000 + off

/-- Slot `sl` of a handle. -/
def Handle.slot (h : Handle) (sl : Nat) : HSlot := h.slots.getD sl {}

/-- SBYTES (R280). -/
def Handle.sbytes (h : Handle) : Nat := (h.bytes + 127) / 128 * 128

/-- Where a slot's bytes begin in `State.spad` (R280). -/
def Handle.key (h : Handle) (sl : Nat) : Nat := spadKey h.region h.rank (h.offset + sl * h.sbytes)

/-! ### Parts of the state by name -/

/-- Conductor `r`. -/
def State.cond? (s : State) (r : Nat) : Option Conductor := s.conds[r]?

/-- `s` with conductor `r` changed by `f`. -/
def State.modCond (s : State) (r : Nat) (f : Conductor → Conductor) : State :=
  { s with conds := s.conds.modify r f }

/-- The instance `id`. -/
def State.inst? (s : State) (id : Nat) : Option Inst := s.insts.find? fun i => i.id == id

/-- `s` with instance `id` changed by `f`. -/
def State.modInst (s : State) (id : Nat) (f : Inst → Inst) : State :=
  { s with insts := s.insts.map fun i => if i.id = id then f i else i }

/-- The instance whose graph-level code conductor `r` runs. -/
def State.instOf (s : State) (r : Nat) : Option Inst :=
  (s.cond? r).bind fun c => c.inst.bind s.inst?

/-- The context a conductor executes in: its instance's; 0 with no instance (DESIGN CHOICE, log entry 5). -/
def State.ctxOf (s : State) (r : Nat) : BitVec 12 :=
  match s.instOf r with
  | some i => i.ctx
  | none => 0

/-- Registered context `id`. -/
def State.context? (s : State) (id : BitVec 12) : Option Context := s.ctxs.find? fun c => c.id == id

/-- `s` with context `id` changed by `f`. -/
def State.modCtx (s : State) (id : BitVec 12) (f : Context → Context) : State :=
  { s with ctxs := s.ctxs.map fun c => if c.id = id then f c else c }

/-- Registered queue `n`. -/
def State.queue? (s : State) (n : Nat) : Option Queue := s.queues.find? fun q => q.num == n

/-- `s` with queue `n` changed by `f`. -/
def State.modQueue (s : State) (n : Nat) (f : Queue → Queue) : State :=
  { s with queues := s.queues.map fun q => if q.num = n then f q else q }

/-- Registered partition `id`. -/
def State.part? (s : State) (id : Nat) : Option Partition := s.parts.find? fun p => p.id == id

/-- `s` with partition `id` changed by `f`. -/
def State.modPart (s : State) (id : Nat) (f : Partition → Partition) : State :=
  { s with parts := s.parts.map fun p => if p.id = id then f p else p }

/-- Handle `h` of region `r`. -/
def State.handle? (s : State) (r h : Nat) : Option Handle :=
  s.handles.find? fun x => x.region == r && x.num == h

/-- `s` with handle `h` of region `r` changed by `f`. -/
def State.modHandle (s : State) (r h : Nat) (f : Handle → Handle) : State :=
  { s with handles := s.handles.map fun x => if x.region = r ∧ x.num = h then f x else x }

/-- Whether `u` is the member `pos` of clone `clone` of a node. -/
def FacetUnit.is (u : FacetUnit) (inst node clone pos : Nat) : Bool :=
  u.inst == inst && u.node == node && u.clone == clone && u.pos == pos

/-- The facet that is member `pos` of a clone. -/
def State.facet? (s : State) (inst node clone pos : Nat) : Option FacetUnit :=
  s.facets.find? fun u => u.is inst node clone pos

/-- `s` with that facet changed by `f`. -/
def State.modFacet (s : State) (inst node clone pos : Nat) (f : FacetUnit → FacetUnit) : State :=
  { s with facets := s.facets.map fun u => if u.is inst node clone pos then f u else u }

/-- The facets loaded at one rank: more than one where nodes are folded (R310). -/
def State.facetsAt (s : State) (r rank : Nat) : List FacetUnit :=
  s.facets.filter fun u => u.region == r && u.rank == rank

/-- The members of the chain `u` belongs to, in chain order (R48). -/
def State.chainOf (s : State) (u : FacetUnit) : List FacetUnit :=
  (List.range u.chain).filterMap fun q => s.facet? u.inst u.node u.clone q

/-- The clones of a node that are loaded, by index. -/
def State.clonesOf (s : State) (inst node : Nat) : List Nat :=
  (s.facets.filter fun u => u.inst == inst && u.node == node && u.pos == 0).map FacetUnit.clone

/-- The island node at island `isl` of region `r`. -/
def State.island? (s : State) (r isl : Nat) : Option IslandUnit :=
  s.islands.find? fun u => u.region == r && u.isl == isl

/-- `s` with that island changed by `f`. -/
def State.modIsland (s : State) (r isl : Nat) (f : IslandUnit → IslandUnit) : State :=
  { s with islands := s.islands.map fun u => if u.region = r ∧ u.isl = isl then f u else u }

/-- The streamer or chord engine node `node` of an instance. -/
def State.engine? (s : State) (inst node : Nat) : Option EngineNode :=
  s.engines.find? fun e => e.inst == inst && e.node == node

/-- `s` with that node changed by `f`. -/
def State.modEngine (s : State) (inst node : Nat) (f : EngineNode → EngineNode) : State :=
  { s with engines := s.engines.map fun e => if e.inst = inst ∧ e.node = node then f e else e }

/-- Arc `idx` of an instance. -/
def State.arc? (s : State) (inst idx : Nat) : Option ArcSt :=
  s.arcs.find? fun a => a.inst == inst && a.idx == idx

/-- `s` with that arc changed by `f`. -/
def State.modArc (s : State) (inst idx : Nat) (f : ArcSt → ArcSt) : State :=
  { s with arcs := s.arcs.map fun a => if a.inst = inst ∧ a.idx = idx then f a else a }

/-- The commands streamer `st` of region `r` holds, the running one first. -/
def State.stream (s : State) (r st : Nat) : List StreamCmd :=
  ((s.streams.find? fun x => x.1 == r && x.2.1 == st).map fun x => x.2.2).getD []

/-- `s` with those commands replaced. -/
def State.setStream (s : State) (r st : Nat) (cs : List StreamCmd) : State :=
  { s with streams := (s.streams.filter fun x => !(x.1 == r && x.2.1 == st)) ++
      if cs.isEmpty then [] else [(r, st, cs)] }

/-- Chord engine `e`. -/
def State.chord (s : State) (e : Nat) : ChordEngine :=
  ((s.chords.find? fun x => x.1 == e).map fun x => x.2).getD {}

/-- `s` with chord engine `e` replaced. -/
def State.setChord (s : State) (e : Nat) (c : ChordEngine) : State :=
  { s with chords := (s.chords.filter fun x => x.1 != e) ++
      if c.puts.isEmpty then [] else [(e, c)] }

/-- Port `p` of kind `k`. -/
def State.port (s : State) (k : PortKind) (p : Nat) : Port :=
  match k with
  | .scaleUp => s.sup.getD p {}
  | .scaleOut => s.sop.getD p {}

/-- `s` with port `p` of kind `k` changed by `f`. -/
def State.modPort (s : State) (k : PortKind) (p : Nat) (f : Port → Port) : State :=
  match k with
  | .scaleUp => { s with sup := s.sup.modify p f }
  | .scaleOut => { s with sop := s.sop.modify p f }

/-- An entry of a table kept as pairs, with a default for the entries it does not list. -/
def lookup {α : Type} (l : List (Nat × α)) (d : α) (k : Nat) : α :=
  ((l.find? fun x => x.1 == k).map fun x => x.2).getD d

/-- The table with entry `k` set to `v`. -/
def assign {α : Type} (l : List (Nat × α)) (k : Nat) (v : α) : List (Nat × α) :=
  (l.filter fun x => x.1 != k) ++ [(k, v)]

/-- The die of a region (R16). -/
def dieOf (r : Nat) : Nat := r / 48

/-! ### The agenda, interrupts and counts -/

/-- CYCLE: the clocks since the device reset (R225). -/
def State.cycle (s : State) : Nat := s.clk - s.resetAt

/-- A turn that comes next (DESIGN CHOICE, log entry 1): what a register write or a device rule sets off. -/
def State.push (s : State) (t : Turn) : State := { s with agenda := t :: s.agenda }

/-- An event put off to the next clk: it counts as arriving then (DESIGN CHOICE, log entry 65). -/
def State.nextClk (s : State) (i : Instr) : State := { s with agenda := s.agenda ++ [.clock, .event i] }

/-- An access that ended in poison: the turn in which an error not found before is found comes next (R368, R369). -/
def State.meets (s : State) (found : Option (Nat × Nat)) : State :=
  match found with
  | some (a, n) => s.push (.found a n)
  | none => s

/-- An interrupt to function `fn` (0 the PF), vector `v` (R380). -/
def State.interrupt (s : State) (fn v : Nat) : State := { s with interrupts := s.interrupts ++ [(fn, v)] }

/-- Whether instance `id` is running: it holds a slice and is not frozen (R58). -/
def State.running (s : State) (id : Nat) : Bool :=
  !s.stopped && match s.inst? id with
    | some i => i.state == .running
    | none => false

/-- Whether instance `id` is being frozen (R331). -/
def State.freezing (s : State) (id : Nat) : Bool :=
  !s.stopped && match s.inst? id with
    | some i => i.state == .freezing
    | none => false

/-- A firing of instance `id` has completed: the detector of R58 counts from here. -/
def State.fired (s : State) (id : Nat) : State := s.modInst id fun i => { i with sinceFiring := 0 }

/-- The progress timer of queue `q` restarts (R339). -/
def State.beat (s : State) (q : Nat) : State := s.modQueue q fun x => { x with timer := 0 }

/-! ### Energy (R393 to R395), in fJ -/

/-- What a refill of this clk has added to the account of region `r`. -/
def State.gained (s : State) (r : Nat) : Nat := if s.gainAt = some s.clk then s.gain.getD r 0 else 0

/-- Whether the account of region `r` covers `cost` fJ, without a refill of this clk (R399). -/
def State.affords (s : State) (r cost : Nat) : Bool := cost + s.gained r ≤ s.energy.getD r 0

/-- `s` with `cost` fJ debited to region `r`. -/
def State.debit (s : State) (r cost : Nat) : State :=
  { s with energy := s.energy.modify r fun e => e - cost }

/-- The most that a region's account holds after a last refill of `n` (R393). -/
def accountCap (n : Nat) : Nat := max (4 * n) 1000000000

/-- `s` with `cost` fJ given back to region `r` (R395): what the account cannot hold is lost (R393). -/
def State.refund (s : State) (r cost : Nat) : State :=
  { s with energy := s.energy.modify r fun e => max e (min (e + cost) (accountCap (s.lastRefill.getD r 0))) }

/-- ENERGY of a region in nJ (R393). -/
def State.nanojoules (s : State) (r : Nat) : Nat := s.energy.getD r 0 / 1000000

/-! ### Traps (R206 to R208) -/

/-- The code of a cause (R360). -/
def causeCode : Cause → Nat
  | .illegal => 0x01
  | .reservedField => 0x02
  | .formatCombo => 0x03
  | .config => 0x04
  | .predMismatch => 0x05
  | .switchOrphan => 0x06
  | .stateClass => 0x07
  | .pageFault => 0x10
  | .access => 0x11
  | .misalign => 0x12
  | .addressForm => 0x13
  | .race => 0x14
  | .poison => 0x15
  | .subnormalAssist => 0x20
  | .trapInsn => 0x21
  | .brk => 0x22
  | .watchdog => 0x30
  | .killed => 0x31
  | .deadlock => 0x32
  | .resized => 0x33

/-- What a trap writes beside EPC: CAUSE with its INFO and NODE, and FADDR and FINFO where the source's row
of R206 gives them; `found` are the bytes of HBM whose poison an access met. -/
structure Trap where
  cause : Cause
  info : BitVec 16 := 0
  node : Bool := false
  faddr : Option Word64 := none
  finfo : Option Word64 := none
  found : Option (Nat × Nat) := none
  deriving DecidableEq, Repr, Inhabited

/-- CAUSE of R226. -/
def causeWord (t : Trap) : Word64 :=
  BitVec.ofNat 64 (t.info.toNat * 65536 + t.node.toNat * 256 + causeCode t.cause)

/-- A trap taken by a conductor (R206). The waiting instruction it may end has no effect (R207). -/
def Conductor.trap (c : Conductor) (epc : Word64) (t : Trap) : Conductor :=
  { c with
    epc := epc
    cause := causeWord t
    faddr := t.faddr.getD c.faddr
    finfo := t.finfo.getD c.finfo
    ppl := c.pl
    pl := true
    pc := c.tvec
    issued := false
    wfi := none
    told := false
    fenced := none
    arrived := [] }

/-- The trap of the instruction at pc: BSKIP is cleared when the instruction it names traps (R208). -/
def Conductor.trapHere (c : Conductor) (t : Trap) : Conductor :=
  let c' := c.trap c.pc t
  { c' with bskip := c.pl && c.bskip }

/-- A node fault taken (R206): EPC is the next graph-level instruction not yet completed; FADDR is 0 where the node reports no address
(DESIGN CHOICE, log entry 91). -/
def Conductor.takeNode (c : Conductor) (epc : Word64) (f : NodeFault) : Conductor :=
  let c' := c.trap epc
    { cause := f.cause, info := f.info, node := true, faddr := some f.faddr, finfo := some f.finfo }
  { c' with handling := some f, other := f.other }

/-- The next graph-level instruction not yet completed (R206): of a halted conductor the HALT itself (R245). -/
def Conductor.graphPc (c : Conductor) : Word64 := if c.halted then c.haltPc else c.pc

/-- ERET (R208): pc and PL come back, and the oldest node fault pending, if there is one, is taken before the
instruction at EPC (R207). -/
def Conductor.eret (c : Conductor) : Conductor :=
  let c' : Conductor :=
    { c with pc := c.epc, pl := c.ppl, issued := false, wfi := none, arrived := [], handling := none, told := false }
  if c'.pl then c'
  else match c'.pend with
    | [] => c'
    | f :: fs => { c'.takeNode c'.graphPc f with pend := fs }

/-- A node fault of region `r` arises: it is pending at the conductor (R206, R207). -/
def State.nodeFault (s : State) (r : Nat) (f : NodeFault) : State :=
  s.modCond r fun c => { c with pend := c.pend ++ [f] }

/-! ### How a conductor instruction ends -/

/-- The end of a conductor instruction. -/
inductive CondRes where
  | done (s : State)                  -- it completes; pc moves to the next word
  | jump (s : State) (pc : Word64)    -- it completes; pc is given
  | wait (s : State)                  -- it waits, executed again from the start (R211)
  | trap (t : Trap)                   -- it traps with no effect (R206)
  | trapOn (s : State) (t : Trap)     -- it traps, with the effects its own rule keeps
  deriving Repr

/-- The region whose instance's firing counts, and the conductor after an instruction completes at `pc`:
BSKIP is cleared (R208), and a stepped instruction is followed by BREAK (R243). -/
def Conductor.complete (c : Conductor) (graph : Bool) (pc : Word64) : Conductor :=
  let c' := { c with pc := pc, issued := false, wfi := none, arrived := [], fenced := none, bskip := c.bskip && !graph }
  if graph && c'.ss then c'.trap pc { cause := .brk } else c'

/-- The state after a conductor instruction of region `r` that began with conductor `c` (R206, R212). -/
def settle (s : State) (r : Nat) (c : Conductor) : CondRes → State
  | .done s' => finish s' (c.pc + 4)
  | .jump s' pc => finish s' pc
  | .wait s' => s'
  | .trap t => (s.meets t.found).modCond r fun c => c.trapHere t
  | .trapOn s' t => s'.modCond r fun c => c.trapHere t
where
  /-- The instruction completes with the next pc. -/
  finish (s' : State) (pc : Word64) : State :=
    let s'' := s'.modCond r fun d => d.complete (!c.pl) pc
    match c.inst with
    | some id => s''.fired id
    | none => s''

/-- A waiting WFI of conductor `r` is woken (R242). -/
def State.wake (s : State) (r : Nat) : State :=
  s.modCond r fun c => if c.wfi = some false then { c with wfi := some true } else c

/-- Runs one conductor instruction of the unit in `cur`. -/
def conductor (s : State) (f : Nat → Conductor → CondRes) : Out :=
  match s.cond? s.cur.region with
  | none => .fault .noUnit
  | some c => .next (settle s s.cur.region c (f s.cur.region c))

/-! ### Conductor registers -/

/-- Register `xr`: x0 reads 0 (R142). -/
def Conductor.get (c : Conductor) (r : Reg) : Word64 := if r = 0 then 0 else c.x.getD r.val 0

/-- Register `xr` written: x0 takes nothing (R142). -/
def Conductor.set (c : Conductor) (r : Reg) (v : Word64) : Conductor :=
  if r = 0 then c else { c with x := c.x.set r.val v }

/-- `s` with `v` in register `d` of conductor `r`. -/
def State.setX (s : State) (r : Nat) (d : Reg) (v : Word64) : State := s.modCond r fun c => c.set d v

/-- The instruction ends by trapping with `cause`. -/
def trapWith (cause : Cause) : CondRes := .trap { cause := cause }

/-- The instruction ends by trapping with `cause` at address `a`. -/
def trapAt (cause : Cause) (a : Word64) : CondRes := .trap { cause := cause, faddr := some a }

end Sys2Proof.Machine
end

