-- ==== Sys2Proof/Machine/Regs.lean ====
section
/-!
DEFINITION. The device register space: the words of R345, R372, R374, R381 to R383, R392 and R396, read and
written at their offsets. A write that is a command of its own (HREG, a port's EN, DBGSLOT, CKCTL.GO) puts the
command's step next on the agenda (DESIGN CHOICE, log entry 1).
-/
namespace Sys2Proof.Machine

/-- A word built from fields, each given by its lowest bit and its value. -/
def pack (fs : List (Nat × Nat)) : Word64 := BitVec.ofNat 64 (fs.foldl (fun n f => n + f.2 * 2 ^ f.1) 0)

/-- The Revision ID code of a stepping (R28). -/
def steppingCode : Stepping → Nat
  | .A0 => 0x00
  | .B0 => 0x10
  | .B1 => 0x11

/-- SUPST or SOPST (R345). -/
def Port.word (p : Port) : Word64 :=
  pack [(48, p.retry.toNat), (32, p.downs.toNat), (20, p.lanes), (16, p.spare.toNat), (8, p.peer.toNat),
    (3, p.en.toNat), (0, p.state)]

/-- ERRSUM (R374). -/
def ErrSum.word (e : ErrSum) : Word64 :=
  pack [(48, e.corr.toNat), (32, e.repl.toNat), (16, e.spare.toNat), (8, e.term.toNat), (0, e.retire.toNat)]

/-- ERRSUM with a word written (R8, R374). -/
def ErrSum.ofWord (v : Word64) : ErrSum :=
  { corr := v.extractLsb' 48 16, repl := v.extractLsb' 32 16, spare := v.extractLsb' 16 16,
    term := v.extractLsb' 8 8, retire := v.extractLsb' 0 8 }

/-- BOOTST (R392). -/
def Boot.word (b : Boot) : Word64 :=
  pack [(20, b.tries), (12, b.failcode.toNat), (8, b.failstep), (5, b.recovery.toNat), (4, b.ready.toNat),
    (0, b.step)]

/-- PWRCTL (R396). -/
def Regs.pwrctl (g : Regs) : Word64 := pack [(32, g.reserve), (0, g.budget)]

/-- THERM (R396). -/
def Regs.therm (g : Regs) : Word64 :=
  pack [(56, g.tmax), (48, g.tlimit), (32, g.scale), (16, g.pwrnow)]

/-- REPAIRr (R372). -/
def Repair.word (x : Repair) : Word64 :=
  pack ((32, x.failed) :: x.spares.map fun p => (8 * p.1, 0x80 + p.2))

/-- An entry of the quarantined-way table (R372). -/
def WayRec.word (w : WayRec) : Word64 :=
  pack [(63, 1), (16, w.slice), (8, w.set), (4, w.boot.toNat), (0, w.way)]

/-- CKCTL as it reads (R376). -/
def Checkpoint.ctl (c : Checkpoint) : Word64 :=
  pack [(32, c.ctx.toNat), (2, c.status), (1, c.phase.toNat)]

/-- The counters of slice `g` (R107). -/
def State.slice (s : State) (g : Nat) : SliceCounters :=
  (s.slices.find? fun c => c.slice == g).getD { slice := g }

/-- `s` with those counters changed by `f`. -/
def State.modSlice (s : State) (g : Nat) (f : SliceCounters → SliceCounters) : State :=
  { s with slices := (s.slices.filter fun c => c.slice != g) ++ [f (s.slice g)] }

/-- The checkpoint registers of streamer `i` = 2 × region + streamer (R376). -/
def State.check (s : State) (i : Nat) : Checkpoint :=
  (s.checks.find? fun c => c.idx == i).getD { idx := i }

/-- `s` with those registers changed by `f`. -/
def State.modCheck (s : State) (i : Nat) (f : Checkpoint → Checkpoint) : State :=
  { s with checks := (s.checks.filter fun c => c.idx != i) ++ [f (s.check i)] }

/-- ERRSUM of partition `p` (R374). -/
def State.errOf (s : State) (p : Nat) : ErrSum := lookup s.errPart {} p

/-- The L2 ways listed as quarantined (R371, R372). -/
def State.quarantined (s : State) : List WayRec :=
  (s.store.ways ++ s.l2ways).filter fun w => w.quarantined && !w.spared

/-- The word of the register at an offset of the register space; `none` at a reserved offset (R381) (DESIGN CHOICE,
log entry 18). -/
def State.regRead (s : State) (off : Nat) : Option Word64 :=
  let g := s.regs
  let at8 := fun (base n : Nat) => decide (base ≤ off ∧ off < base + 8 * n ∧ off % 8 = 0)
  if off % 8 ≠ 0 then none
  else if off = 0x0 then some 0
  else if off = 0x8 then some (pack [(8, g.hregReason), (0, if g.hregBusy then 1 else g.hregState)])
  else if off = 0x10 then some s.boot.word
  else if off = 0x18 then some (pack [(32, s.boot.sop.toNat), (0, s.boot.sup.toNat)])
  else if off = 0x20 then some g.pwrctl
  else if off = 0x28 then some g.therm
  else if off = 0x30 then some g.winbase
  else if at8 0x100 16 then some (s.boot.recs.getD ((off - 0x100) / 8) 0)
  else if 0x1010 ≤ off ∧ off < 0x1400 then
    if off % 16 = 0 then some (lookup g.vfctx 0 ((off - 0x1000) / 16))
    else some (lookup g.vfbase 0 ((off - 0x1000) / 16))
  else if at8 0x2000 8 then some (g.cxlwin.getD ((off - 0x2000) / 8) 0)
  else if 0x100000 ≤ off ∧ off < 0x100100 then
    if off % 16 = 0 then some (g.l2rb.getD ((off - 0x100000) / 16) 0)
    else some (g.l2rl.getD ((off - 0x100000) / 16) 0)
  else if at8 0x200000 32 then some (s.port .scaleUp ((off - 0x200000) / 8)).word
  else if at8 0x200100 32 then some (s.port .scaleOut ((off - 0x200100) / 8)).word
  else if off = 0x200200 then some g.socfg
  else if at8 0x201000 256 then
    some (BitVec.ofNat 64 (lookup g.domrt (0 : BitVec 32) ((off - 0x201000) / 8)).toNat)
  else if at8 0x202000 256 then some (lookup g.sopeer 0 ((off - 0x202000) / 8))
  else if off = 0x300000 then some s.errPf.word
  else if at8 0x300008 64 then some (s.errOf ((off - 0x300008) / 8)).word
  else if off = 0x400000 then some 0
  else if at8 0x401000 192 then
    some (match s.store.repair.find? fun x => x.region == (off - 0x401000) / 8 with
      | some x => x.word
      | none => 0)
  else if 0x500000 ≤ off ∧ off < 0x500000 + 0x40 * 384 ∧ (off - 0x500000) % 0x40 ≤ 0x20 then
    let c := s.check ((off - 0x500000) / 0x40)
    match (off - 0x500000) % 0x40 with
    | 0x00 => some c.base
    | 0x08 => some c.cnt
    | 0x10 => some c.map
    | 0x18 => some c.dst
    | _ => some c.ctl
  else if at8 0x600000 1024 then
    let c := s.slice ((off - 0x600000) / 32)
    some (BitVec.ofNat 64 (match (off - 0x600000) / 8 % 4 with
      | 0 => c.mcmerge.toNat
      | 1 => c.mclate.toNat
      | 2 => c.mcfull.toNat
      | _ => c.retovf.toNat))
  else if at8 0x700000 1024 then
    some (match s.store.retired[(off - 0x700000) / 8]? with
      | some page => pack [(63, 1), (16, page)]
      | none => 0)
  else if at8 0x702000 1024 then
    some (match s.quarantined[(off - 0x702000) / 8]? with
      | some w => w.word
      | none => 0)
  else none

/-- How a register write ends. -/
inductive RegWrite where
  | done (s : State)
  | refused        -- RESERVED_FIELD, the register kept (R396)
  | absent         -- a reserved offset (R381)
  deriving Repr

/-- The step a command of HREG stands for, or its REASON (R383): a kill reads CTXID from the block, which lies in the device's own HBM. A
queue's number is the one its block already has, or the lowest free one (DESIGN CHOICE, log entry 20). -/
def State.hregCommand (s : State) (op : Nat) (addr : Word64) : Except Nat Instr :=
  let dev := addr.toNat / 2 ^ 44 % 256
  let a := addr.toNat % 2 ^ 44
  match op with
  | 1 => .ok (.registerPartition addr)
  | 2 => .ok (.registerContext addr)
  | 3 =>
    .ok (.registerQueue addr (match if dev = s.devId.toNat then s.queues.find? fun q => q.addr == a else none with
      | some q => q.num
      | none => ((List.range 1024).find? fun n => s.queues.all fun q => q.num != n).getD 1024))
  | 5 => .ok (.rereadQuads addr)
  | 6 =>
    if dev ≠ s.devId.toNat ∨ a ≥ 2 ^ 39 ∨ s.store.retired.contains (a / 65536) = true then .error 1
    else .ok (.kill (BitVec.ofNat 12 (s.num (a + 8) 2)) .killed)
  | _ => .error 6

/-- A write to HREG (R8, R383): bits 63:52 are RZ; ignored while busy, before step 11 of the boot and in recovery (R391). -/
def State.hregWrite (s : State) (v : Word64) : State :=
  if s.regs.hregBusy || !s.boot.ready then s
  else match s.hregCommand (Word.field v 5 0) (v &&& 0x000FFFFFFFFFFFC0) with
    | .ok i => { s with regs := { s.regs with hregBusy := true, hregReason := 0 } }.push (.event i)
    | .error n => { s with regs := { s.regs with hregState := 3, hregReason := n } }

/-- A write to SUPST or SOPST (R344, R345, R382): the counts are set, and a change of EN puts the port's own
step on the agenda; EN of a port held at boot, or of a scale-out port with no EtherType, stays 0 (R391). -/
def State.portWrite (s : State) (k : PortKind) (p : Nat) (v : Word64) : State :=
  let held := (s.port k p).held || (k == .scaleOut && Word.field s.regs.socfg 15 0 == 0)
  let s := s.modPort k p fun x => { x with retry := v.extractLsb' 48 16, downs := v.extractLsb' 32 16 }
  if Word.bit v 3 && !(s.port k p).en then
    if held then s else s.push (.event (.portEnable k p))
  else if !Word.bit v 3 && (s.port k p).en then s.push (.event (.portDisable k p))
  else s

/-- `v` written to the register at an offset (R8, R382). -/
def State.regWrite (s : State) (off : Nat) (v : Word64) : RegWrite :=
  let g := s.regs
  let at8 := fun (base n : Nat) => decide (base ≤ off ∧ off < base + 8 * n ∧ off % 8 = 0)
  let regs := fun (g' : Regs) => RegWrite.done { s with regs := g' }
  if s.regRead off = none then .absent
  else if off = 0x0 then .done (s.hregWrite v)
  else if off = 0x20 then
    let b := Word.field v 15 0
    let r := Word.field v 47 32
    -- what stood before this clk applies at a boundary in it (R399)
    let before := if g.powerAt = s.clk + 1 then g.powerIn else (g.budget, g.reserve)
    if 400 ≤ b ∧ b ≤ 1600 ∧ r < b then regs { g with budget := b, reserve := r, powerIn := before, powerAt := s.clk + 1 } else .refused
  else if off = 0x28 then
    let t := Word.field v 55 48
    if 70 ≤ t ∧ t ≤ 105 then regs { g with tlimit := t } else .refused
  else if off = 0x30 then regs { g with winbase := v &&& 0x00000FF000000000 }
  else if 0x1010 ≤ off ∧ off < 0x1400 then
    let f := (off - 0x1000) / 16
    if off % 16 = 0 then
      let ok := match s.context? (v.extractLsb' 0 12) with
        | some c => c.part == f && c.state == 0
        | none => false
      if Word.bit v 63 && !ok then .done s
      else regs { g with vfctx := assign g.vfctx f (v &&& 0x8000000000000FFF) }
    else regs { g with vfbase := assign g.vfbase f (v &&& 0x00FFFFFC00000000) }
  else if at8 0x2000 8 then
    regs { g with cxlwin := g.cxlwin.set ((off - 0x2000) / 8) (v &&& 0xFFFFFFE000000001) }
  else if at8 0x200000 32 then .done (s.portWrite .scaleUp ((off - 0x200000) / 8) v)
  else if at8 0x200100 32 then .done (s.portWrite .scaleOut ((off - 0x200100) / 8) v)
  else if off = 0x200200 then
    let e := Word.field v 15 0
    if 1 ≤ e ∧ e ≤ 0x5FF then .done s else regs { g with socfg := v }
  else if at8 0x201000 256 then
    regs { g with domrt := assign g.domrt ((off - 0x201000) / 8) (v.extractLsb' 0 32) }
  else if at8 0x202000 256 then
    regs { g with sopeer := assign g.sopeer ((off - 0x202000) / 8) (v &&& 0x8000FFFFFFFFFFFF) }
  else if off = 0x300000 then .done { s with errPf := ErrSum.ofWord v }
  else if at8 0x300008 64 then
    .done { s with errPart := assign s.errPart ((off - 0x300008) / 8) (ErrSum.ofWord v) }
  else if off = 0x400000 then
    .done (s.push (.event (if Word.bit v 63 then .dbgslotSet v else .dbgslotClear v)))
  else if 0x500000 ≤ off ∧ off < 0x500000 + 0x40 * 384 then
    let i := (off - 0x500000) / 0x40
    match (off - 0x500000) % 0x40 with
    | 0x00 => .done (s.modCheck i fun c => { c with base := v })
    | 0x08 => .done (s.modCheck i fun c => { c with cnt := v })
    | 0x10 => .done (s.modCheck i fun c => { c with map := v })
    | 0x18 => .done (s.modCheck i fun c => { c with dst := v })
    | _ =>
      let s := s.modCheck i fun c => { c with ctx := v.extractLsb' 32 12, phase := Word.bit v 1 }
      if Word.bit v 0 then
        .done (s.push (.event (if Word.bit v 1 then .checkpointCopy i else .checkpointCollect i)))
      else .done s
  else if at8 0x600000 1024 then
    let slice := (off - 0x600000) / 32
    if v ≠ 0 then .done s
    else .done (s.modSlice slice fun c => match (off - 0x600000) / 8 % 4 with
      | 0 => { c with mcmerge := 0 }
      | 1 => { c with mclate := 0 }
      | 2 => { c with mcfull := 0 }
      | _ => { c with retovf := 0 })
  else .done s

end Sys2Proof.Machine
end

