-- ==== Sys2Proof/Machine/L2.lean ====
section
/-!
DEFINITION. The device-wide L2 (R98 to R104): where a line lies, what an access does to it, the retention
ranges. The data of every line stands in `State.mem`; a line here says what the L2 holds.
-/
namespace Sys2Proof.Machine

/-- The home slice of line `L` (R98). -/
def l2Slice (L : Nat) : Nat := L % 256

/-- The set of line `L` (R98). -/
def l2Set (L : Nat) : Nat := L / 256 % 128

/-- The die of the home slice of line `L` (R98). -/
def l2Die (L : Nat) : Nat := l2Slice L / 64

/-- The HBM stack of line `L`: twice address bits 17:16, plus bit 18 (R98). -/
def hbmStack (L : Nat) : Nat := 2 * (L / 64 % 4) + L / 256 % 2

/-- The enabled retention range that holds line `L`, the lowest numbered (R101, R103). -/
def State.rangeOf (s : State) (L : Nat) : Option Nat :=
  (List.range 16).find? fun n =>
    let rb := s.regs.l2rb.getD n 0
    Word.bit rb 63 && Word.field rb 39 12 ≤ L / 64 && L / 64 ≤ Word.field (s.regs.l2rl.getD n 0) 39 12

/-- The ways of range `n`, valid while its EN is 1 (R101). -/
def State.rangeWays (s : State) (n : Nat) : List Nat :=
  let rb := s.regs.l2rb.getD n 0
  if Word.bit rb 63 then (List.range 12).filter fun w => Word.bit rb (48 + w) else []

/-- The ways that enabled ranges hold (R102). -/
def State.heldWays (s : State) : List Nat := (List.range 16).flatMap s.rangeWays

/-- Whether a way of a set is quarantined and not yet replaced (R371). -/
def State.wayOut (s : State) (slice set way : Nat) : Bool :=
  (s.store.ways ++ s.l2ways).any fun w =>
    w.slice == slice && w.set == set && w.way == way && w.quarantined && !w.spared

/-- The lines of one set. -/
def State.l2SetLines (s : State) (slice set : Nat) : List L2Line :=
  s.l2.filter fun x => x.slice == slice && x.set == set

/-- The mark of the most recently used position of a set (R99, R100). -/
def mru (ls : List L2Line) : Int := ls.foldl (fun n x => max n (x.used + 1)) 1

/-- The mark of the least recently used position of a set (R100). -/
def lru (ls : List L2Line) : Int := ls.foldl (fun n x => min n (x.used - 1)) 0

/-- The way whose line is replaced: the least recently used of the lines `cand` of a set under the retain marks of
R100. -/
def oldestWay (ls cand : List L2Line) : Option Nat :=
  let marked := (ls.filter fun x => x.retain).length
  let free := cand.filter fun x => !x.retain
  match if marked ≥ 6 || free.isEmpty then cand else free with
  | [] => none
  | x :: xs => some (xs.foldl (fun y z => if z.used < y.used then z else y) x).way

/-- The way that a fill takes among the ways allowed, of whose lines it may replace those that `may` says: an empty one,
else the least recently used. -/
def victim (ls : List L2Line) (ways : List Nat) (may : L2Line → Bool := fun _ => true) : Option Nat :=
  match ways.find? fun w => ls.all fun x => x.way != w with
  | some w => some w
  | none => oldestWay ls (ls.filter fun x => ways.contains x.way && may x)

/-- The way for a fill of line `L` by context `ctx`, and whether the range overflowed (R103): of the reserved ways an empty
one, else one that a line outside the range still holds. -/
def State.fillWay (s : State) (L : Nat) (ctx : BitVec 12) : Option Nat × Bool :=
  let slice := l2Slice L
  let set := l2Set L
  let ls := s.l2SetLines slice set
  let usable := fun w => !s.wayOut slice set w
  let normal := (List.range 12).filter fun w => usable w && !s.heldWays.contains w
  match s.rangeOf L with
  | some n =>
    if Word.field (s.regs.l2rb.getD n 0) 11 0 = ctx.toNat then
      let own := (s.rangeWays n).filter usable
      match victim ls own fun x => s.rangeOf x.line != some n with
      | some w => (some w, false)
      | none => (victim ls normal, true)
    else (victim ls normal, false)
  | none => (victim ls normal, false)

/-- The sectors of a line that bytes `a` to `a + n - 1` touch (R99). -/
def sectorMask (a n : Nat) : BitVec 8 :=
  BitVec.ofNat 8 (((List.range 8).filter fun k =>
    k * 128 < a % 1024 + n && a % 1024 < k * 128 + 128).foldl (fun m k => m + 2 ^ k) 0)

/-! ### Memory errors (R368 to R371, R373, R374) -/

/-- A saturating count of 16 bits, one higher. -/
def saturate16 (n : BitVec 16) : BitVec 16 := if n = 0xFFFF then n else n + 1

/-- An event counted for the device, and for the partition it is attributed to (R374). -/
def State.countErr (s : State) (part : Option Nat) (f : ErrSum → ErrSum) : State :=
  let s := { s with errPf := f s.errPf }
  match part with
  | some p => { s with errPart := assign s.errPart p (f (s.errOf p)) }
  | none => s

/-- The partition of a context. -/
def State.partOf (s : State) (id : BitVec 12) : Option Nat := (s.context? id).map Context.part

/-- A corrected memory error counted. -/
def ErrSum.corrected (e : ErrSum) : ErrSum := { e with corr := saturate16 e.corr }

/-- A page or a way counted as out of service. -/
def ErrSum.retired (e : ErrSum) : ErrSum := { e with retire := if e.retire = 0xFF then e.retire else e.retire + 1 }

/-- The 16-byte units that `n` bytes from `a` touch. -/
def unitsOf (a n : Nat) : List Nat := (List.range ((a + n + 15) / 16 - a / 16)).map fun k => a / 16 * 16 + 16 * k

/-- Poisoned ECC in HBM for the units that `n` bytes from `a` touch (R285). -/
def State.taint (s : State) (a n : Nat) : State :=
  { s with poison := s.poison ++ (unitsOf a n).filter fun u => !s.poison.contains u }

/-- The page of an HBM address retired (R370), until the table of 1,024 entries is full; the physical function is told its address. -/
def State.retirePage (s : State) (a : Nat) (part : Option Nat) : State :=
  let page := a / 65536
  if s.store.retired.contains page ∨ s.store.retired.length ≥ 1024 then s
  else
    let s := { s with
      store := { s.store with retired := s.store.retired ++ [page] }
      retiring := (s.retiring.filter fun (x : Nat × Nat) => x.2 == s.clk) ++ [(page, s.clk)]
      hostReplies := s.hostReplies ++ [HostReply.page (page * 65536)] }
    (s.countErr part ErrSum.retired).interrupt 0 2

/-- A way of a set quarantined (R371, R372): its line goes, and it is allocated no more. -/
def State.quarantine (s : State) (slice set way : Nat) (part : Option Nat) : State :=
  if s.wayOut slice set way then s
  else
    let w : WayRec := { slice := slice, set := set, way := way, quarantined := true }
    let s := { s with
      l2 := s.l2.filter fun x => !(x.slice == slice && x.set == set && x.way == way)
      l2ways := s.l2ways.filter fun x => !(x.slice == slice && x.set == set && x.way == way)
      store := { s.store with ways := s.store.ways ++ [w] } }
    s.countErr part ErrSum.retired

/-- The dirty sectors of a line written to HBM with poisoned ECC (R369). -/
def State.poisonDirty (s : State) (x : L2Line) : State :=
  (List.range 8).foldl (fun s k => if x.dirty.getLsbD k then s.taint (x.line * 1024 + 128 * k) 128 else s) s

/-- Poison written into HBM by context `ctx` (R285): its page is retired with it (R370) (DEDUCED, log entry 94). -/
def State.poisonHbm (s : State) (a n : Nat) (ctx : BitVec 12) : State := (s.taint a n).retirePage a (s.partOf ctx)

/-- An L2 line in which an uncorrectable error is found (R369, R371): dirty sectors go to HBM poisoned, the page is retired and the
owner is killed next; a clean line only goes. The way is quarantined. -/
def State.badLine (s : State) (x : L2Line) : State :=
  let owner := if x.dirty = 0 then none else s.partOf x.owner
  let s := if x.dirty = 0 then s else ((s.poisonDirty x).retirePage (x.line * 1024) owner).push (.doom x.owner)
  let s := s.quarantine x.slice x.set x.way owner
  { s with l2 := s.l2.filter fun y => y != x }

/-- Whether the L2 holds the sector of byte `a`, sound. -/
def State.l2Holds (s : State) (a : Nat) : Bool :=
  s.l2.any fun x => !x.bad && x.line == a / 1024 && x.valid.getLsbD (a % 1024 / 128)

/-- Whether an access to `n` bytes from `a` reads an uncorrectable error that nothing has found yet (R368): in HBM, or in a dirty L2
line. -/
def State.unfound (s : State) (a n : Nat) : Bool :=
  (s.latent.any fun b => b < a + n && a < b + 64 && !s.l2Holds b) ||
  s.l2.any fun x => x.bad && x.line == a / 1024 && x.dirty &&& sectorMask a n != 0

/-- Errors of HBM blocks found (R369, R370): poison in each, and its page retired. -/
def State.findBlocks (s : State) (bs : List Nat) : State :=
  bs.foldl (fun s b => (s.taint b 64).retirePage b none) { s with latent := s.latent.filter fun b => !bs.contains b }

/-- The errors found by an access to `n` bytes from `a` of HBM (R368 to R370): that of an L2 line that it reads, and those of the sectors
that it fills. A store reads the sectors that it touches, whole ones too (DESIGN CHOICE, log entry 78). -/
def State.findHere (s : State) (a n : Nat) : State :=
  if s.latent.isEmpty && !s.l2.any L2Line.bad then s
  else
    let mask := sectorMask a n
    let s := match s.l2.find? fun x => x.bad && x.line == a / 1024 && x.valid &&& mask != 0 with
      | some x => s.badLine x
      | none => s
    s.findBlocks (s.latent.filter fun b => b / 1024 == a / 1024 && mask.getLsbD (b % 1024 / 128) && !s.l2Holds b)

/-- A line written back and gone (R99): the dirty sectors overwrite what HBM held, and an error in a dirty line is found (R369). -/
def State.dropLine (s : State) (x : L2Line) : State :=
  let s := { s with latent := s.latent.filter fun b => !(b / 1024 == x.line && x.dirty.getLsbD (b % 1024 / 128)) }
  if x.bad && x.dirty != 0 then s.badLine x else { s with l2 := s.l2.filter fun y => y != x }

/-! ### Accesses (R99, R100, R103) -/

/-- The way for a fill, its line written back (R99, R103): a way whose line turns out to be in error is out, and another is taken; `fuel`
bounds the ways. -/
def State.makeRoom (s : State) (L : Nat) (ctx : BitVec 12) : Nat → State × Option Nat × Bool
  | 0 => (s, none, false)
  | fuel + 1 =>
    match s.fillWay L ctx with
    | (none, spill) => (s, none, spill)
    | (some w, spill) =>
      match s.l2.find? fun x => x.slice == l2Slice L && x.set == l2Set L && x.way == w with
      | none => (s, some w, spill)
      | some x => if x.bad && x.dirty != 0 then (s.dropLine x).makeRoom L ctx fuel else (s.dropLine x, some w, spill)

/-- An access of `n` bytes at local HBM address `a` reaches the L2 (R99, R100, R103). -/
def State.l2Access (s : State) (a n : Nat) (ctx : BitVec 12) (hint : Nat) (write : Bool) : State :=
  let s := s.findHere a n
  let L := a / 1024
  let slice := l2Slice L
  let set := l2Set L
  let ls := s.l2SetLines slice set
  let mask := sectorMask a n
  let low := hint == 1 || (hint == 3 && write)
  let used := if low then lru (ls.filter fun x => x.line != L) else mru ls
  let touch := fun (x : L2Line) =>
    { x with
      valid := x.valid ||| mask
      dirty := if write then x.dirty ||| mask else x.dirty
      owner := if write then ctx else x.owner
      retain := x.retain || hint == 2
      used := used }
  if ls.any fun x => x.line == L then
    { s with l2 := s.l2.map fun x => if x.line = L then touch x else x }
  else
    match s.makeRoom L ctx 12 with
    | (s, none, _) => s
    | (s, some w, spill) =>
      let s := if spill then s.modSlice slice fun c => { c with retovf := c.retovf + 1 } else s
      let fresh : L2Line := { slice := slice, set := set, way := w, line := L, valid := 0, dirty := 0, owner := 0, retain := false, used := 0 }
      { s with l2 := s.l2 ++ [touch fresh] }

/-- WAYS of every enabled range together (R102). -/
def State.waysTotal (s : State) : Nat := s.heldWays.length

/-- Whether setting EN of range `n` is refused (R102). -/
def State.setEnRefused (s : State) (n : Nat) (rb : Word64) : Bool :=
  let rl := s.regs.l2rl.getD n 0
  let ways := Word.field rl 43 40
  ways == 0 || ways > 8 || Word.field rl 39 12 < Word.field rb 39 12 || s.waysTotal + ways > 8

/-- L2RBn with EN set: the highest-numbered free ways are assigned (R101, R102). -/
def State.enabledRb (s : State) (n : Nat) (rb : Word64) : Word64 :=
  let ways := Word.field (s.regs.l2rl.getD n 0) 43 40
  let free := ((List.range 12).filter fun w => !s.heldWays.contains w).reverse
  let own := free.take ways
  pack [(63, 1), (48, own.foldl (fun m w => m + 2 ^ w) 0), (44, own.headD 0), (12, Word.field rb 39 12),
    (0, Word.field rb 11 0)]

/-- The lines of the ways released at the most recently used position of their sets, in the order in which they stood
(R104) (DESIGN CHOICE, log entry 66). -/
def State.releaseWays (s : State) (ways : List Nat) : List L2Line :=
  s.l2.map fun x =>
    if ways.contains x.way then
      let ls := s.l2SetLines x.slice x.set
      { x with used := mru ls + (x.used - lru ls) }
    else x

/-- EN of range `n` cleared: its ways are released (R104). -/
def State.unpin (s : State) (n : Nat) : State :=
  let rb := s.regs.l2rb.getD n 0
  { s with
    l2 := if Word.bit rb 63 then s.releaseWays (s.rangeWays n) else s.l2
    regs := { s.regs with l2rb := s.regs.l2rb.set n (rb &&& 0x000000FFFFFFFFFF) } }

/-- L2RBn written (R102, R222): refused, or the new state. -/
def State.setRb (s : State) (n : Nat) (v : Word64) : Option State :=
  let on := Word.bit (s.regs.l2rb.getD n 0) 63
  if Word.field v 62 60 ≠ 0 ∨ Word.field v 43 40 ≠ 0 then none
  else if Word.bit v 63 then
    if on || s.setEnRefused n v then none
    else some { s with regs := { s.regs with l2rb := s.regs.l2rb.set n (s.enabledRb n v) } }
  else
    let s := s.unpin n
    some { s with regs := { s.regs with l2rb := s.regs.l2rb.set n (v &&& 0x000000FFFFFFFFFF) } }

/-- L2RLn written (R101, R222). -/
def State.setRl (s : State) (n : Nat) (v : Word64) : Option State :=
  if Word.bit (s.regs.l2rb.getD n 0) 63 || Word.field v 63 44 != 0 || Word.field v 11 0 != 0 then none
  else some { s with regs := { s.regs with l2rl := s.regs.l2rl.set n v } }

/-- A write to any offset of the register space, the retention registers included (R102, R381). One of the physical function (`pf`) leaves
the domain and peer tables as they are, which system-level code alone writes (R348). -/
def State.regStore (s : State) (off : Nat) (v : Word64) (pf : Bool := false) : RegWrite :=
  if pf && 0x201000 ≤ off && off < 0x202800 && (s.regRead off).isSome then .done s
  else if 0x100000 ≤ off ∧ off < 0x100100 then
    let n := (off - 0x100000) / 16
    match if off % 16 = 0 then s.setRb n v else s.setRl n v with
    | some s' => .done s'
    | none => .refused
  else s.regWrite off v

end Sys2Proof.Machine
end

