-- ==== Sys2Proof/Machine/Order.lean ====
section
/-!
DEFINITION. The happens-before relation as plain data (R116 to R119, R129, R130) and the disambiguator of a
region (R120, R121). Each agent holds a vector clock that counts accesses: an access of agent X happens
before the next access of agent Y when Y's clock has reached its number.
-/
namespace Sys2Proof.Machine

/-! ### Vector clocks -/

/-- How many accesses of `a` the clock has reached. -/
def VClock.at (vc : VClock) (a : Agent) : Nat :=
  ((vc.upto.find? fun x => x.1 == a).map fun x => x.2).getD 0

/-- Whether the clock has reached access `n` of `a`. -/
def VClock.has (vc : VClock) (a : Agent) (n : Nat) : Bool := VClock.at vc a ≥ n || vc.only.contains (a, n)

/-- The clock with `a` at least at `n`. -/
def VClock.raise (vc : VClock) (a : Agent) (n : Nat) : VClock :=
  if VClock.at vc a ≥ n then vc else { vc with upto := (vc.upto.filter fun x => x.1 != a) ++ [(a, n)] }

/-- The clock with access `n` of `a` alone. -/
def VClock.single (vc : VClock) (a : Agent) (n : Nat) : VClock :=
  if vc.has a n then vc else { vc with only := vc.only ++ [(a, n)] }

/-- What either clock has reached. -/
def VClock.join (x y : VClock) : VClock :=
  y.only.foldl (fun v p => VClock.single v p.1 p.2) (y.upto.foldl (fun v p => VClock.raise v p.1 p.2) x)

/-- A clock that has reached nothing. -/
def VClock.isEmpty (vc : VClock) : Bool := vc.upto.isEmpty && vc.only.isEmpty

/-- What a token brings to whoever pops or peeks it: the firings before it on a memory-ordering arc (R119), and the
drain that it publishes (R130). -/
def Token.before (t : Token) : VClock := VClock.join t.vc t.drain

/-- An END emitted by an agent that knows `h`: a carrier, as every token that it emits (R118, R119). -/
def endOf (h : AgentHB) : Token := { payload := 0, side := 2, rels := h.rels, vc := h.vc }

/-- A NULL emitted for the NULL `t` that was popped. R42 names SEQ, TAG and VER as copied; PSN is copied with them, so that a poisoned NULL
passes its poison on (DESIGN CHOICE, log entry 70). It is a token of the agent that emits it: it carries that agent's release points and
order, and not those of `t` (DESIGN CHOICE, log entry 70). -/
def nullOf (h : AgentHB) (t : Token) : Token := { payload := 0, side := t.side, rels := h.rels, vc := h.vc, deal := t.deal }

/-- What agent `a` knows. -/
def State.hbOf (s : State) (a : Agent) : AgentHB := (s.hb.find? fun h => h.agent == a).getD { agent := a }

/-- `s` with what agent `a` knows changed by `f`. -/
def State.modHB (s : State) (a : Agent) (f : AgentHB → AgentHB) : State :=
  { s with hb := (s.hb.filter fun h => h.agent != a) ++ [f (s.hbOf a)] }

/-- Everything in `vc` happens before the later accesses of `a`. -/
def State.orderAfter (s : State) (a : Agent) (vc : VClock) : State :=
  if vc.isEmpty then s else s.modHB a fun h => { h with vc := VClock.join h.vc vc }

/-- `a` observes a carrier of the release points `rels` (R118). -/
def State.observe (s : State) (a : Agent) (rels : List RelPoint) : State :=
  let new := rels.filter fun r => !(s.hbOf a).seen.contains r
  if new.isEmpty then s else s.modHB a fun h => { h with seen := h.seen ++ new }

/-- `a` pops or peeks tokens: what they carry is observed (R118, R119, R130). -/
def State.sees (s : State) (a : Agent) (ts : List Token) : State :=
  ts.foldl (fun s t => (s.observe a t.rels).orderAfter a t.before) s

/-! ### Scopes (R123) -/

/-- Whether a scope contains agent `a`, placed in region `r`. -/
def Scope.holds (sc : Scope) (a : Agent) (r : Nat) : Bool :=
  match sc with
  | .node b => a == b
  | .region q => r == q
  | .die d => dieOf r == d
  | .device => true
  | .domain => true

/-- The region in which each node of an instance is placed. A chord engine stands on a die and in no region (R13): it
counts by its die's first region, and with `true`. -/
def State.placed (s : State) (inst : Nat) : List Placed :=
  ((s.facets.filter fun u => u.inst == inst).map fun u => ⟨u.node, u.region, false⟩) ++
  ((s.islands.filter fun u => u.inst == inst).map fun u => ⟨u.node, u.region, false⟩) ++
  ((s.engines.filter fun e => e.inst == inst).map fun e =>
    ⟨e.node, if e.isChord then 48 * (e.unit / 16) else e.region, e.isChord⟩)

/-- The smallest of region, die and device that holds all of `ps` (R123). -/
def coverScope : List Placed → Scope
  | [] => .device
  | p :: ps =>
    if !p.onDie && ps.all fun q => !q.onDie && q.region == p.region then .region p.region
    else if ps.all fun q => dieOf q.region == dieOf p.region then .die (dieOf p.region) else .device

/-- The subgraph `n` levels out from subgraph `g`; past the outermost, the whole graph (R123, R150). -/
def outward (levels : List (BitVec 32)) (g : Nat) : Nat → Nat
  | 0 => g
  | n + 1 => outward levels (Word.field (levels.getD g 0) 11 0) n

/-- Whether subgraph `g` lies within subgraph `top` (R150). -/
def within (levels : List (BitVec 32)) (top g : Nat) : Bool :=
  (List.range 5).any fun n => outward levels g n == top

/-- The image and the places by which levels bind (R124): while a wavefront is in flight, those it began with, and for a node
that has switched the new ones. -/
def State.binding (s : State) (i : Inst) (switched : Bool) : Image × List Placed :=
  match i.ctl.wave with
  | none => (i.image, s.placed i.id)
  | some w =>
    if switched then
      (match w.change with
        | .switch im => im
        | _ => i.image, s.placed i.id)
    else (i.image, w.old)

/-- Whether a clone of a node has switched in the wavefront in flight (R312). -/
def Inst.switched (i : Inst) (node clone : Nat) : Bool :=
  match i.ctl.wave with
  | some w => w.switched.contains (node, clone)
  | none => false

/-- The scope that a facet's level binds to (R123, R124). -/
def State.facetScope (s : State) (u : FacetUnit) (level : Nat) : Scope :=
  let me : Agent := .facet u.inst u.node u.clone
  if level ≥ 4 then .domain
  else
    match s.inst? u.inst with
    | none => .node me
    | some i =>
      let b := s.binding i (i.switched u.node u.clone)
      let sub := fun n => ((b.1.nodes[n]?).map NodeBlk.sub).getD 0
      let top := outward b.1.levels (sub u.node) (level - 1)
      let part := b.2.filter fun p =>
        if level = 0 then p.node == u.node else within b.1.levels top (sub p.node)
      if (part.all fun p => p.node == u.node) && (s.clonesOf u.inst u.node).length ≤ 1 then .node me
      else coverScope part

/-- The scope that a conductor's level names (R123) (DEDUCED, log entry 43). -/
def State.condScope (s : State) (r : Nat) (level : Nat) : Scope :=
  match level with
  | 0 => .region r
  | 1 => .die (dieOf r)
  | 2 => .device
  | 3 =>
    match s.instOf r with
    | some i =>
      let ps := (s.binding i false).2
      coverScope (if ps.isEmpty then i.regions.map fun q => ⟨0, q, false⟩ else ps)
    | none => .region r
  | _ => .domain

/-! ### Ordering points (R117, R118) -/

/-- A release point of `a` at scope `sc`: later carriers of `a` carry it. -/
def State.release (s : State) (a : Agent) (r : Nat) (sc : Scope) : State :=
  s.modHB a fun h =>
    { h with rels := (h.rels.filter fun p => p.scope != sc) ++ [⟨a, r, sc, h.vc⟩] }

/-- An acquire point of `a` at scope `sc`: it synchronises with the release points observed. -/
def State.acquire (s : State) (a : Agent) (r : Nat) (sc : Scope) : State :=
  s.modHB a fun h =>
    let ok := h.seen.filter fun p => p.scope.holds a r && sc.holds p.agent p.region
    { h with vc := ok.foldl (fun v p => VClock.join v p.vc) h.vc }

/-! ### Engine commands (R97, R129) -/

/-- The agent that issued an access. -/
def Issuer.agent : Issuer → Option Agent
  | .facet i n c _ _ => some (.facet i n c)
  | .conductor r => some (.conductor r)
  | _ => none

/-- An engine command that a facet or a conductor issues is a release point of device scope (R129). -/
def State.commandPoint (s : State) (a : Agent) (r : Nat) : State :=
  match a with
  | .engine _ _ => s
  | _ => s.release a r .device

/-- What such a command waits for before it begins: the earlier stores and atomics of its issuer (R97, R129). -/
def State.behindNow (s : State) (a : Agent) : Option (Agent × Nat) :=
  match a with
  | .engine _ _ => none
  | _ => some (a, s.nextTx)

/-- Whether one of them is not yet acknowledged. -/
def State.heldBack (s : State) (h : Option (Agent × Nat)) : Bool :=
  match h with
  | none => false
  | some (a, n) => s.txns.any fun t => t.issuer.agent == some a && t.tx < n

/-! ### The disambiguator (R120 to R122) -/

/-- An access as the disambiguator sees it; `space` is 0 for global memory and 1 for scratchpad. -/
structure Access where
  space : Nat
  addr : Nat
  len : Nat
  isWrite : Bool
  atomicScope : Option Scope := none
  deriving DecidableEq, Repr

/-- Whether a firing of a facet node's clone has begun and is not complete. -/
def State.firingHeld (s : State) (a : Agent) : Bool :=
  match a with
  | .facet i n c => ((s.facet? i n c 0).map fun u => u.chainFire.isSome).getD false
  | _ => false

/-- Whether a tracked access is still in flight: its answer is due from another device, or the firing that issued it awaits that of an
atomic. -/
def State.inFlight (s : State) (t : Tracked) : Bool :=
  (match t.tx with
    | some n => s.txns.any fun x => x.tx == n
    | none => false) || (t.held && s.firingHeld t.agent)

/-- Whether an entry is still tracked: from issue until 256 clk after its access completed (R120). -/
def State.isTracked (s : State) (t : Tracked) : Bool := s.inFlight t || s.clk < t.doneAt + 256

/-- The accesses tracked in region `r`, in the order of their issue. -/
def State.trackedIn (s : State) (r : Nat) : List Tracked :=
  ((s.tracked.filter fun p => p.1 == r).map fun p => p.2).filter s.isTracked

/-- Whether `n1` bytes from `a1` of one space and `n2` from `a2` of another share a byte. -/
def overlaps (sp1 a1 n1 sp2 a2 n2 : Nat) : Bool := sp1 == sp2 && a1 < a2 + n2 && a2 < a1 + n1

/-- Whether two accesses conflict (R121). -/
def Tracked.conflicts (t : Tracked) (x : Access) : Bool :=
  overlaps t.space t.addr t.len x.space x.addr x.len && (t.isWrite || x.isWrite)

/-- Whether a tracked access comes before every later one of the agent: by its own order, or by happens-before. -/
def Tracked.ordered (t : Tracked) (h : AgentHB) : Bool := t.agent == h.agent || h.vc.has t.agent t.epoch

/-- Whether a tracked access conflicts with a new one of an agent with no order between them (R121). -/
def Tracked.races (t : Tracked) (h : AgentHB) (r : Nat) (x : Access) : Bool :=
  t.conflicts x && !t.ordered h &&
  match t.atomicScope, x.atomicScope with
  | some p, some q => !(p.holds h.agent r && p.holds t.agent t.region && q.holds h.agent r &&
      q.holds t.agent t.region)
  | _, _ => true

/-- The older access that a new one races with, if there is one (R121): of several, the one issued first (DESIGN CHOICE, log
entry 65). -/
def State.raceWith (s : State) (r : Nat) (a : Agent) (x : Access) : Option Tracked :=
  (s.trackedIn r).find? fun t => t.races (s.hbOf a) r x

/-- Whether a tracked access is older than the firing or instruction of `a` whose remote accesses are numbered `since` or more. -/
def Tracked.older (t : Tracked) (a : Agent) (since : Nat) : Bool :=
  match t.tx with
  | some n => n < since
  | none => t.agent != a

/-- Whether a new access waits at its issue (R120, R121): a conflicting access that is ordered before it is in flight, accesses of the
firing itself apart (R115), or every one of the 256 entries is. -/
def State.mustWait (s : State) (r : Nat) (a : Agent) (since : Nat) (x : Access) : Bool :=
  let flying := (s.trackedIn r).filter s.inFlight
  (flying.any fun t => t.older a since && t.conflicts x && t.ordered (s.hbOf a)) || 256 ≤ flying.length

/-- The table with room for a new entry of region `r`: entries no longer tracked are gone, and of a full table the
completed access issued first (R120). -/
def State.tableRoom (s : State) (r : Nat) : List (Nat × Tracked) :=
  let l := s.tracked.filter fun p => p.1 != r || s.isTracked p.2
  if (l.filter fun p => p.1 == r).length < 256 then l else l.eraseP fun p => p.1 == r && !s.inFlight p.2

/-- The access of agent `a` enters the table of region `r` (R120); `party` names it in a report, and `tx` is the remote access
that it is about to send. -/
def State.track (s : State) (r : Nat) (a : Agent) (ctx : BitVec 12) (party : Word64) (tx : Option Nat) (x : Access) : State :=
  let known := (s.hbOf a).vc
  let n := VClock.at known a + 1
  let s := s.modHB a fun h => { h with vc := VClock.raise h.vc a n }
  { s with tracked := s.tableRoom r ++ [(r,
      { space := x.space, addr := x.addr, len := x.len, isWrite := x.isWrite, atomicScope := x.atomicScope,
        agent := a, epoch := n, region := r, ctx := ctx, party := party, doneAt := s.clk, tx := tx, known := known })] }

/-- Whether an access of a firing has been issued already, and its entry is held. -/
def State.issuedBefore (s : State) (r : Nat) (a : Agent) (x : Access) : Bool :=
  s.tracked.any fun p => p.1 == r && p.2.held && p.2.agent == a && p.2.space == x.space && p.2.addr == x.addr && p.2.len == x.len &&
    p.2.isWrite == x.isWrite

/-- `rd` with the accesses of `a` that `s` tracks beside: they are issued, and held while the firing awaits an answer (R121). -/
def State.holdIssued (s rd : State) (a : Agent) : State :=
  ({ rd with
    tracked := s.tracked.map fun (p : Nat × Tracked) =>
      if p.2.agent = a ∧ !rd.tracked.contains p then (p.1, { p.2 with held := true }) else p } : State).modHB a fun h =>
    { h with vc := VClock.raise h.vc a (VClock.at (s.hbOf a).vc a) }

/-- The firing of `a` has ended: the entries held for it are complete. -/
def State.freeIssued (s : State) (a : Agent) : State :=
  { s with tracked := s.tracked.map fun p =>
      if p.2.agent = a ∧ p.2.held then (p.1, { p.2 with held := false, doneAt := s.clk }) else p }

/-- The remote access `tx` has completed: its entry is tracked for 256 clk more (R120). -/
def State.accessDone (s : State) (tx : Nat) : State :=
  { s with tracked := s.tracked.map fun p =>
      if p.2.tx = some tx then (p.1, { p.2 with tx := none, doneAt := s.clk }) else p }

/-- What a later access leaves of a carrier outside its own bytes. -/
def WriteRel.outside (w : WriteRel) (x : Access) : List WriteRel :=
  if !overlaps w.space w.addr w.len x.space x.addr x.len then [w]
  else
    (if w.addr < x.addr then [{ w with len := x.addr - w.addr }] else []) ++
    (if x.addr + x.len < w.addr + w.len then
      [{ w with addr := x.addr + x.len, len := w.addr + w.len - (x.addr + x.len) }] else [])

/-- The part of a carrier within the bytes of a later access, hidden or not. -/
def WriteRel.inside (w : WriteRel) (x : Access) (hidden : Bool) : List WriteRel :=
  if !overlaps w.space w.addr w.len x.space x.addr x.len then []
  else
    let lo := max w.addr x.addr
    [{ w with addr := lo, len := min (w.addr + w.len) (x.addr + x.len) - lo, hidden := hidden }]

/-- The carriers after a write `x`: a plain write hides those that it covers, for it is what a load returns, and an atomic brings them
out, for who observes it observes every carrier before it at its unit (R118). -/
def writeOver (ws : List WriteRel) (x : Access) : List WriteRel :=
  ws.flatMap fun w => w.outside x ++ w.inside x x.atomicScope.isNone

/-- A write of an agent that carries nothing: an engine's, the hub's, the host's or another device's. -/
def State.covered (s : State) (x : Access) : State := { s with writeRels := writeOver s.writeRels x }

/-- A write of agent `a` carries its release points (R118): a later load that returns it observes them. -/
def State.carry (s : State) (a : Agent) (x : Access) : State :=
  let rels := (s.hbOf a).rels
  let s := s.covered x
  if rels.isEmpty then s else { s with writeRels := s.writeRels ++ [{ space := x.space, addr := x.addr, len := x.len, rels := rels }] }

/-- The carriers among the writes that a load of `n` bytes from `a` of a space returns. -/
def carriersAt (ws : List WriteRel) (space a n : Nat) : List WriteRel :=
  ws.filter fun w => !w.hidden && overlaps w.space w.addr w.len space a n

/-- A load of agent `a` observes the writes it returns (R118). -/
def State.observeAt (s : State) (a : Agent) (x : Access) : State :=
  s.observe a ((carriersAt s.writeRels x.space x.addr x.len).flatMap WriteRel.rels)

/-! ### Order of turns within a clk (R121) -/

/-- Whether the unit of region `r` with key `k`, a facet's rank or 64 for the conductor, may act in this clk: a facet and
the conductor act once in a clk at most (R19), the facets in the order of their ranks and the conductor last, so that
of two accesses of one clk the younger is the one on the higher rank or the conductor's (R121). A turn out of that order passes (DESIGN
CHOICE, log entry 65). -/
def State.mayAct (s : State) (r k : Nat) : Bool :=
  match s.acted.find? fun x => x.1 == r with
  | some (_, clk, last) => clk != s.clk || last < k
  | none => true

/-- The unit with key `k` of region `r` has acted in this clk. -/
def State.didAct (s : State) (r k : Nat) : State :=
  { s with acted := (s.acted.filter fun x => x.1 != r) ++ [(r, s.clk, k)] }

/-! ### Write pointers observed (R133) -/

/-- The write pointer of a slot that agent `a` last observed; 0 where it has observed none of this generation. -/
def State.seenPtr (s : State) (a : Agent) (h : Handle) (sl : Nat) : Nat :=
  match s.ptrs.find? fun p => p.agent == a && p.region == h.region && p.handle == h.num && p.slot == sl &&
      p.gen == (h.slot sl).gen with
  | some p => p.ptr
  | none => 0

/-- Agent `a` observes the write pointer of a slot. -/
def State.seePtr (s : State) (a : Agent) (h : Handle) (sl : Nat) : State :=
  { s with ptrs := (s.ptrs.filter fun p => !(p.agent == a && p.region == h.region && p.handle == h.num && p.slot == sl)) ++
      [⟨a, h.region, h.num, sl, (h.slot sl).gen, (h.slot sl).wptr⟩] }

/-- Whether `n` scratchpad bytes from key `k` lie in a slot of region `r` that is FILLING or RESERVED, at or above the write
pointer that agent `a` last observed: such an access is not checked (R133). -/
def State.unchecked (s : State) (r : Nat) (a : Agent) (k n : Nat) : Bool :=
  s.handles.any fun h => h.region == r && (List.range h.slots.length).any fun sl =>
    ((h.slot sl).state == .filling || (h.slot sl).state == .reserved) &&
    h.key sl + s.seenPtr a h sl ≤ k && k + n ≤ h.key sl + h.bytes

/-- A conductor's party word: FINFO with COND set (R121, R226). -/
def State.condParty (s : State) (r : Nat) : Word64 :=
  let ver := match s.instOf r with
    | some i => i.layver.toNat
    | none => 0
  let idx := ((s.cond? r).map fun c => c.plidx.toNat).getD 0
  BitVec.ofNat 64 (ver * 4294967296 + 0x1000000 + idx)

end Sys2Proof.Machine
end

