-- ==== Sys2Proof/Machine/Memory.lean ====
section
/-!
DEFINITION. Memory as programs see it: address forms (R85), physical addresses (R86, R87), alignment (R88),
translation (R89 to R93), scratchpad (R94, R95), the access made at its place, and remote memory (R349).
-/
namespace Sys2Proof.Machine

/-! ### Where a physical address lies -/

/-- Where a physical address of 52 bits leads (R86, R87, R382). -/
inductive Place where
  | hbm (a : Nat)
  | host (a : Nat)
  | cxl (a : Nat)
  | reg (off : Nat)
  | remote (dev a : Nat)
  deriving DecidableEq, Repr

/-- The place of a local address (R87); `none` where an access raises ACCESS: a reserved range, a disabled
CXL slice, a retired page (R370). -/
def State.localPlace (s : State) (a : Nat) : Option Place :=
  match a / 0x8000000000 with
  | 0 => if s.store.retired.contains (a / 65536) then none else some (.hbm a)
  | 2 => some (.host a)
  | 3 => some (.host a)
  | 4 => if Word.bit (s.regs.cxlwin.getD ((a - 0x20000000000) / 2 ^ 37) 0) 0 then some (.cxl a) else none
  | 5 => if Word.bit (s.regs.cxlwin.getD ((a - 0x20000000000) / 2 ^ 37) 0) 0 then some (.cxl a) else none
  | 30 => some (.reg (a - 0xF0000000000))
  | 31 => some (.reg (a - 0xF0000000000))
  | _ => none

/-- Whether the page of local address `a` is retired in this clk: a write to it completes yet (R373). -/
def State.retiresNow (s : State) (a : Nat) : Bool := s.retiring.contains (a / 65536, s.clk)

/-- The place of a physical address (R86); a device with no DOMRT entry raises ACCESS (R349). -/
def State.place (s : State) (pa : Nat) : Option Place :=
  let dev := pa / 2 ^ 44 % 256
  if dev = s.devId.toNat then s.localPlace (pa % 2 ^ 44)
  else if lookup s.regs.domrt (0 : BitVec 32) dev = 0 then none
  else some (.remote dev (pa % 2 ^ 44))

/-- The place of a physical address that is written: a page retired in this clk takes the write yet (R373). -/
def State.placeToWrite (s : State) (pa : Nat) : Option Place :=
  if pa / 2 ^ 44 % 256 = s.devId.toNat ∧ pa % 2 ^ 44 < 2 ^ 39 ∧ s.retiresNow (pa % 2 ^ 44) = true then some (.hbm (pa % 2 ^ 44))
  else s.place pa

/-! ### Bytes stored -/

/-- Bytes stored at HBM address `a`, over the carriers there (R118): a 16-byte unit written whole loses its poison (DEDUCED, log entry
22), but for one in a page that is retired in this clk (R373). -/
def State.writeHbm (s : State) (a : Nat) (bs : List Byte) : State :=
  let s := s.findHere a bs.length
  { s with
    writeRels := writeOver s.writeRels { space := 0, addr := s.devId.toNat * 2 ^ 44 + a, len := bs.length, isWrite := true }
    mem := Memory.writeN s.mem a bs
    poison := if s.poison.isEmpty then s.poison
      else if s.retiresNow a then s.poison ++ (unitsOf a bs.length).filter fun u => !s.poison.contains u
      else s.poison.filter fun u => !(a ≤ u && u + 16 ≤ a + bs.length) }

/-- Bytes stored in a scratchpad, over the carriers there (R118); its high-water mark rises with them (R333). -/
def State.writeSpad (s : State) (k : Nat) (bs : List Byte) : State :=
  { s with
    writeRels := writeOver s.writeRels { space := 1, addr := k, len := bs.length, isWrite := true }
    spad := Memory.writeN s.spad k bs
    spadHigh :=
      let top := k % 0x40000 + bs.length
      if lookup s.spadHigh 0 (k / 0x40000) < top then assign s.spadHigh (k / 0x40000) top else s.spadHigh
    spadPoison := if s.spadPoison.isEmpty then s.spadPoison
      else s.spadPoison.filter fun u => !(k ≤ u && u + 16 ≤ k + bs.length) }

/-! ### Page tables (R89 to R92) -/

/-- A page-table entry's fields (R90). -/
def pteV (e : Nat) : Bool := e % 2 == 1
def pteLeaf (e : Nat) : Bool := e / 2 % 2 == 1
def pteSys (e : Nat) : Bool := e / 4 % 2 == 1
def pteW (e : Nat) : Bool := e / 8 % 2 == 1
def pteX (e : Nat) : Bool := e / 16 % 2 == 1
def pteA (e : Nat) : Bool := e / 32 % 2 == 1
def pteD (e : Nat) : Bool := e / 64 % 2 == 1
def pteAddr (e : Nat) : Nat := e / 256 % 2 ^ 44 * 256

/-- The reserved bits of an entry are zero (R90). -/
def pteClean (e : Nat) : Bool := e / 2 ^ 52 == 0 && e / 128 % 2 == 0

/-- The index of a virtual address in a table of `lvl`, and the bytes that a leaf there maps (R89). -/
def tableIndex (va lvl : Nat) : Nat :=
  match lvl with
  | 3 => va / 2 ^ 39 % 131072
  | 2 => va / 2 ^ 30 % 512
  | 1 => va / 2 ^ 21 % 512
  | _ => va / 65536 % 32

def leafSize (lvl : Nat) : Nat :=
  match lvl with
  | 2 => 2 ^ 30
  | 1 => 2 ^ 21
  | _ => 65536

/-- A leaf found by a walk: where its entry lies, the entry, and the bytes it maps. -/
structure Leaf where
  at_ : Nat
  entry : Nat
  size : Nat
  deriving DecidableEq, Repr

/-- The walk from a table of level `lvl` at physical address `tab` (R91): where the entries read lie, and the leaf found.
Tables lie in the device's own HBM (DESIGN CHOICE, log entry 21), and the ADDR of an entry that is no leaf is used as it stands,
whatever the alignment of R89 (DESIGN CHOICE, log entry 21). -/
def State.walkFrom (s : State) (va : Nat) : Nat → Nat → List Nat × Option Leaf
  | lvl, tab =>
    match s.place (tab + 8 * tableIndex va lvl) with
    | some (.hbm a) =>
      let e := s.num a 8
      if !pteV e || !pteClean e then ([a], none)
      else if pteLeaf e then
        ([a], if lvl = 3 || pteAddr e % leafSize lvl != 0 then none else some ⟨a, e, leafSize lvl⟩)
      else match lvl with
        | 0 => ([a], none)
        | l + 1 =>
          let x := s.walkFrom va l (pteAddr e)
          (a :: x.1, x.2)
    | _ => ([], none)

/-- The walk of a virtual address in a context: the entries that it reads, and its leaf. -/
def State.walkPath (s : State) (ctx : BitVec 12) (va : Nat) : List Nat × Option Leaf :=
  match s.context? ctx with
  | some c => if c.state = 2 then ([], none) else s.walkFrom va 3 (c.root.toNat % 2 ^ 52)
  | none => ([], none)

/-- The leaf that maps a virtual address in a context (R89, R91); `none` is PAGE_FAULT. -/
def State.walk (s : State) (ctx : BitVec 12) (va : Nat) : Option Leaf := (s.walkPath ctx va).2

/-- Whether an entry forbids an access (R91). -/
def forbids (e : Nat) (n : Need) : Bool :=
  (n.write && !pteW e) || (n.fetch && !pteX e) || (pteSys e && !n.sys)

/-- The entry with A set, and D for a write (R92). -/
def marked (e : Nat) (write : Bool) : Nat := e ||| (if write then 0x60 else 0x20)

/-- The end of a translation: an address, a fault, or a walk that is due (R93). -/
inductive Tr where
  | ok (pa : Nat)
  | bad (cause : Cause)
  | miss (w : Walk)
  deriving DecidableEq, Repr

/-- The entry that a region's TLB holds for a virtual address (R93). -/
def State.tlbFind (s : State) (region : Nat) (ctx : BitVec 12) (va : Nat) : Option TlbEntry :=
  s.tlb.find? fun t => t.region == region && t.ctx == ctx && t.va ≤ va && va < t.va + t.size

/-- The entry that a die's L2 TLB holds for a virtual address (R23, R93). -/
def State.dieTlbFind (s : State) (die : Nat) (ctx : BitVec 12) (va : Nat) : Option DieTlbEntry :=
  s.dieTlb.find? fun t => t.die == die && t.ctx == ctx && t.va ≤ va && va < t.va + t.size

/-- The leaf that the TLBs hold for a unit of a region, with the address it maps: the region's, else its die's. -/
def State.tlbLeaf (s : State) (region : Nat) (ctx : BitVec 12) (va : Nat) : Option (Word64 × Nat) :=
  match s.tlbFind region ctx va with
  | some t => some (t.leaf, t.va)
  | none => (s.dieTlbFind (dieOf region) ctx va).map fun t => (t.leaf, t.va)

/-- Translation for a unit of a region (R89 to R93): by the TLBs, else by a walk that it asks for. The walk ends in an entry also where
it finds no page: the access that asked takes its fault from that (DESIGN CHOICE, log entry 64). A page not marked as the access needs is
walked again (R92). -/
def State.translate (s : State) (region : Nat) (ctx : BitVec 12) (va : Nat) (n : Need) : Tr :=
  let ask := Tr.miss ⟨dieOf region, region, ctx, BitVec.ofNat 64 va, n⟩
  match s.tlbLeaf region ctx va with
  | some (leaf, base) =>
    let e := leaf.toNat
    if !pteV e then .bad .pageFault
    else if forbids e n then .bad .access
    else if !pteA e || n.write && !pteD e then ask
    else .ok (pteAddr e + (va - base))
  | none => ask

/-- A walk has read its tables through the L2 (R93). -/
def State.readTables (s : State) (ctx : BitVec 12) (path : List Nat) : State :=
  path.foldl (fun s a => s.l2Access a 8 ctx 0 false) s

/-- A leaf marked in memory by the walker (R92): the entry is written where a bit was clear. -/
def State.mark (s : State) (ctx : BitVec 12) (l : Leaf) (e : Nat) : State :=
  if e = l.entry then s else (s.writeHbm l.at_ (Word.toBytes 8 e)).l2Access l.at_ 8 ctx 0 true

/-- The entry of a region's TLB, in the place of those for the same page. -/
def State.fillTlb (s : State) (t : TlbEntry) : State :=
  { s with tlb := (s.tlb.filter fun x => !(x.region == t.region && x.ctx == t.ctx && x.va == t.va)) ++ [t] }

/-- A walk made (R91 to R93): the region's TLB and its die's take the leaf, with A and D set in memory where the access may go on; a walk
that finds no page leaves its end with the region (DESIGN CHOICE, log entry 64). -/
def State.doWalk (s : State) (w : Walk) : State :=
  let x := s.walkPath w.ctx w.va.toNat
  let s := s.readTables w.ctx x.1
  match x.2 with
  | none => s.fillTlb { region := w.region, ctx := w.ctx, va := w.va.toNat / 65536 * 65536, size := 65536, leaf := 0 }
  | some l =>
    let e := if forbids l.entry w.need then l.entry else marked l.entry w.need.write
    let base := w.va.toNat / l.size * l.size
    let leaf := BitVec.ofNat 64 e
    let s := (s.mark w.ctx l e).fillTlb { region := w.region, ctx := w.ctx, va := base, size := l.size, leaf := leaf }
    { s with
      dieTlb := (s.dieTlb.filter fun t => !(t.die == w.die && t.ctx == w.ctx && t.va == base)) ++
        [{ die := w.die, ctx := w.ctx, va := base, size := l.size, leaf := leaf }] }

/-- Translation without a TLB, as the hub and the host windows make it: the walk is part of the access (DESIGN CHOICE, log entry 64). -/
def State.translateNow (s : State) (ctx : BitVec 12) (va : Nat) (n : Need) : Except Cause (State × Nat) :=
  let x := s.walkPath ctx va
  match x.2 with
  | none => .error .pageFault
  | some l =>
    if forbids l.entry n then .error .access
    else .ok ((s.readTables ctx x.1).mark ctx l (marked l.entry n.write), pteAddr l.entry + va % l.size)

/-- The walks in progress at a die: the first 512 asked for; the others wait (R93). -/
def State.walksAt (s : State) (die : Nat) : List Walk := (s.walksWaiting.filter fun w => w.die == die).take 512

/-- Of the walks that a die has in progress, the `k`-th is to end first: in which order they end, the spec does not say (DESIGN CHOICE, log
entry 1). -/
def State.walkFirst (s : State) (die k : Nat) : State :=
  match (s.walksAt die)[k]? with
  | some w => { s with walksWaiting := w :: s.walksWaiting.erase w }
  | none => s

/-- A walk asked for: it waits its turn (R93), once. -/
def State.askWalk (s : State) (w : Walk) : State :=
  if s.walksWaiting.contains w then s else { s with walksWaiting := s.walksWaiting ++ [w] }

/-! ### How an access ends -/

/-- The end of an access. -/
inductive Acc (α : Type) where
  | ok (s : State) (a : α)
  | bad (cause : Cause) (addr : Option Word64)
  | poison (a n : Nat)       -- of `n` bytes of HBM from `a` a unit holds poison, or an error that this access finds
  | race (older : Word64) (addr : Word64)
  | ask (s : State)          -- a walk or an answer is due: the unit waits
  deriving Repr

/-- One access after another. -/
def Acc.bind {α β : Type} (x : Acc α) (f : State → α → Acc β) : Acc β :=
  match x with
  | .ok s a => f s a
  | .bad c a => .bad c a
  | .poison a n => .poison a n
  | .race o a => .race o a
  | .ask s => .ask s

/-- The end of a conductor instruction whose access ended so (R206, R121). -/
def Acc.cond {α : Type} (x : Acc α) (f : State → α → CondRes) : CondRes :=
  match x with
  | .ok s a => f s a
  | .bad c a => .trap { cause := c, faddr := a }
  | .poison a n => .trap { cause := .poison, found := some (a, n) }
  | .race o a => .trap { cause := .race, faddr := some a, finfo := some o }
  | .ask s => .wait s

/-- Who makes an access. The remote accesses numbered `since` or more are those of the firing or instruction itself. -/
structure Actor where
  agent : Agent
  region : Nat
  ctx : BitVec 12
  sys : Bool
  party : Word64
  issuer : Issuer
  inst : Nat
  arrived : List Arrived
  since : Nat := 0
  deriving Repr

/-- Conductor `r` as an actor. -/
def State.condActor (s : State) (r : Nat) (c : Conductor) : Actor :=
  { agent := .conductor r, region := r, ctx := s.ctxOf r, sys := c.pl, party := s.condParty r,
    issuer := .conductor r, inst := c.inst.getD 0, arrived := c.arrived, since := s.nextTx }

/-- What an address leads to. -/
inductive Target where
  | glob (pa : Nat) (pl : Place)
  | spad (rank off : Nat)
  deriving DecidableEq, Repr

/-- The L1 bytes that a node configures (R19, R152). -/
def FacetUnit.l1Bytes (u : FacetUnit) : Nat :=
  match u.misc.toNat % 4 with
  | 0 => 0
  | 1 => 0x8000
  | 2 => 0x10000
  | _ => 0x20000

/-- The L1 bytes of the facet at a rank: of folded nodes the larger size (R310, condition 5); none where no facet is loaded (DESIGN
CHOICE, log entry 67). -/
def State.l1Size (s : State) (region rank : Nat) : Nat :=
  (s.facetsAt region rank).foldl (fun n u => max n u.l1Bytes) 0

/-- The scratchpad bytes of a rank: 256 KiB less the L1 of the facet there (R95). -/
def State.spadSize (s : State) (region rank : Nat) : Nat := 0x40000 - s.l1Size region rank

/-- A scratchpad address of 32 bits (R94, R95). -/
def State.spadTarget (s : State) (region a n : Nat) : Acc Target :=
  if a / 0x1000000 % 256 ≠ 0 then .bad .addressForm (some (BitVec.ofNat 64 a))
  else if a % n ≠ 0 then .bad .misalign (some (BitVec.ofNat 64 a))
  else if a % 0x40000 + n > s.spadSize region (a / 0x40000 % 64) then .bad .access (some (BitVec.ofNat 64 a))
  else .ok s (.spad (a / 0x40000 % 64) (a % 0x40000))

/-- A global virtual address (R86 to R91). -/
def State.globTarget (s : State) (x : Actor) (va : Word64) (n : Nat) (write atomic : Bool) : Acc Target :=
  if va.toNat % n ≠ 0 then .bad .misalign (some va)
  else
    match s.translate x.region x.ctx va.toNat { write := write, sys := x.sys } with
    | .bad c => .bad c (some va)
    | .miss w => .ask (s.askWalk w)
    | .ok pa =>
      match if write then s.placeToWrite pa else s.place pa with
      | none => .bad .access (some va)
      | some (.reg off) =>
        if !x.sys || atomic then .bad .access (some va) else .ok s (.glob pa (.reg off))
      | some (.host a) => if atomic then .bad .access (some va) else .ok s (.glob pa (.host a))
      | some (.cxl a) => if atomic then .bad .access (some va) else .ok s (.glob pa (.cxl a))
      | some pl => .ok s (.glob pa pl)

/-- A 64-bit address register read by its form (R85); scratchpad form is for conductors only. -/
def State.target (s : State) (x : Actor) (va : Word64) (n : Nat) (write atomic : Bool) : Acc Target :=
  match Word.field va 63 56 with
  | 0 => s.globTarget x va n write atomic
  | 1 =>
    match x.agent with
    | .conductor _ =>
      if Word.field va 55 32 ≠ 0 then .bad .addressForm (some va)
      else match s.spadTarget x.region (Word.field va 31 0) n with
        | .bad c _ => .bad c (some va)
        | y => y
    | _ => .bad .addressForm (some va)
  | _ => .bad .addressForm (some va)

/-- The address of a target as the disambiguator keeps it: space and byte. -/
def Target.key (t : Target) (region : Nat) : Nat × Nat :=
  match t with
  | .glob pa _ => (0, pa)
  | .spad rank off => (1, spadKey region rank off)

/-- Whether a remote access of `x` has been issued before and has its answer, or awaits it. -/
def State.awaited (s : State) (x : Actor) (t : Target) : Bool :=
  match t with
  | .glob _ (.remote dev a) =>
    (x.arrived.any fun y => y.addr == dev * 2 ^ 44 + a) ||
    s.txns.any fun t => t.issuer == x.issuer && t.returns && t.flit.dst.toNat == dev && t.flit.addr.toNat == a
  | _ => false

/-- An access issued to the disambiguator (R120, R121), once: a remote one that has been issued goes on with its answer, one that its
firing holds goes on, and the bytes of a slot that is being filled are not checked (R133). -/
def State.issue (s : State) (x : Actor) (t : Target) (va : Word64) (n : Nat) (write : Bool)
    (scope : Option Scope) : Acc Target :=
  let k := t.key x.region
  let y : Access := { space := k.1, addr := k.2, len := n, isWrite := write, atomicScope := scope }
  if s.awaited x t || s.issuedBefore x.region x.agent y || (k.1 == 1 && s.unchecked x.region x.agent k.2 n) then .ok s t
  else
    match s.raceWith x.region x.agent y with
    | some old =>
      .race old.party (match t with
        | .glob _ _ => va
        | .spad rank off => BitVec.ofNat 64 (rank * 0x40000 + off))
    | none =>
      if s.mustWait x.region x.agent x.since y then .ask s
      else
        let tx := match t with
          | .glob _ (.remote _ _) => some s.nextTx
          | _ => none
        .ok (s.track x.region x.agent x.ctx x.party tx y) t

/-! ### Remote accesses (R349, R350) -/

/-- Whether a port is UP or DEGRADED (R344). -/
def State.portUp (s : State) (k : PortKind) (p : Nat) : Bool := (s.port k p).state == 2 || (s.port k p).state == 3

/-- The next port of DOMRT toward `dev` that is up, from port `p` on (R349). -/
def State.domainNext (s : State) (dev p : Nat) : Option Nat :=
  let mask := lookup s.regs.domrt (0 : BitVec 32) dev
  ((List.range 32).map fun k => (p + k) % 32).find? fun q => mask.getLsbD q && s.portUp .scaleUp q

/-- Whether a transaction is a load, a store or an atomic (R349). -/
def Txn.isAccess (t : Txn) : Bool := t.flit.typ == 1 || t.flit.typ == 3 || t.flit.typ == 5

/-- Whether DOMRT lets port `p` serve device `dev`. -/
def State.serves (s : State) (dev p : Nat) : Bool := (lookup s.regs.domrt (0 : BitVec 32) dev).getLsbD p

/-- Whether an access toward `dev` is unanswered on a port that DOMRT no longer names: what follows it waits, so that no two ports
serve one destination at once (R349; DESIGN CHOICE, log entry 13). -/
def State.domainBusy (s : State) (dev : Nat) : Bool :=
  s.txns.any fun t => t.isAccess && t.flit.dst.toNat == dev && match t.port with
    | some q => !s.serves dev q
    | none => false

/-- The one port toward `dev` (R349): the port in use while it is up and in DOMRT; 5 µs after it went down, the next one; the
lowest-numbered where none is in use. An access behind one that no port has taken yet waits with it (R113). -/
def State.domainPort (s : State) (dev : Nat) : Option Nat :=
  if s.txns.any fun t => t.isAccess && t.flit.dst.toNat == dev && t.port.isNone then none
  else match s.domPath.find? fun x => x.1 == dev with
  | none => s.domainNext dev 0
  | some (_, p) =>
    if s.txns.any fun t => t.flit.dst.toNat == dev && t.quietAt.isSome then none
    else if !s.serves dev p then (if s.domainBusy dev then none else s.domainNext dev 0)
    else if s.portUp .scaleUp p then some p
    else if s.clk < (s.port .scaleUp p).downAt + 5000 then none
    else s.domainNext dev (p + 1)

/-- The device's own index in the peer table: the entry with the Ethernet address of SOCFG (R347, R382; DEDUCED, log entry 85). -/
def State.ownPeer (s : State) : Option Nat :=
  (List.range 256).find? fun n =>
    let e := lookup s.regs.sopeer 0 n
    Word.bit e 63 && Word.field e 47 0 == Word.field s.regs.socfg 63 16

/-- A frame toward a peer as it leaves now (R347). -/
def State.framed (s : State) (peer : Nat) (f : Frame) : Sent :=
  { kind := .scaleOut, port := f.port, flit := f.flit, seq := f.pseq, ack := (lookup s.peers {} peer).pack
    mac := Word.field (lookup s.regs.sopeer 0 peer) 47 0, socfg := s.regs.socfg }

/-- The flits that have left, each with its port. -/
def State.left (s : State) : List (PortKind × Nat × Flit) := s.outbox.map fun m => (m.kind, m.port, m.flit)

/-- A flit leaves by a port: on a scale-up port under the next link sequence number (R346), on a scale-out port in
a frame of its own, kept until it is acknowledged (R347). -/
def State.send (s : State) (k : PortKind) (p : Nat) (f : Flit) : State :=
  match k with
  | .scaleUp =>
    let n := ((s.port k p).txSeq + 1) % 2 ^ 32
    let m : Sent := { kind := k, port := p, flit := f, seq := n, ack := (s.port k p).rxSeq }
    { s with outbox := s.outbox ++ [m] }.modPort k p fun x => { x with txSeq := n, unacked := x.unacked ++ [m] }
  | .scaleOut =>
    let f := { f with src := BitVec.ofNat 8 (s.ownPeer.getD s.devId.toNat) }
    let y := lookup s.peers {} f.dst.toNat
    let n := (y.pseq + 1) % 2 ^ 32
    let frame : Frame := { pseq := n, port := p, sentAt := s.clk, flit := f }
    { s with
      outbox := s.outbox ++ [s.framed f.dst.toNat frame]
      peers := assign s.peers f.dst.toNat { y with pseq := n, unacked := y.unacked ++ [frame] } }

/-- A remote access sent (R349), kept until it is answered. With no port up it waits for one. ATTR of a write holds its
bytes (DESIGN CHOICE, log entry 13). -/
def State.sendRemote (s : State) (x : Actor) (dev a typ attr : Nat) (bytes : List Byte) (returns : Bool)
    (psn : BitVec 16 := 0) : State :=
  let f : Flit :=
    { typ := typ, src := s.devId, dst := BitVec.ofNat 8 dev, ctx := x.ctx, txid := BitVec.ofNat 16 s.nextTx
      addr := BitVec.ofNat 64 a, ztag := 0, attr := BitVec.ofNat 32 (attr + if typ = 3 then bytes.length else 0), psn := psn, payload := bytes }
  let port := s.domainPort dev
  let s := { s with
    nextTx := s.nextTx + 1
    txns := s.txns ++
      [{ tx := s.nextTx, issuer := x.issuer, inst := x.inst, ctx := x.ctx, flit := f, port := port
         issued := s.clk, returns := returns }] }
  match port with
  | some p => { s with domPath := assign s.domPath dev p }.send .scaleUp p f
  | none => s

/-- The answer to a remote access of `x`, with whether it carries poison, or the access sent and awaited.
`typ` is the flit's TYPE (R346) (DESIGN CHOICE, log entry 62). -/
def State.remoteRaw (s : State) (x : Actor) (va : Word64) (dev a typ attr : Nat) (bytes : List Byte) :
    Acc (List Byte × Bool) :=
  match x.arrived.find? fun y => y.addr == dev * 2 ^ 44 + a with
  | some y => if y.failed then .bad .access (some va) else .ok s (y.bytes, y.poison)
  | none =>
    if s.txns.any fun t => t.issuer == x.issuer && t.returns && t.flit.dst.toNat == dev && t.flit.addr.toNat == a
    then .ask s
    else .ask (s.sendRemote x dev a typ attr bytes true)

/-- The same where poison is a fault of the access (R285). -/
def State.remote (s : State) (x : Actor) (va : Word64) (dev a typ attr : Nat) (bytes : List Byte) :
    Acc (List Byte) :=
  (s.remoteRaw x va dev a typ attr bytes).bind fun s y => if y.2 then .bad .poison none else .ok s y.1

/-! ### Bytes at their place -/

/-- Whether a 16-byte unit of HBM that the bytes touch holds poison, or will once an access finds its error (R285, R368). -/
def State.poisoned (s : State) (a n : Nat) : Bool :=
  (s.poison.any fun u => u < a + n && a < u + 16) || s.unfound a n

/-- The same of a scratchpad. -/
def State.spadPoisoned (s : State) (k n : Nat) : Bool :=
  s.spadPoison.any fun u => u < k + n && k < u + 16

/-- The address on the host link that a place of the host window or of a CXL.mem slice stands for: the window's offset (PRESUMED, log entry
97), or HBASE × 2^37 and the slice's offset (R382). -/
def State.hostAddr (s : State) (pl : Place) : Nat :=
  match pl with
  | .host a => a - 2 ^ 40
  | .cxl a => Word.field (s.regs.cxlwin.getD ((a - 2 ^ 41) / 2 ^ 37) 0) 63 37 * 2 ^ 37 + a % 2 ^ 37
  | _ => 0

/-- `n` bytes read over the host link: what it answers is free (R87, R128; DESIGN CHOICE, log entry 7). -/
def State.hostRead (s : State) (pl : Place) (n : Nat) : State × List Byte :=
  let a := s.hostAddr pl
  ({ s with fresh := s.fresh + 1, hostReqs := s.hostReqs ++ [{ addr := a, len := n }] },
    (List.range n).map fun k => Config.hostByte s.fresh (a + k))

/-- Bytes written over the host link, under a mask where one is given. -/
def State.hostWrite (s : State) (pl : Place) (bs : List Byte) (mask : List Byte := []) (bad : Bool := false) : State :=
  { s with hostReqs := s.hostReqs ++
      [{ write := true, addr := s.hostAddr pl, len := bs.length, bytes := bs, mask := mask, poison := bad }] }

/-- `n` bytes read at a local place, with the L2 reached for HBM (R99). -/
def State.readPlace (s : State) (pl : Place) (n : Nat) (ctx : BitVec 12) (hint : Nat) (va : Word64) :
    Acc (List Byte) :=
  match pl with
  | .hbm a =>
    if s.poisoned a n then .poison a n
    else .ok (s.l2Access a n ctx hint false) (Memory.readN s.mem a n)
  | .host _ | .cxl _ =>
    let x := s.hostRead pl n
    .ok x.1 x.2
  | .reg off =>
    match s.regRead (off / 8 * 8) with
    | some w => .ok s ((Word.toBytes 8 w.toNat).drop (off % 8) |>.take n)
    | none => .bad .access (some va)
  | .remote _ _ => .bad .access (some va)

/-- A store made at its place (R99, R381, R349). -/
def State.writePlace (s : State) (x : Actor) (pl : Place) (bs : List Byte) (hint : Nat) (va : Word64) : Acc Unit :=
  match pl with
  | .hbm a => .ok ((s.writeHbm a bs).l2Access a bs.length x.ctx hint true) ()
  | .host _ | .cxl _ => .ok (s.hostWrite pl bs) ()
  | .reg off =>
    let base := off / 8 * 8
    match s.regRead base with
    | none => .bad .access (some va)
    | some w =>
      let old := Word.toBytes 8 w.toNat
      let new := old.take (off % 8) ++ bs ++ old.drop (off % 8 + bs.length)
      match s.regStore base (BitVec.ofNat 64 (Word.ofBytes new)) with
      | .done s' => .ok s' ()
      | .refused => .bad .reservedField none
      | .absent => .bad .access (some va)
  | .remote dev a => .ok (s.sendRemote x dev a 3 0 bs false) ()

/-- `s` with the requests that `z` has sent and the walks that it has asked for. -/
def State.sent (s z : State) : State :=
  { s with
    txns := z.txns, nextTx := z.nextTx, domPath := z.domPath, outbox := z.outbox, sup := z.sup
    walksWaiting := z.walksWaiting }

/-! ### An engine's accesses (R91, R111, R285) -/

/-- The same in a scratchpad. -/
def State.taintSpad (s : State) (k n : Nat) : State :=
  { s with spadPoison := s.spadPoison ++ (unitsOf k n).filter fun u => !s.spadPoison.contains u }

/-- An engine that acts in region `r` for an instance, at graph level (DEDUCED, log entry 44). -/
def engineActor (r inst : Nat) (ctx : BitVec 12) (issuer : Issuer) (arrived : List Arrived) : Actor :=
  { agent := .engine inst 0, region := r, ctx := ctx, sys := false, party := 0, issuer := issuer, inst := inst
    arrived := arrived }

/-- The place of an engine's address; the device register space is none of its (R87). -/
def State.engineTarget (s : State) (x : Actor) (va : Nat) (write : Bool) : Acc Place :=
  let w := BitVec.ofNat 64 va
  if Word.field w 63 56 ≠ 0 then .bad .addressForm (some w)
  else
    match s.translate x.region x.ctx w.toNat { write := write } with
    | .bad c => .bad c (some w)
    | .miss k => .ask (s.askWalk k)
    | .ok pa =>
      match if write then s.placeToWrite pa else s.place pa with
      | none => .bad .access (some w)
      | some (.reg _) => .bad .access (some w)
      | some pl => .ok s pl

/-- `n` bytes of one 16-byte unit read by an engine: poison comes with them (R285). -/
def State.engineRead (s : State) (x : Actor) (va n hint : Nat) : Acc (List (Byte × Bool)) :=
  (s.engineTarget x va false).bind fun s pl =>
    match pl with
    | .hbm a =>
      let p := s.poisoned a n
      .ok (s.l2Access a n x.ctx hint false) ((Memory.readN s.mem a n).map fun b => (b, p))
    | .remote dev a =>
      (s.remoteRaw x (BitVec.ofNat 64 va) dev a 1 n []).bind fun s y => .ok s (y.1.map fun b => (b, y.2))
    | pl => (s.readPlace pl n x.ctx hint (BitVec.ofNat 64 va)).bind fun s bs => .ok s (bs.map fun b => (b, false))

/-- What an engine has read of a run of bytes: all of it, or what came before a fault, or nothing yet. -/
inductive Gather where
  | all (s : State) (bs : List (Byte × Bool))
  | stopped (s : State) (bs : List (Byte × Bool)) (cause : Cause) (addr : Word64)
  | ask (s : State)
  deriving Repr

/-- How a run of units ended: whole, at a fault, or at an answer that is due. -/
abbrev Halt := Option (Option (Cause × Word64))

/-- `n` bytes from `va`, unit by unit, after the bytes `acc`; `fuel` bounds the units. A unit that `us` holds has been read
already: each aligned unit is read once, and whole (R112). -/
def State.collect (s : State) (x : Actor) (hint : Nat) :
    Nat → Nat → Nat → List Unit16 → List (Byte × Bool) → State × List Unit16 × List (Byte × Bool) × Halt
  | 0, _, _, us, acc => (s, us, acc, none)
  | fuel + 1, va, n, us, acc =>
    if n = 0 then (s, us, acc, none)
    else
      let u := va / 16 * 16
      let k := min n (16 - va % 16)
      let on := fun (s : State) (us : List Unit16) (bs : List (Byte × Bool)) =>
        s.collect x hint fuel (va + k) (n - k) us (acc ++ (bs.drop (va % 16)).take k)
      match us.find? fun y => y.addr == u with
      | some y => on s us y.bytes
      | none =>
        match s.engineRead x u 16 hint with
        | .ok s bs => on s (us ++ [⟨u, bs⟩]) bs
        | .bad c _ => (s, us, acc, some (some (c, BitVec.ofNat 64 va)))
        | .poison _ _ => (s, us, acc, some (some (.poison, BitVec.ofNat 64 va)))
        | .race _ a => (s, us, acc, some (some (.race, a)))
        | .ask s => (s, us, acc, some none)

/-- `n` bytes from `va`, with nothing read before. -/
def State.gather (s : State) (x : Actor) (hint fuel va n : Nat) : Gather :=
  match s.collect x hint fuel va n [] [] with
  | (s, _, bs, none) => .all s bs
  | (s, _, bs, some (some (c, a))) => .stopped s bs c a
  | (s, _, _, some none) => .ask s

/-! ### Bytes that an engine writes, unit by unit (R109, R112) -/

/-- Pieces of one byte that follow each other joined into one. -/
def joinPieces : List Piece → List Piece
  | [] => []
  | p :: ps =>
    match joinPieces ps with
    | q :: qs => if p.addr = q.addr then ⟨p.addr, p.mask ||| q.mask, p.byte ||| q.byte, p.bad || q.bad⟩ :: qs else p :: q :: qs
    | [] => [p]

/-- Pieces cut into runs that lie in one unit each. -/
def unitRuns : List Piece → List (List Piece)
  | [] => []
  | p :: ps =>
    match unitRuns ps with
    | (q :: r) :: rs => if p.addr / 16 = q.addr / 16 then (p :: q :: r) :: rs else [p] :: (q :: r) :: rs
    | rs => [p] :: rs

/-- Pieces cut into runs of whole bytes that follow each other, and single bytes of which only bits are written. -/
def byteRuns : List Piece → List (List Piece)
  | [] => []
  | p :: ps =>
    match byteRuns ps with
    | (q :: r) :: rs =>
      if p.mask = 0xFF ∧ q.mask = 0xFF ∧ p.addr + 1 = q.addr then (p :: q :: r) :: rs else [p] :: (q :: r) :: rs
    | rs => [p] :: rs

/-- A byte with the bits of a piece written. -/
def Piece.onto (p : Piece) (old : Byte) : Byte := (old &&& ~~~p.mask) ||| (p.byte &&& p.mask)

/-- The byte or the mask of the piece at byte `a`, 0 where there is none. -/
def pieceAt (ps : List Piece) (f : Piece → Byte) (a : Nat) : Byte := ((ps.find? fun q => q.addr == a).map f).getD 0

/-- The pieces of one unit written in one step (R112): in HBM together, and to another device's memory or the host link by one write, masked
where it leaves a bit as it is (R109; DESIGN CHOICE, log entry 13). -/
def State.engineMerge (s : State) (x : Actor) (ps : List Piece) (hint : Nat) : Acc Unit :=
  match ps with
  | [] => .ok s ()
  | p :: _ =>
    (s.engineTarget x p.addr true).bind fun s pl =>
      match pl with
      | .hbm a =>
        let at_ := fun (q : Piece) => a + q.addr - p.addr
        let s := (byteRuns ps).foldl (fun (s : State) run =>
          match run with
          | [] => s
          | q :: _ =>
            let s := s.writeHbm (at_ q) (run.map fun y => y.onto (Memory.read s.mem (at_ y)))
            if run.any Piece.bad then s.poisonHbm (at_ q) run.length x.ctx else s) s
        .ok (s.l2Access a ps.length x.ctx hint true) ()
      | .reg _ => .ok s ()
      | pl =>
        let at_ := (List.range (ps.foldl (fun n q => max n (q.addr + 1 - p.addr)) 0)).map fun k => p.addr + k
        let bs := at_.map (pieceAt ps Piece.byte)
        let mask := at_.map (pieceAt ps Piece.mask)
        let whole := mask.all fun m => m == 0xFF
        let bad := ps.any Piece.bad
        match pl with
        | .remote dev a =>
          let psn : BitVec 16 := if bad then 1 else 0
          .ok (if whole then s.sendRemote x dev a 3 0 bs false psn else s.sendRemote x dev a 3 0x10000 (bs ++ mask) false psn) ()
        | pl => .ok (s.hostWrite pl bs (if whole then [] else mask) bad) ()

/-- The pieces of a run of units written, up to a fault. -/
def State.writeRuns (s : State) (x : Actor) (hint : Nat) : List (List Piece) → State × Halt
  | [] => (s, none)
  | r :: rs =>
    match s.engineMerge x r hint with
    | .ok s _ => s.writeRuns x hint rs
    | .bad c a => (s, some (some (c, a.getD 0)))
    | .poison _ _ => (s, some (some (.poison, 0)))
    | .race _ a => (s, some (some (.race, a)))
    | .ask s => (s, some none)

/-! ### The conductor's accesses (R97, R217, R218) -/

/-- A copy taken into a cache that holds `cap` lines (R19, R22): a full one loses the copy it has held longest (DESIGN CHOICE, log
entry 6). -/
def fillCopy {α : Type} (l : List α) (cap : Nat) (x : α) : List α := (l ++ [x]).drop (l.length + 1 - cap)

/-- The lines of a conductor's data cache, and of its instruction cache: 32 KiB each (R22). -/
def condLines : Nat := 256

/-- The copy of the 128-byte line of HBM that holds byte `a`, with the carriers among its writes (R118). -/
def State.lineAt (s : State) (pa a : Nat) : CacheLine :=
  let base := a / 128 * 128
  { addr := base, bytes := Memory.readN s.mem base 128, rels := carriersAt s.writeRels 0 (pa - a % 128) 128 }

/-- The bytes of a copy that a load returns. -/
def CacheLine.read (l : CacheLine) (a n : Nat) : List Byte := l.bytes.drop (a % 128) |>.take n

/-- A load that hits a copy observes the carriers among the writes that it returns (R118). -/
def State.observeCopy (s : State) (a : Agent) (l : CacheLine) (pa n : Nat) : State :=
  s.observe a ((carriersAt l.rels 0 pa n).flatMap WriteRel.rels)

/-- A load through the conductor's L1: a hit returns the copy, a miss fills the line (R97). -/
def State.condLoad (s : State) (r : Nat) (c : Conductor) (va : Word64) (n : Nat) : Acc (List Byte) :=
  let x := s.condActor r c
  (s.target x va n false false).bind fun s t =>
  (s.issue x t va n false none).bind fun s t =>
  let k := t.key r
  let y : Access := { space := k.1, addr := k.2, len := n, isWrite := false }
  match t with
  | .spad rank off =>
    let k := spadKey r rank off
    if s.spadPoisoned k n then .bad .poison none else .ok (s.observeAt x.agent y) (Memory.readN s.spad k n)
  | .glob pa (.hbm a) =>
    match c.l1.find? fun l => l.addr == a / 128 * 128 with
    | some l => .ok (s.observeCopy x.agent l pa n) (l.read a n)
    | none =>
      ((s.observeAt x.agent y).readPlace (.hbm a) n x.ctx 0 va).bind fun s bs =>
        if s.poisoned (a / 128 * 128) 128 then .ok s bs
        else .ok (s.modCond r fun d => { d with l1 := fillCopy d.l1 condLines (s.lineAt pa a) }) bs
  | .glob _ (.remote dev a) => (s.remote x va dev a 1 n []).bind fun s bs => .ok (s.observeAt x.agent y) bs
  | .glob _ pl => (s.observeAt x.agent y).readPlace pl n x.ctx 0 va

/-- A copy of a line with a store's bytes in it; those written hide the carriers under them (R118). -/
def CacheLine.patch (l : CacheLine) (pa a : Nat) (bs : List Byte) : CacheLine :=
  if l.addr = a / 128 * 128 then
    { l with
      bytes := l.bytes.take (a % 128) ++ bs ++ l.bytes.drop (a % 128 + bs.length)
      rels := writeOver l.rels { space := 0, addr := pa, len := bs.length, isWrite := true } }
  else l

/-- A store: it writes through, and a line held is updated (R97). -/
def State.condStore (s : State) (r : Nat) (c : Conductor) (va : Word64) (bs : List Byte) : Acc Unit :=
  let x := s.condActor r c
  (s.target x va bs.length true false).bind fun s t =>
  (s.issue x t va bs.length true none).bind fun s t =>
  let k := t.key r
  let carried := fun (s : State) => s.carry x.agent { space := k.1, addr := k.2, len := bs.length, isWrite := true }
  match t with
  | .spad rank off => .ok (carried (s.writeSpad (spadKey r rank off) bs)) ()
  | .glob pa pl =>
    (s.writePlace x pl bs 0 va).bind fun s _ =>
      let s := carried s
      match pl with
      | .hbm a => .ok (s.modCond r fun d => { d with l1 := d.l1.map fun l => l.patch pa a bs }) ()
      | _ => .ok s ()

/-! ### Atomics at their home (R131) -/

/-- An atomic's operation on the old value: the new value, or none where a compare fails. -/
abbrev AtomicOp := Nat → Option Nat

/-- An atomic of `n` bytes by `x` (R131, R219, R295): the old value, the new one stored. `code` is its flit's
ATTR (R346), and `operands` the flit's payload. FADD is refused in a scratchpad. -/
def State.atomic (s : State) (x : Actor) (tgt : State → Acc Target) (va : Word64) (n : Nat) (scope : Scope)
    (op : AtomicOp) (code : Nat) (operands : List Byte) (onSpad : Bool) (hint : Nat := 0) : Acc Nat :=
  (tgt s).bind fun s t =>
  (s.issue x t va n true (some scope)).bind fun s t =>
  let k := t.key x.region
  let y : Access := { space := k.1, addr := k.2, len := n, isWrite := true, atomicScope := some scope }
  -- the old value is observed; a write made carries the release points of its agent
  let seen := fun (s : State) => s.observeAt x.agent y
  match t with
  | .spad rank off =>
    let k := spadKey x.region rank off
    let old := Word.ofBytes (Memory.readN s.spad k n)
    if !onSpad then .bad .access (some va)
    else if s.spadPoisoned k n then .bad .poison none
    else match op old with
      | some v => .ok (((seen s).writeSpad k (Word.toBytes n v)).carry x.agent y) old
      | none => .ok (seen s) old
  | .glob _ (.hbm a) =>
    let old := s.num a n
    if s.poisoned a n then .poison a n
    else match op old with
      | some v => .ok ((((seen s).writeHbm a (Word.toBytes n v)).carry x.agent y).l2Access a n x.ctx hint true) old
      | none => .ok ((seen s).l2Access a n x.ctx (if hint = 3 then 1 else hint) false) old
  | .glob _ (.remote dev a) =>
    (s.remote x va dev a 5 code operands).bind fun s bs =>
      let old := Word.ofBytes (bs.take n)
      .ok (match op old with
        | some _ => (seen s).carry x.agent y
        | none => seen s) old
  | .glob _ _ => .bad .access (some va)

end Sys2Proof.Machine
end

