-- ==== Sys2Proof/Machine/Tokens.lean ====
section
/-!
DEFINITION. Tokens and arcs: the side band (R41), where an arc takes its tokens from and where it puts them
(R34, R40, R154, R308, R309, R400), version modes (R52), spill rings (R54, R56) and the conductor's ports
(R227).
-/
namespace Sys2Proof.Machine

/-! ### The side band (R41) -/

/-- KIND: 0 DATA, 1 NULL, 2 END, 3 SWITCH. -/
def Token.kind (t : Token) : Nat := Word.field t.side 1 0

/-- TAG. -/
def Token.tag (t : Token) : BitVec 2 := t.side.extractLsb' 2 2

/-- PSN. -/
def Token.psn (t : Token) : Bool := t.side.getLsbD 4

/-- SEQ. -/
def Token.seq (t : Token) : BitVec 16 := t.side.extractLsb' 16 16

/-- VER. -/
def Token.ver (t : Token) : BitVec 32 := t.side.extractLsb' 32 32

/-- A side band built from its fields. -/
def sideOf (ver : BitVec 32) (seq : BitVec 16) (psn : Bool) (tag : BitVec 2) (kind : Nat) : Word64 :=
  pack [(32, ver.toNat), (16, seq.toNat), (4, psn.toNat), (2, tag.toNat), (0, kind)]

/-- An END with SEQ 0, TAG 0 and VER 0 (R43, R179, R245). -/
def endToken : Token := { payload := 0, side := 2 }

/-- The END of several producers as one: it carries what each of them carries (R118, R119). -/
def endOfAll (ts : List Token) : Token :=
  ts.foldl (fun (e : Token) t => { e with rels := e.rels ++ t.rels.filter fun r => !e.rels.contains r, vc := VClock.join e.vc t.vc }) endToken

/-- A SWITCH token (R312). -/
def switchToken : Token := { payload := 0, side := 3 }

/-! ### Arc words (R154) -/

/-- The fields of an arc entry. -/
def ArcSt.cc (a : ArcSt) : Bool := a.word.getLsbD 52
def ArcSt.spcap (a : ArcSt) : Nat := Word.field a.word 51 36 + 1
def ArcSt.pc (a : ArcSt) : Bool := a.word.getLsbD 35
def ArcSt.vs (a : ArcSt) : Bool := a.word.getLsbD 34
def ArcSt.sp (a : ArcSt) : Bool := a.word.getLsbD 33
def ArcSt.mo (a : ArcSt) : Bool := a.word.getLsbD 32
def ArcSt.cport (a : ArcSt) : Nat := if a.cc then 0 else Word.field a.word 31 28
def ArcSt.cnode (a : ArcSt) : Nat := Word.field a.word 27 16
def ArcSt.pport (a : ArcSt) : Nat := if a.pc then 0 else Word.field a.word 15 12
def ArcSt.pnode (a : ArcSt) : Nat := Word.field a.word 11 0

/-- The arcs that leave one producer end, in arc order. -/
def State.arcsFrom (s : State) (inst : Nat) (pc : Bool) (node port : Nat) : List ArcSt :=
  s.arcs.filter fun a => a.inst == inst && a.pc == pc && a.pnode == node && a.pport == port

/-- The arc that enters one consumer end. -/
def State.arcInto (s : State) (inst : Nat) (cc : Bool) (node port : Nat) : Option ArcSt :=
  s.arcs.find? fun a => a.inst == inst && a.cc == cc && a.cnode == node && a.cport == port

/-- The mask that names every consumer of a producer end (R40, R153). -/
def State.fullMask (s : State) (inst : Nat) (pc : Bool) (node port : Nat) : BitVec 4 :=
  BitVec.ofNat 4 (2 ^ (s.arcsFrom inst pc node port).length - 1)

/-- The bit of an arc in its producer's masks. -/
def State.arcBit (s : State) (a : ArcSt) : Nat :=
  (s.arcsFrom a.inst a.pc a.pnode a.pport).findIdx fun b => b.idx == a.idx

/-- The lead conductor's region: placement index 0 (R210). -/
def State.leadRegion (s : State) (inst : Nat) : Option Nat :=
  (List.range s.conds.length).find? fun r =>
    match s.cond? r with
    | some c => c.inst == some inst && c.plidx == 0
    | none => false

/-! ### Where an arc takes its tokens -/

/-- A token buffer. -/
inductive Spot where
  | facetOut (inst node clone pos o : Nat)
  | facetCtl (inst node clone pos k : Nat)
  | island (r isl port : Nat)
  | engine (inst node : Nat)
  | cond (r port : Nat)
  | merge (inst arc : Nat)
  deriving DecidableEq, Repr

/-- The entries of a token buffer. -/
def State.entries (s : State) : Spot → List OutEntry
  | .facetOut i n c p o => match s.facet? i n c p with
    | some u => u.outs.getD o []
    | none => []
  | .facetCtl i n c p k => match s.facet? i n c p with
    | some u => u.couts.getD k []
    | none => []
  | .island r isl port => match s.island? r isl with
    | some u => u.outs.getD port []
    | none => []
  | .engine i n => match s.engine? i n with
    | some e => e.outs
    | none => []
  | .cond r port => match s.cond? r with
    | some c => match c.pports.find? fun p => p.port == port with
      | some p => p.entries
      | none => []
    | none => []
  | .merge i arc => match s.merges.find? fun m => m.inst == i && m.arc == arc with
    | some m => m.outq
    | none => []

/-- `s` with the entries of a token buffer changed by `f`. -/
def State.modEntries (s : State) (sp : Spot) (f : List OutEntry → List OutEntry) : State :=
  match sp with
  | .facetOut i n c p o => s.modFacet i n c p fun u => { u with outs := u.outs.modify o f }
  | .facetCtl i n c p k => s.modFacet i n c p fun u => { u with couts := u.couts.modify k f }
  | .island r isl port => s.modIsland r isl fun u => { u with outs := u.outs.modify port f }
  | .engine i n => s.modEngine i n fun e => { e with outs := f e.outs }
  | .cond r port => s.modCond r fun c =>
    { c with pports := c.pports.map fun p => if p.port = port then { p with entries := f p.entries } else p }
  | .merge i arc =>
    { s with merges := s.merges.map fun m => if m.inst = i ∧ m.arc = arc then { m with outq := f m.outq } else m }

/-- A token placed in a buffer, for every consumer (R40). -/
def State.emit (s : State) (sp : Spot) (mask : BitVec 4) (t : Token) : State :=
  s.modEntries sp fun es => es ++ [⟨t, mask⟩]

/-- Whether an entry waits for the consumer with bit `k`. -/
def OutEntry.awaits (e : OutEntry) (k : Nat) : Bool := e.mask.getLsbD k

/-- The splitter of a node. -/
def State.splitter (s : State) (inst node : Nat) : Splitter :=
  (s.splitters.find? fun x => x.inst == inst && x.node == node).getD { inst := inst, node := node }

/-- The buffer of an output of a clone: data outputs 0 to 3, control outputs 4 and 5. -/
def outSpot (inst node clone port : Nat) : Spot :=
  if port < 4 then .facetOut inst node clone 0 port else .facetCtl inst node clone 0 (port - 4)

/-- Whether the unit that a buffer belongs to gives no token: a facet or an island in containment (R364, R367). -/
def State.spotHeld (s : State) : Spot → Bool
  | .facetOut i n c p _ => ((s.facet? i n c p).map FacetUnit.contain).getD false
  | .facetCtl i n c p _ => ((s.facet? i n c p).map FacetUnit.contain).getD false
  | .island r isl _ => ((s.island? r isl).map IslandUnit.contain).getD false
  | _ => false

/-- The oldest token of a buffer that awaits bit `k`. -/
def State.oldest (s : State) (sp : Spot) (k : Nat) : Option Token :=
  if s.spotHeld sp then none else ((s.entries sp).find? fun e => e.awaits k).map OutEntry.tok

/-- How many tokens a merge holds: those out of their order, and those that its arc is to take (R309). -/
def Merge.count (m : Merge) : Nat := m.held.length + (m.outq.filter fun e => e.mask != 0).length

/-- The clone whose token passes a full merge: the one that owes the next deal number (R309). -/
def State.passesMerge (s : State) (m : Merge) (bit : Nat) : Option Spot :=
  if m.count < 16 || m.outq.any (fun e => e.mask != 0) then none
  else
    match (s.splitter m.inst m.node).order[m.next]? with
    | none => none
    | some c =>
      let sp := outSpot m.inst m.node c m.port
      match s.oldest sp bit with
      | some t => if t.deal == m.next && t.kind < 2 then some sp else none
      | none => none

/-- The buffer that holds the next token of an arc. A chain's members give their tokens in turn (R400), and
its END comes from the leader when no member holds an earlier token; a clone set's tokens come from the arc's
reorder merge, or past it where it is full (R308, R309). -/
def State.sourceSpot (s : State) (a : ArcSt) : Option Spot :=
  if a.pc then (s.leadRegion a.inst).map fun r => .cond r a.pnode
  else match s.merges.find? fun m => m.inst == a.inst && m.arc == a.idx with
  | some m => some ((s.passesMerge m (s.arcBit a)).getD (.merge a.inst a.idx))
  | none =>
    match s.facet? a.inst a.pnode 0 0 with
    | some u =>
      let at_ := fun p : Nat => if a.pport < 4 then Spot.facetOut a.inst a.pnode 0 p a.pport
        else Spot.facetCtl a.inst a.pnode 0 p (a.pport - 4)
      let own := at_ (a.taken % max u.chain 1)
      let bit := s.arcBit a
      let ready := fun sp => (s.entries sp).any fun e => e.awaits bit
      let onlyEnd := (List.range u.chain).all fun p =>
        (s.entries (at_ p)).all fun e => !e.awaits bit || e.tok.kind == 2
      some (if !ready own && onlyEnd then at_ 0 else own)
    | none =>
      match s.islands.find? fun x => x.inst == a.inst && x.node == a.pnode with
      | some x => some (.island x.region x.isl a.pport)
      | none => if (s.engine? a.inst a.pnode).isSome then some (.engine a.inst a.pnode) else none

/-- Whether the SWITCH of a wavefront comes next on an arc: it stands behind the tokens its producer had emitted
(R312). -/
def ArcSt.switchNext (a : ArcSt) : Bool := a.switchAt == some a.taken

/-- The next token of an arc: SWITCH where it comes next, else the oldest whose bit for the arc is set. -/
def State.headOf (s : State) (a : ArcSt) : Option Token :=
  if a.switchNext then some switchToken
  else (s.sourceSpot a).bind fun sp => s.oldest sp (s.arcBit a)

/-- The first entry that awaits bit `k`, with the bit cleared. -/
def clearBit (k : Nat) : List OutEntry → List OutEntry
  | [] => []
  | e :: es => if e.awaits k then { e with mask := e.mask &&& ~~~(1#4 <<< k) } :: es else e :: clearBit k es

/-- The arc's consumer accepts the next token: its bit is cleared (R40). -/
def State.takeHead (s : State) (a : ArcSt) : State :=
  if a.switchNext then s.modArc a.inst a.idx fun x => { x with switchAt := none }
  else match s.sourceSpot a with
    | none => s
    | some sp =>
      (s.modEntries sp (clearBit (s.arcBit a))).modArc a.inst a.idx fun x => { x with taken := x.taken + 1 }

/-! ### Where an arc puts them -/

/-- A token as its consumer receives it: only a memory-ordering arc carries the order of R119. What happens before a drain
comes with its version token on every arc (R130). -/
def ArcSt.arrive (a : ArcSt) (t : Token) : Token := if a.mo then t else { t with vc := {} }

/-- The version mode of an input channel (R52, R152). -/
def FacetUnit.mode (u : FacetUnit) (i : Nat) : Nat := u.vmode.toNat / 4 ^ i % 4

/-- Whether the version mode discards a token on arrival (R52): VER 0 passes in every mode. -/
def FacetUnit.discards (u : FacetUnit) (i : Nat) (t : Token) : Bool :=
  t.ver != 0 &&
  match u.mode i with
  | 1 => (u.firstMem.getD i []).contains t.seq
  | 2 => !t.ver.getLsbD 5
  | _ => false

/-- The channel remembers the SEQ of a versioned token it accepts (R52). -/
def FacetUnit.remember (u : FacetUnit) (i : Nat) (t : Token) : FacetUnit :=
  if t.ver != 0 then
    { u with firstMem := u.firstMem.modify i fun l =>
        let l' := l ++ [t.seq]
        l'.drop (l'.length - 16) }
  else u

/-- A token put in input `port` at `clk` (data 0 to 3, control 4 and 5), counted among the arrivals of that clk (R204). -/
def FacetUnit.receive (u : FacetUnit) (clk port : Nat) (t : Token) : FacetUnit :=
  { u with
    ins := if port < 4 then u.ins.modify port fun l => l ++ [t] else u.ins
    cins := if port < 4 then u.cins else u.cins.modify (port - 4) fun l => l ++ [t]
    inClk := u.inClk.modify port fun x => (clk, if x.1 = clk then x.2 + 1 else 1) }

/-- How a consumer end takes a token. -/
inductive Took where
  | full                 -- no room: the token stays
  | took (s : State)

/-- A token to input `port` (data 0 to 3, control 4 and 5) of a facet. A finished node accepts and discards
(R43, R179); one in containment accepts none (R364). -/
def State.toFacet (s : State) (u : FacetUnit) (port : Nat) (t : Token) (fromRing : Bool) : Took :=
  if u.contain then .full
  else if u.finished || u.halted then .took s
  else if port < 4 then
    if !fromRing && u.discards port t then .took s
    else if (u.ins.getD port []).length ≥ 4 then .full
    else .took (s.modFacet u.inst u.node u.clone u.pos fun v =>
      (if fromRing then v else v.remember port t).receive s.clk port t)
  else if (u.cins.getD (port - 4) []).length ≥ 4 then .full
  else .took (s.modFacet u.inst u.node u.clone u.pos fun v => v.receive s.clk port t)

/-- A token to every facet of a list, all of them or none. -/
def State.toFacets (s : State) (us : List FacetUnit) (port : Nat) (t : Token) (fromRing : Bool) : Took :=
  match us with
  | [] => .took s
  | u :: rest =>
    match s.toFacet u port t fromRing with
    | .full => .full
    | .took s' => s'.toFacets rest port t fromRing

/-- A token to one clone of a facet node: DATA and NULL go to the members in turn, END and SWITCH to each
(R400). `n` counts the arc's tokens dealt before. -/
def State.toClone (s : State) (inst node clone port n : Nat) (t : Token) (fromRing : Bool) : Took :=
  match s.facet? inst node clone 0 with
  | none => .full
  | some u =>
    if t.kind < 2 then
      match s.facet? inst node clone (n % max u.chain 1) with
      | some m => s.toFacet m port t fromRing
      | none => .full
    else s.toFacets (s.chainOf u) port t fromRing

/-- A token to a consumer port of a conductor (R227): a halted one discards it (R245); SWITCH is removed. -/
def State.toCond (s : State) (r port : Nat) (t : Token) : Took :=
  match s.cond? r with
  | none => .full
  | some c =>
    if c.halted || t.kind == 3 then .took s
    else
      match c.cports.find? fun p => p.port == port with
      | none => .full
      | some p =>
        if p.toks.length ≥ 4 then .full
        else .took ((s.modCond r fun c =>
          { c with cports := c.cports.map fun q => if q.port = port then { q with toks := q.toks ++ [t] } else q }).wake r)

/-- A token to a port of an island (R249); one in containment accepts none (R367). -/
def State.toIsland (s : State) (u : IslandUnit) (port : Nat) (t : Token) : Took :=
  if u.contain then .full
  else if u.finished then .took s
  else if (u.ins.getD port []).length ≥ 4 then .full
  else .took (s.modIsland u.region u.isl fun v => { v with ins := v.ins.modify port fun l => l ++ [t] })

/-- A token to port 0 of a streamer or chord engine node (R43, R291). -/
def State.toEngine (s : State) (e : EngineNode) (t : Token) : Took :=
  if e.finished then .took s
  else if e.ins.length ≥ 4 then .full
  else .took (s.modEngine e.inst e.node fun v => { v with ins := v.ins ++ [t] })

/-- A token to the consumer end of an arc, `clone` naming the clone of a facet node and `n` its deal. -/
def State.toEnd (s : State) (inst : Nat) (cc : Bool) (node port clone n : Nat) (t : Token) (fromRing : Bool) :
    Took :=
  if cc then
    match s.leadRegion inst with
    | some r => s.toCond r node t
    | none => .full
  else if (s.facet? inst node clone 0).isSome then s.toClone inst node clone port n t fromRing
  else
    match s.islands.find? fun x => x.inst == inst && x.node == node with
    | some x => s.toIsland x port t
    | none =>
      match s.engine? inst node with
      | some e => s.toEngine e t
      | none => .full

/-- Whether the consumer end of an arc is a cloned node, served by splitters (R308). -/
def State.clonedConsumer (s : State) (a : ArcSt) : Bool := !a.cc && (s.clonesOf a.inst a.cnode).length > 1

/-- The arc's counter counts a token its consumer accepts (R303); SWITCH is none of the graph's tokens. -/
def State.counted (s : State) (a : ArcSt) (t : Token) : State :=
  if t.kind = 3 then s
  else s.modArc a.inst a.idx fun x => { x with live := x.live + 1, accepted := x.accepted + 1 }

/-- Whether an arc's consumer is a node that the wavefront in flight changes (R312). -/
def State.entersWave (s : State) (a : ArcSt) : Bool :=
  !a.cc && match s.inst? a.inst with
    | some i => match i.ctl.wave with
      | some w => w.affected.contains a.cnode
      | none => false
    | none => false

/-! ### Spill rings (R54, R56) -/

/-- The virtual address of entry `n` of an arc's ring. -/
def ArcSt.ringVa (a : ArcSt) (base : Word64) (n : Nat) : Nat :=
  base.toNat + a.ringBase + 32 * ((a.ringHead + n) % a.spcap)

/-- The bytes of a token in a ring (R54). -/
def Token.bytes (t : Token) : List Byte :=
  Word.toBytes 16 t.payload.toNat ++ Word.toBytes 8 t.side.toNat ++ Word.toBytes 8 0

/-- D is set again in the entry of a pinned page that is written, while the entry still leads there (R92, R377). -/
def State.dirtyHeld (s : State) (ctx : BitVec 12) (va pa : Nat) : State :=
  let x := s.walkPath ctx va
  match x.2 with
  | some l =>
    if pteD l.entry || pteAddr l.entry + va % l.size != pa then s else (s.readTables ctx x.1).mark ctx l (marked l.entry true)
  | none => s

/-- Translation as the device makes it for its own accesses: one of the pages `pins`, which it has pinned for this use, by the translation
held (R55, R321), another page by a walk. -/
def State.translateHeld (s : State) (pins : List HeldPage) (ctx : BitVec 12) (va : Nat) (n : Need) : Except Cause (State × Nat) :=
  match pins.find? fun p => p.ctx == ctx && p.va ≤ va && va < p.va + p.size with
  | some p =>
    let pa := p.pa + (va - p.va)
    .ok (if n.write then s.dirtyHeld ctx va pa else s, pa)
  | none => s.translateNow ctx va n

/-- Pages of a context pinned, of 64 KiB from `va` on (R55): their translations, or `none` where one is not mapped and writable, or
leads to no memory (DEDUCED, log entry 68), or, with `hbm`, to no home in this device's HBM (R321). -/
def State.pinPages (s : State) (ctx : BitVec 12) (hbm : Bool) (va : Nat) : Nat → Option (State × List HeldPage)
  | 0 => some (s, [])
  | n + 1 =>
    match s.translateNow ctx va { write := true, sys := true } with
    | .error _ => none
    | .ok (s, pa) =>
      let fit := match s.place pa with
        | some (.hbm _) => true
        | some (.reg _) => false
        | some _ => !hbm
        | none => false
      if fit then
        (s.pinPages ctx hbm (va + 65536) n).map fun x =>
          (x.1, { ctx := ctx, va := va, size := 65536, pa := pa } :: x.2)
      else none

/-- The 64 KiB pages that `n` bytes from `va` touch, from the first one's address on: that address and their number. -/
def pageRun (va n : Nat) : Nat × Nat := (va / 65536 * 65536, if n = 0 then 0 else (va + n - 1) / 65536 - va / 65536 + 1)

/-- The poison marks of the 16-byte units of a payload of `n` bytes, every one of them marked (R346). -/
def allMarked (n : Nat) : BitVec 16 := BitVec.ofNat 16 (2 ^ ((n + 15) / 16) - 1)

/-- Bytes stored at a virtual address of a context, through the L2 (R56), poisoned where `bad` (R285). The device's own accesses are of
system level (DESIGN CHOICE, log entry 84). -/
def State.storeVa (s : State) (ctx : BitVec 12) (va : Nat) (bs : List Byte) (bad : Bool := false) (pins : List HeldPage := []) :
    Except Cause State :=
  match s.translateHeld pins ctx va { write := true, sys := true } with
  | .error c => .error c
  | .ok (s, pa) =>
    match s.placeToWrite pa with
    | some (.hbm a) =>
      let s := (s.writeHbm a bs).l2Access a bs.length ctx 0 true
      .ok (if bad then s.poisonHbm a bs.length ctx else s)
    | some (.remote dev a) => .ok (s.sendRemote (engineActor 0 0 ctx .hub []) dev a 3 0 bs false (if bad then allMarked bs.length else 0))
    | some (.reg _) => .error .access
    | some pl => .ok (s.hostWrite pl bs [] bad)
    | none => .error .access

/-- The place that the hub reads for `x`, at system level (DESIGN CHOICE, log entry 84). -/
def State.hubPlace (s : State) (x : Actor) (va : Nat) (pins : List HeldPage) : Acc Place :=
  match s.translateHeld pins x.ctx va { sys := true } with
  | .error c => .bad c (some (BitVec.ofNat 64 va))
  | .ok (s, pa) => match s.place pa with
    | some (.reg _) => .bad .access (some (BitVec.ofNat 64 va))
    | some pl => .ok s pl
    | none => .bad .access (some (BitVec.ofNat 64 va))

/-- Bytes that the hub reads at a virtual address of the context of `x`, with whether they hold poison: from HBM, over the host link, or from
another device by a request that `x` awaits (R86, R285). -/
def State.loadFor (s : State) (x : Actor) (va n : Nat) (pins : List HeldPage := []) : Acc (List Byte × Bool) :=
  (s.hubPlace x va pins).bind fun s pl =>
    match pl with
    | .hbm a => .ok (s.l2Access a n x.ctx 0 false) (Memory.readN s.mem a n, s.poisoned a n)
    | .remote dev a => s.remoteRaw x (BitVec.ofNat 64 va) dev a 1 n []
    | pl =>
      let y := s.hostRead pl n
      .ok y.1 (y.2, false)

/-- The same where poison ends the access (R285). -/
def State.loadClean (s : State) (x : Actor) (va n : Nat) : Acc (List Byte) :=
  (s.hubPlace x va []).bind fun s' pl =>
    match pl with
    | .hbm a => if s'.poisoned a n then .poison a n else .ok (s'.l2Access a n x.ctx 0 false) (Memory.readN s'.mem a n)
    | _ => (s.loadFor x va n).bind fun s y => if y.2 then .bad .poison (some (BitVec.ofNat 64 va)) else .ok s y.1

/-- Who reads for the hub. -/
def hubActor (ctx : BitVec 12) (issuer : Issuer) (arrived : List Arrived) : Actor := engineActor 0 0 ctx issuer arrived

/-- Bytes read at a virtual address of a context in memory that answers at once, with whether they hold poison. -/
def State.loadVa (s : State) (ctx : BitVec 12) (va n : Nat) (pins : List HeldPage := []) : Except Cause (State × List Byte × Bool) :=
  match s.loadFor (hubActor ctx .hub []) va n pins with
  | .ok s y => .ok (s, y.1, y.2)
  | .bad c _ => .error c
  | _ => .error .access

/-- The token at the head of a ring read back through the L2: an uncorrectable error gives PSN (R56). One that lies in no memory of the
device is as it was written (DESIGN CHOICE, log entry 80). -/
def State.ringToken (s : State) (i : Inst) (a : ArcSt) (t : Token) : State × Token :=
  let va := a.ringVa i.spillBase 0
  let own := match s.translateHeld i.pinned i.ctx va { sys := true } with
    | .ok (s, pa) => match s.place pa with
      | some (.hbm _) => true
      | _ => false
    | .error _ => false
  match if own then s.loadVa i.ctx va 24 i.pinned else .error .access with
  | .error _ => (s, t)
  | .ok (s, bs, bad) =>
    let side := BitVec.ofNat 64 (Word.ofBytes ((bs.drop 16).take 8))
    (s, { t with
      payload := BitVec.ofNat 128 (Word.ofBytes (bs.take 16))
      side := if bad then side ||| 16 else side })

/-! ### A conductor's producer ports (R227) -/

/-- A free entry at producer port `port` of a conductor. -/
def Conductor.portFree (c : Conductor) (port : Nat) : Bool :=
  match c.pports.find? fun p => p.port == port with
  | some p => p.entries.length < 4
  | none => false

/-- Entries whose mask is zero are freed (R40). -/
def freed (es : List OutEntry) : List OutEntry := es.filter fun e => e.mask != 0

end Sys2Proof.Machine
end

