-- ==== Sys2Proof/Machine/Operands.lean ====
section
/-!
DEFINITION. The facet's operands: lanes (R165), sources and immediates (R138, R139), the tokens a firing
reads (R38), what one member's firing does (R164), and the SEQ, TAG and VER of what it emits (R168, R169).
-/
namespace Sys2Proof

/-- The bits of an element size. -/
def Size.bits : Size → Nat
  | .B => 8
  | .H => 16
  | .W => 32
  | .D => 64

/-- Whether a field of this kind is read as a source (R140). -/
def SrcKind.reads : SrcKind → Bool
  | .src => true
  | .opt => true
  | .pop => true
  | .popOpt => true
  | .chan => true
  | _ => false

/-- The operands an instruction reads. -/
def Instr.sources (i : Instr) : List Operand :=
  match i.form with
  | none => []
  | some (f, w) =>
    (if f.a.reads then [w.a] else []) ++ (if f.b.reads then [w.b] else []) ++ (if f.c.reads then [w.c] else [])

/-- The word of a facet instruction. -/
def Instr.word (i : Instr) : FWord :=
  match i.form with
  | some (_, w) => w
  | none => default

/-- The word of a STEER, STEERX or MERGE instruction, with its data inputs. -/
def steerWord : Instr → Option (FWord × List Operand)
  | .steer w => some (w, [w.a])
  | .steerx w => some (w, [w.a])
  | .merge w => some (w, [w.a, w.b])
  | _ => none

/-- The word of a MERGEU instruction. -/
def mergeuWord : Instr → Option FWord
  | .mergeu w => some w
  | _ => none

/-- The control input whose token an instruction reads and removes: STEER, STEERX, MERGE and MERGEU (R45). -/
def Instr.ctlInput (i : Instr) : Option Nat :=
  if (steerWord i).isSome || (mergeuWord i).isSome then some i.word.c.code else none

/-- The channel an operand names, and whether it pops it. -/
def Operand.channel : Operand → Option (Fin 4 × Bool)
  | .pop c => some (c, true)
  | .peek c => some (c, false)
  | _ => Option.none

end Sys2Proof

namespace Sys2Proof.Machine

/-! ### Lanes (R165) -/

/-- Lane `l` of `n` bits. -/
def lane (n : Nat) (x : Word128) (l : Nat) : Nat := x.toNat / 2 ^ (n * l) % 2 ^ n

/-- The lanes of `n` bits, lane 0 first. -/
def lanes (n : Nat) (x : Word128) : List Nat := (List.range (128 / n)).map (lane n x)

/-- A word built from lanes of `n` bits, lane 0 first. -/
def ofLanes (n : Nat) : List Nat → Nat
  | [] => 0
  | x :: xs => x % 2 ^ n + 2 ^ n * ofLanes n xs

/-- The same as an operand. -/
def packLanes (n : Nat) (xs : List Nat) : Word128 := BitVec.ofNat 128 (ofLanes n xs)

/-- How an operation reads its immediates and LANEID (R139): whole, by integer lanes of `n` bits, or in a
format with lanes of `n` bits. -/
inductive Reading where
  | whole
  | int (n : Nat)
  | float (f : Float.Fmt)
  | taper (t : Float.Taper)
  deriving Repr

/-- The lane width of a reading. -/
def Reading.bits : Reading → Nat
  | .whole => 128
  | .int n => n
  | .float f => f.width
  | .taper _ => 8

/-- An integer as a value. -/
def intVal (v : Int) : Float.Val := .fin (v < 0) v.natAbs 0

/-- An immediate in one lane (R139) (DESIGN CHOICE, log entry 40). -/
def immLane (rd : Reading) (v : Int) : Nat :=
  match rd with
  | .whole => (BitVec.ofInt 128 v).toNat
  | .int n => (BitVec.ofInt n v).toNat
  | .float f => (Float.encode f 0 (intVal v)).bits
  | .taper t => (Float.encodeTaper t 0 (intVal v)).bits

/-- An immediate broadcast to every lane (R139). -/
def immediate (rd : Reading) (v : Int) : Word128 :=
  packLanes rd.bits (List.replicate (128 / rd.bits) (immLane rd v))

/-- LANEID in chain position `q` (R49, R138, R139). -/
def laneid (rd : Reading) (q : Nat) : Word128 :=
  match rd with
  | .whole => BitVec.ofNat 128 q
  | _ =>
    let k := 128 / rd.bits
    packLanes rd.bits ((List.range k).map fun l => q * k + l)

/-! ### The combine operations of ASSOCIATIVE nodes (R51, R83, R307) -/

/-- The combine operation of a node (R152). -/
def FacetUnit.combineOp (u : FacetUnit) : Nat := Word.field u.cls 5 2

/-- An operation on each lane of `n` bits. -/
def lanewise (n : Nat) (f : Nat → Nat → Nat) (a b : Word128) : Word128 :=
  packLanes n ((List.range (128 / n)).map fun l => f (lane n a l) (lane n b l) % 2 ^ n)

/-- Two registers combined (R307). -/
def combineWord (op : Nat) (a b : Word128) : Word128 :=
  match op with
  | 0 => lanewise 32 (fun x y => x + y) a b
  | 1 => lanewise 64 (fun x y => x + y) a b
  | 2 =>
    let f := Float.f32
    lanewise 32 (fun x y => (Float.encode f 0 (Float.add 0 (Float.decode f x) (Float.decode f y))).bits) a b
  | 3 => lanewise 32 (fun x y => if (BitVec.ofNat 32 x).slt (BitVec.ofNat 32 y) then y else x) a b
  | 4 => lanewise 32 (fun x y => if (BitVec.ofNat 32 x).slt (BitVec.ofNat 32 y) then x else y) a b
  | 5 => a &&& b
  | 6 => a ||| b
  | _ => a ^^^ b

/-- The identity of an operation (R307). -/
def combineIdentity (op : Nat) : Word128 :=
  let every := fun (v : Nat) => packLanes 32 (List.replicate 4 v)
  match op with
  | 2 => every 0x80000000
  | 3 => every 0x80000000
  | 4 => every 0x7FFFFFFF
  | 5 => BitVec.allOnes 128
  | _ => 0

/-- The partial states of one facet combined into those of another. -/
def FacetUnit.absorb (u v : FacetUnit) : FacetUnit :=
  { u with
    regs := (List.range 16).map fun k =>
      let x := u.regs.getD k 0
      if u.combmask.getLsbD k then combineWord u.combineOp x (v.regs.getD k 0) else x
    spoiled := u.spoiled ||| (v.spoiled &&& u.combmask) }

/-- A facet whose partial state has been combined into another's: it begins again from the identity (R51, R307). -/
def FacetUnit.cleared (u : FacetUnit) : FacetUnit :=
  { u with
    regs := (List.range 16).map fun k => if u.combmask.getLsbD k then combineIdentity u.combineOp else u.regs.getD k 0
    spoiled := u.spoiled &&& ~~~u.combmask }

/-- A list in an order that nothing fixes (R83, DESIGN CHOICE, log entry 6). -/
def shuffled (k : Nat) : Nat → List Nat → List Nat
  | 0, _ => []
  | n + 1, l =>
    match l[Config.pick k % l.length]? with
    | some x => x :: shuffled (k + 1) n (l.erase x)
    | none => []

/-- A register of an ASSOCIATIVE node with the partial states of all its clones combined (R51): in ascending clone index, for
add.F32 in no promised order (R83, R307). -/
def State.combined (s : State) (u : FacetUnit) (n : Nat) : Word128 :=
  let cs := (s.clonesOf u.inst u.node).filter fun c => c != 0
  let order := if u.combineOp = 2 then shuffled s.fresh cs.length cs else cs
  let val := fun c => ((s.facet? u.inst u.node c u.pos).map fun v => v.regs.getD n 0).getD 0
  order.foldl (fun x c => combineWord u.combineOp x (val c)) (val 0)

/-! ### One member's firing -/

/-- A firing as one member evaluates it: `rd` is memory as every load of the firing reads it (R115), `s` the
state the firing builds, `u` the member before it, `lead` its chain's leader. -/
structure Fire where
  rd : State
  s : State
  u : FacetUnit
  lead : FacetUnit
  w : FWord
  slot : Nat
  assisted : Bool
  deriving Repr

/-- A token to emit: `port` 0 to 3 for o0 to o3, 4 and 5 for k0 and k1; `raw` gives the whole side band, and
`same` takes the side band of the emission before it, less KIND (R173); `ver` gives the low half of VER (R271). -/
structure Emission where
  port : Nat
  payload : Word128
  kind : Nat := 0
  raw : Option Word64 := none
  same : Bool := false
  ver : Option (BitVec 16) := none
  deriving Repr, Inhabited

/-- What a firing does at one member, beside its memory accesses (R164). -/
structure Fx where
  val : Option Word128 := none
  emits : List Emission := []
  cond : Bool := false
  pops : Option (List (Fin 4)) := none
  cpop : Option Nat := none
  setp : Option (BitVec 8 × BitVec 8) := none
  fwd : Option Token := none
  post : FacetUnit → FacetUnit := id

/-- A fault of a firing: its cause, the trap code, the address and the further words its record holds. -/
structure FacetFault where
  cause : Cause
  info : BitVec 16 := 0
  faddr : Word64 := 0
  other : Word64 := 0
  found : Option (Nat × Nat) := none
  deriving Repr, DecidableEq, Inhabited

/-- How a firing ends at one member. -/
inductive FRes where
  | ok (s : State) (fx : Fx)
  | fault (f : FacetFault)
  | wait (s : State)

/-- The head token of an input channel. -/
def FacetUnit.head (u : FacetUnit) (c : Nat) : Option Token := (u.ins.getD c []).head?

/-- The payload of the head token; 0 where there is none, which no ready slot reads. -/
def FacetUnit.headPay (u : FacetUnit) (c : Nat) : Word128 :=
  match u.head c with
  | some t => t.payload
  | none => 0

/-- Whether a firing reads a register of a cloned ASSOCIATIVE node other than to go on accumulating into it. -/
def Fire.readsCombined (c : Fire) (n : Fin 16) : Bool :=
  c.u.cls.toNat % 4 == 1 && c.u.combmask.getLsbD n.val && c.w.d != .reg n && (c.s.clonesOf c.u.inst c.u.node).length > 1

/-- The value of a register: of one that holds the partial state of a clone the combined value (R51), but for an instruction
that writes the register, which goes on from the clone's own (DEDUCED, log entry 71). -/
def Fire.regVal (c : Fire) (n : Fin 16) : Word128 :=
  if c.readsCombined n then c.s.combined c.u n.val else c.u.regs.getD n.val 0

/-- The value of a source operand (R138, R139). -/
def Fire.src (c : Fire) (rd : Reading) (o : Operand) : Word128 :=
  match o with
  | .reg n => c.regVal n
  | .pop i => c.u.headPay i.val
  | .peek i => c.u.headPay i.val
  | .konst => c.u.konst
  | .laneid => laneid rd c.u.pos
  | .imm v => immediate rd (Operand.immVal v)
  | .zero => 0
  | .out _ => 0
  | .none => 0

/-- Sources A, B and C. -/
def Fire.a (c : Fire) (rd : Reading) : Word128 := c.src rd c.w.a
def Fire.b (c : Fire) (rd : Reading) : Word128 := c.src rd c.w.b
def Fire.c (c : Fire) (rd : Reading) : Word128 := c.src rd c.w.c

/-- The channels that a firing reads, each once, in ascending order (R38). -/
def channelsOf (os : List Operand) : List (Fin 4) :=
  [0, 1, 2, 3].filter fun c => os.any fun o => (o.channel.map Prod.fst) == some c

/-- The channels that a firing pops (R38). -/
def popsOf (os : List Operand) : List (Fin 4) :=
  [0, 1, 2, 3].filter fun c => os.any fun o => o.channel == some (c, true)

/-- The channel registers that a firing consumes (R39). -/
def FacetUnit.consumed (u : FacetUnit) (os : List Operand) : List (Fin 16) :=
  os.filterMap fun o => match o with
    | .reg n => if u.chreg.getLsbD n.val then some n else none
    | _ => none

/-- The input that MERGEU takes: A when A's head is DATA, B otherwise (R175), whatever the numbers of the two channels (DEDUCED,
log entry 72). -/
def FacetUnit.merged (u : FacetUnit) (w : FWord) : Operand :=
  match w.a.channel.bind fun c => u.head c.1.val with
  | some t => if t.kind = 0 then w.a else w.b
  | none => w.b

/-- The data channels that a firing pops or peeks: of MERGEU the one it takes. -/
def FacetUnit.readBy (u : FacetUnit) (i : Instr) : List (Fin 4) :=
  match mergeuWord i with
  | some w => channelsOf [u.merged w]
  | none => channelsOf i.sources

/-- Every token that a firing pops or peeks, the control token with them (R118, R119). -/
def FacetUnit.tokensRead (u : FacetUnit) (i : Instr) : List Token :=
  ((u.readBy i).filterMap fun c => u.head c.val) ++
    match i.ctlInput with
    | some k => ((u.cins.getD k []).head?).toList
    | none => []

/-- Whether a firing of `u` reads a register that holds poison (R44, R368): its own, or, where the combined value is read, any clone's
(R51). -/
def State.readsSpoiled (s : State) (u : FacetUnit) (i : Instr) : Bool :=
  i.sources.any fun o => match o with
    | .reg n => u.spoiled.getLsbD n.val || (u.cls.toNat % 4 == 1 && u.combmask.getLsbD n.val && (s.clonesOf u.inst u.node).any fun c =>
        ((s.facet? u.inst u.node c u.pos).map fun v => v.spoiled.getLsbD n.val).getD false)
    | _ => false

/-- The firing as containment keeps it (R364). -/
def FacetUnit.replayOf (u : FacetUnit) (i : Instr) (slot clk : Nat) : Replay :=
  { slot := slot, clk := clk, toks := u.tokensRead i
    vals := i.sources.filterMap fun o => match o with
      | .reg n => some (n.val, u.regs.getD n.val 0)
      | _ => none }

/-- A facet as a choice sees it: without the tokens that have arrived in this clk, which count from the next (R204). -/
def FacetUnit.asOf (u : FacetUnit) (clk : Nat) : FacetUnit :=
  let old := fun (p : Nat) (l : List Token) =>
    let x := u.inClk.getD p (0, 0)
    if x.1 = clk then l.take (l.length - x.2) else l
  { u with
    ins := (List.range 4).map fun k => old k (u.ins.getD k [])
    cins := (List.range 2).map fun k => old (4 + k) (u.cins.getD k []) }

/-- The DATA tokens that a firing pops or peeks, by channel (R168, R169). -/
def FacetUnit.reads (u : FacetUnit) (cs : List (Fin 4)) : List Token :=
  (cs.filterMap fun c => u.head c.val).filter fun t => t.kind == 0

/-! ### SEQ, TAG and VER of an emission (R168, R169) -/

/-- The SEQ of a token emitted on output `o`, and the facet after it (R168). -/
def FacetUnit.nextSeq (u : FacetUnit) (o : Nat) (fwd : Option Token) (data : List Token) :
    BitVec 16 × FacetUnit :=
  match u.seqnext.getD o none with
  | some v => (v, { u with seqnext := u.seqnext.set o none })
  | none =>
    match fwd, data with
    | some t, _ => (t.seq, u)
    | none, t :: _ => (t.seq, u)
    | none, [] =>
      if u.indecl.toNat % 16 ≠ 0 then (u.lastseq, u)
      else (u.seqcnt.getD o 0, { u with seqcnt := u.seqcnt.modify o fun n => n + 1 })

/-- The version word composed from the versioned inputs (R169). -/
def composeVer (data : List Token) (seq : BitVec 16) : BitVec 32 :=
  let vs := (data.map Token.ver).filter fun v => v != 0
  if vs.isEmpty then 0
  else
    let top := vs.foldl (fun n v => max n (Word.field v 4 0)) 0
    let f := vs.all fun v => v.getLsbD 5
    let x := vs.any fun v => v.getLsbD 6
    BitVec.ofNat 32 (seq.toNat * 65536 + 0x8000 + x.toNat * 64 + f.toNat * 32 + top)

/-- The side band of an emission on data output `o` (R168, R169). -/
def FacetUnit.sideFor (u : FacetUnit) (w : FWord) (o kind : Nat) (fwd : Option Token) (data : List Token) :
    Word64 × FacetUnit :=
  let (seq, u') := u.nextSeq o fwd data
  let tag := match fwd with
    | some t => t.tag
    | none => u.tagreg.getD o 0
  let ver := if !w.sv then 0 else match fwd with
    | some t => t.ver
    | none => composeVer data seq
  (sideOf ver seq false tag kind, u')

/-- One emission placed in the facet's buffers; `prev` is the side band of the one before. -/
def FacetUnit.place (u : FacetUnit) (w : FWord) (mask : Nat → BitVec 4) (h : AgentHB) (fwd : Option Token)
    (data : List Token) (prev : Word64) (e : Emission) : Word64 × FacetUnit :=
  let (side, u) :=
    match e.raw with
    | some r => (r, u)
    | none =>
      if e.port ≥ 4 then (BitVec.ofNat 64 e.kind, u)
      else if e.same then (prev &&& 0xFFFFFFFFFFFFFFFC ||| BitVec.ofNat 64 e.kind, u)
      else
        let x := u.sideFor w e.port e.kind fwd data
        match e.ver with
        | some v => ((x.1.extractLsb' 16 16 ++ v) ++ x.1.extractLsb' 0 32, x.2)
        | none => x
  let t : Token := { payload := e.payload, side := side, rels := h.rels, vc := h.vc, deal := u.deal }
  let u := if e.port < 4 then { u with outs := u.outs.modify e.port fun es => es ++ [⟨t, mask e.port⟩] }
    else { u with couts := u.couts.modify (e.port - 4) fun es => es ++ [⟨t, mask e.port⟩] }
  (side, u)

/-- The emissions of a firing in order. -/
def FacetUnit.placeAll (u : FacetUnit) (w : FWord) (mask : Nat → BitVec 4) (h : AgentHB) (fwd : Option Token)
    (data : List Token) (prev : Word64) : List Emission → FacetUnit
  | [] => u
  | e :: es =>
    let (side, u) := u.place w mask h fwd data prev e
    u.placeAll w mask h fwd data side es

end Sys2Proof.Machine
end

