-- ==== Sys2Proof/Machine/Flags.lean ====
section
/-!
DEFINITION. The conditions that facet instructions give (R166) and the predicate update made from them
(R137, R49, R204).
-/
namespace Sys2Proof.Machine

/-- The condition of the compare class: some lane of the result is nonzero (R166). -/
def condCompare (v : Word128) : Bool := v != 0

/-- The condition of the whole-register class: some bit is set (R166). -/
def condWhole (v : Word128) : Bool := v != 0

/-- The condition of lane arithmetic on an integer or tapered result: lane 0 of `n` bits is not 0 (R166). -/
def condLane (n : Nat) (v : Word128) : Bool := lane n v 0 != 0

/-- The same on an F32, F16 or BF16 result: the sign bit is excluded (R166). -/
def condFloat (f : Float.Fmt) (v : Word128) : Bool := lane f.width v 0 % 2 ^ (f.width - 1) != 0

/-- A predicate set. -/
def setBit8 (p : BitVec 8) (k : Nat) (v : Bool) : BitVec 8 :=
  if v then p ||| (1#8 <<< k) else p &&& ~~~(1#8 <<< k)

/-- The predicate update of a word with the condition its instruction gave (R137). -/
def predUpdate (w : FWord) (cond : Bool) (p : BitVec 8) : BitVec 8 :=
  match w.puAct with
  | 0 => p
  | 1 => setBit8 p w.puIdx.val cond
  | 2 => setBit8 p w.puIdx.val true
  | _ => setBit8 p w.puIdx.val false

/-- The predicates of one member after a firing: the firing's own writes first, then its update (R204), both in
the leader alone unless S.W is set (R49, R197). -/
def predsAfter (w : FWord) (lead : Bool) (setp : Option (BitVec 8 × BitVec 8)) (cond : Bool) (p : BitVec 8) :
    BitVec 8 :=
  if lead || w.sw then
    let p := match setp with
      | some (m, v) => (p &&& ~~~m) ||| (v &&& m)
      | none => p
    predUpdate w cond p
  else p

end Sys2Proof.Machine
end

