-- ==== Sys2Proof/Machine/Fire.lean ====
section
/-!
DEFINITION. A facet firing: readiness (R35), the choice of a slot (R36), a firing of one facet or of a whole
chain committed together (R10, R31, R49, R50, R115), and its faults (R44, R61, R206).
-/
namespace Sys2Proof.Machine

/-! ### Committing -/

/-- One member after its firing (R10, R38, R39, R167). -/
def FacetUnit.commit (u : FacetUnit) (i : Instr) (mask : Nat → BitVec 4) (h : AgentHB) (fx : Fx) : FacetUnit :=
  let w := i.word
  let os := i.sources
  let pops := fx.pops.getD (popsOf os)
  let cs := match fx.pops with
    | some ps => ps
    | none => channelsOf os
  let data := u.reads cs
  let popped := u.reads pops
  let u1 : FacetUnit :=
    { u with
      ins := (List.range 4).map fun k =>
        if pops.any fun p => p.val == k then (u.ins.getD k []).drop 1 else u.ins.getD k []
      cins := match fx.cpop with
        | some k => u.cins.modify k fun l => l.drop 1
        | none => u.cins
      pres := (u.consumed os).foldl (fun p n => p &&& ~~~(1#16 <<< n.val)) u.pres
      deal := match popped with
        | t :: _ => t.deal
        | [] => u.deal }
  let u2 : FacetUnit :=
    match w.d, fx.val with
    | .reg n, some v => { u1 with regs := u1.regs.set n.val v, pres := u1.pres ||| (1#16 <<< n.val), spoiled := u1.spoiled &&& ~~~(1#16 <<< n.val) }
    | _, _ => u1
  let direct := match w.d, fx.val with
    | .out o, some v => [{ port := o.val, payload := v : Emission }]
    | _, _ => []
  let u3 := u2.placeAll w mask h fx.fwd data 0 (direct ++ fx.emits)
  let u4 : FacetUnit :=
    { u3 with
      lastseq := match popped with
        | t :: _ => t.seq
        | [] => u3.lastseq
      preds := predsAfter w (u.pos == 0) fx.setp fx.cond u3.preds
      live := { u3.live with firings := u3.live.firings + 1 } }
  fx.post u4

/-! ### Versions emitted (R274, R275) -/

/-- The levels of an instance that hold node `node`. -/
def Image.levelsOf (im : Image) (node : Nat) : List Nat :=
  let g := ((im.nodes[node]?).map NodeBlk.sub).getD 0
  (List.range im.levels.length).filter fun l => within im.levels l g

/-- A versioned token has been emitted by a node (R275). -/
def State.emittedVersion (s : State) (inst node : Nat) : State :=
  s.modInst inst fun i =>
    { i with versSince := i.versSince ++ (i.image.levelsOf node).filter fun l => !i.versSince.contains l }

/-- A node has emitted a token: a versioned one counts (R275). -/
def State.versioned (s : State) (inst node : Nat) (t : Token) : State :=
  if t.ver = 0 then s else s.emittedVersion inst node

/-- The versioned tokens that a facet has placed on each output. -/
def newVersions (before after : FacetUnit) : List (Nat × Token) :=
  (List.range 4).flatMap fun o =>
    ((((after.outs.getD o []).drop (before.outs.getD o []).length).map OutEntry.tok).filter fun t =>
      t.ver != 0).map fun t => (o, t)

/-- The versions of a node whose final token an output still owes, after it has emitted `vs` (R274). -/
def Inst.noteVersions (i : Inst) (node : Nat) (vs : List (Nat × Token)) : Inst :=
  { i with openVers := vs.foldl (fun l p =>
      let rest := l.filter fun q => q != (node, p.1, p.2.seq)
      if p.2.ver.getLsbD 5 then rest else rest ++ [(node, p.1, p.2.seq)]) i.openVers }

/-- A facet replaced by what it has become by emitting, the versions it has opened and closed noted (R274, R275). -/
def State.become (s : State) (before after : FacetUnit) : State :=
  let vs := newVersions before after
  let s := s.modFacet before.inst before.node before.clone before.pos fun _ => after
  if vs.isEmpty then s
  else (s.modInst before.inst fun i => i.noteVersions before.node vs).emittedVersion before.inst before.node

/-- The agent of a facet node's clone; a chain is one agent (R111). -/
def FacetUnit.agent (u : FacetUnit) : Agent := .facet u.inst u.node u.clone

/-- FINFO of a facet party (R121, R226). -/
def State.facetParty (s : State) (u : FacetUnit) (slot : Nat) : Word64 :=
  let ver := match s.inst? u.inst with
    | some i => i.layver.toNat
    | none => 0
  pack [(32, ver), (20, u.pos), (16, slot), (12, u.clone), (0, u.node)]

/-- The masks of a facet's outputs and control outputs. -/
def State.facetMask (s : State) (u : FacetUnit) (port : Nat) : BitVec 4 := s.fullMask u.inst false u.node port

/-- `s` with a member committed. -/
def State.commitMember (s : State) (i : Instr) (u : FacetUnit) (fx : Fx) : State :=
  match s.facet? u.inst u.node u.clone u.pos with
  | none => s
  | some v => s.become v (v.commit i (s.facetMask u) (s.hbOf u.agent) fx)

/-! ### Faults -/

/-- A fault of a chain's firing (R50, R206): reported once, with the slot and the position of the member, and
the unit waits. SUBNORMAL_ASSIST and BREAK remember the slot (R61, R194). -/
def State.facetFault (s : State) (u : FacetUnit) (slot : Nat) (f : FacetFault) : State :=
  let s := { s with facets := s.facets.map fun (v : FacetUnit) =>
    if v.inst = u.inst ∧ v.node = u.node ∧ v.clone = u.clone then
      { v with
        faulted := if f.cause = Cause.brk then v.faulted else some slot
        assist := if f.cause = Cause.subnormalAssist then some slot else v.assist
        brk := if f.cause = Cause.brk then some slot else v.brk
        chainFire := none
        firedAt := none
        arrived := [] }
    else v }
  let s := (s.freeIssued u.agent).meets f.found
  s.nodeFault u.region
    { cause := f.cause, info := f.info, faddr := f.faddr, finfo := s.facetParty u slot, other := f.other
      unit := .facet u.inst u.node u.clone }

/-! ### Evaluating -/

/-- The meaning of a facet instruction at one member. -/
abbrev Eval := Fire → FRes

/-- A firing evaluated at one member: poison that it would read, in a token popped or peeked or in a register, is POISON before any other fault of
the firing (R44; DESIGN CHOICE, log entry 41); then its tokens are observed (R118, R119, R130), and the instruction has its own
effect. -/
def evalMember (i : Instr) (ev : Eval) (c : Fire) : FRes :=
  let seen := c.u.tokensRead i
  if seen.any Token.psn || c.s.readsSpoiled c.u i then .fault { cause := .poison }
  else ev { c with s := seen.foldl (fun s t => (s.observe c.u.agent t.rels).orderAfter c.u.agent t.before) c.s }

/-- A whole firing as it is evaluated: `rd` is the state before it. -/
structure Volley where
  i : Instr
  ev : Eval
  slot : Nat
  assisted : Bool
  rd : State
  lead : FacetUnit

/-- One member evaluated on `s`. -/
def Volley.member (x : Volley) (s : State) (u : FacetUnit) : FRes :=
  evalMember x.i x.ev
    { rd := x.rd, s := s, u := u.asOf x.rd.clk, lead := x.lead, w := x.i.word, slot := x.slot, assisted := x.assisted }

/-- What a member that must wait asks for: a walk, or the answer to a remote access. -/
def Volley.ask (x : Volley) (s : State) (u : FacetUnit) : State :=
  match x.member s u with
  | .wait s' => s'
  | _ => s

/-- Whether a member waits for something other than an answer that it has asked for, or now asks for. -/
def Volley.stuck (x : Volley) (s : State) (u : FacetUnit) : Bool :=
  (x.ask s u).nextTx == s.nextTx &&
    !s.txns.any fun t => t.issuer == .facet u.inst u.node u.clone x.slot u.pos && t.returns

/-- A firing of which the members `ws` must wait, with `s` what the others would leave: nothing of it is done but the asking. No access
leaves for another device before every access of the firing has been issued, for an atomic performed there is not taken back
(R10, R121). -/
def Volley.asking (x : Volley) (s : State) (ws : List FacetUnit) : State :=
  match ws.filter (x.stuck s) with
  | [] => ws.foldl x.ask (s.holdIssued x.rd (.facet x.lead.inst x.lead.node x.lead.clone))
  | us => us.foldl x.ask x.rd

/-- The members evaluated in chain order, each on the state the ones before left, with every load reading
memory as it was (R115): a fault of any, or what they leave, or what the firing asks for and waits. -/
def Volley.run (x : Volley) :
    List FacetUnit → State → List (FacetUnit × Fx) → List FacetUnit →
      (FacetUnit × FacetFault) ⊕ (State × List (FacetUnit × Fx)) ⊕ State
  | [], s, acc, [] => .inr (.inl (s, acc.reverse))
  | [], s, _, ws => .inr (.inr (x.asking s ws))
  | u :: us, s, acc, ws =>
    match x.member s u with
    | .ok s' fx => x.run us s' ((u, fx) :: acc) ws
    | .fault f => .inl (u, f)
    | .wait _ => x.run us s acc (ws ++ [u])

/-- What every member of a finished firing leaves behind. -/
def FacetUnit.settled (u : FacetUnit) (x : Replay) : FacetUnit :=
  { u with
    chainFire := none
    firedAt := none
    assist := none
    brk := none
    passBreak := false
    arrived := []
    recent := (u.recent ++ [x]).drop (u.recent.length - 7) }

/-- A whole firing: evaluated, then committed together, or faulted with no effect (R10, R50). One whose access is
still outstanding is held, and is evaluated again. -/
def fireAll (i : Instr) (ev : Eval) (slot : Nat) (assisted : Bool) (us : List FacetUnit) (s : State) : State :=
  match us with
  | [] => s
  | lead :: _ =>
    match (Volley.mk i ev slot assisted s lead).run us s [] [] with
    | .inl (u, f) => s.facetFault u slot f
    | .inr (.inr s') =>
      s'.modFacet lead.inst lead.node lead.clone lead.pos fun v => { v with chainFire := some (slot, us.length) }
    | .inr (.inl (s', fxs)) =>
      let s := fxs.foldl (fun s p => s.commitMember i p.1 p.2) s'
      let s := us.foldl (fun s u => s.modFacet u.inst u.node u.clone u.pos fun v => v.settled (u.replayOf i slot s.clk)) s
      -- the order of the next combined sum is fixed by nothing (R83)
      let s := if lead.cls.toNat % 4 = 1 ∧ lead.combineOp = 2 then { s with fresh := s.fresh + 8 } else s
      (s.freeIssued (.facet lead.inst lead.node lead.clone)).fired lead.inst

/-- The firing of the slot in `cur` (R49, R375): a debug-trap bit raises BREAK first; a chain's leader only
begins, and the firing ends when its last member has fired (DESIGN CHOICE, log entry 63). -/
def firing (i : Instr) (ev : Eval) (s : State) : Out :=
  match (s.facetsAt s.cur.region s.cur.rank).find? fun u => u.node == s.cur.node with
  | none => .fault .noUnit
  | some u =>
    let slot := s.cur.slot
    if s.cur.mode == .normal && u.dbg.getLsbD slot then .next (s.facetFault u slot { cause := .brk })
    else if s.cur.mode != .assisted && u.chain > 1 then
      .next (s.modFacet u.inst u.node u.clone 0 fun v => { v with chainFire := some (slot, 1), firedAt := some s.clk })
    else .next (fireAll i ev slot (s.cur.mode == .assisted) (s.chainOf u) s)

/-! ### Results -/

/-- The firing writes `v` to D and gives `cond`. -/
def Fire.result (c : Fire) (v : Word128) (cond : Bool) : FRes := .ok c.s { val := some v, cond := cond }

/-- The firing faults with `cause`. -/
def faultWith (cause : Cause) : FRes := .fault { cause := cause }

/-- The end of a firing whose access ended so (R91, R121). -/
def Acc.fire {α : Type} (x : Acc α) (f : State → α → FRes) : FRes :=
  match x with
  | .ok s a => f s a
  | .bad c a => .fault { cause := c, faddr := a.getD 0 }
  | .poison a n => .fault { cause := .poison, found := some (a, n) }
  | .race o a => .fault { cause := .race, faddr := a, other := o }
  | .ask s => .wait s

end Sys2Proof.Machine
end

