-- ==== Sys2Proof/Machine/FacetFloat.lean ====
section
/-!
DEFINITION. Floating-point facet instructions (R184 to R186), conversions (R187 to R189), the F32 lane
reductions (R192) and DOT4.TF8 (R200). A nonzero F32 or F16 result that is subnormal raises SUBNORMAL_ASSIST,
unless the assist completes the firing (R61, R171).
-/
namespace Sys2Proof.Machine

/-- A result built from rounded lanes of format `f`: its condition, and the assist it may need (R61). -/
def Fire.rounded (c : Fire) (f : Float.Fmt) (rs : List Float.Rounded) : FRes :=
  if !c.assisted && rs.any fun r => r.subnormal then faultWith .subnormalAssist
  else
    let v := packLanes f.width (rs.map Float.Rounded.bits)
    c.result v (condFloat f v)

/-- The rounding mode in H (R63). -/
def Fire.mode (c : Fire) : Nat := c.w.h.toNat

/-- Lanes of a format decoded. -/
def decodeLanes (f : Float.Fmt) (v : Word128) : List Float.Val := (lanes f.width v).map (Float.decode f)

/-- A floating-point operation lane by lane (R184). -/
def floatOp (g : Float.Fmt → Nat → Float.Val → Float.Val → Float.Val → Float.Rounded) (fm : FFmt) (c : Fire) : FRes :=
  let f := Float.ofRow fm
  let rd := Reading.float f
  let va := c.a rd
  let vb := c.b rd
  let vc := c.c rd
  c.rounded f ((List.range (128 / f.width)).map fun l =>
    g f c.mode (Float.decode f (lane f.width va l)) (Float.decode f (lane f.width vb l))
      (Float.decode f (lane f.width vc l)))

/-- A floating-point compare lane by lane (R184, R186). -/
def floatTest (g : Float.Val → Float.Val → Bool) (fm : FFmt) (c : Fire) : FRes :=
  let f := Float.ofRow fm
  let va := c.a (.float f)
  let vb := c.b (.float f)
  let v := packLanes f.width ((List.range (128 / f.width)).map fun l =>
    if g (Float.decode f (lane f.width va l)) (Float.decode f (lane f.width vb l)) then 2 ^ f.width - 1 else 0)
  c.result v (condCompare v)

/-- FADD (R184). -/
def evalFadd (fm : FFmt) (c : Fire) : FRes :=
  floatOp (fun f md a b _ => Float.encode f md (Float.add md a b)) fm c

/-- FADD: one firing. -/
def execFadd (fm : FFmt) (w : FWord) (s : State) : Out := firing (.fadd fm w) (evalFadd fm) s

/-- FSUB (R184). -/
def evalFsub (fm : FFmt) (c : Fire) : FRes :=
  floatOp (fun f md a b _ => Float.encode f md (Float.add md a (Float.neg b))) fm c

/-- FSUB: one firing. -/
def execFsub (fm : FFmt) (w : FWord) (s : State) : Out := firing (.fsub fm w) (evalFsub fm) s

/-- FMUL (R184). -/
def evalFmul (fm : FFmt) (c : Fire) : FRes :=
  floatOp (fun f md a b _ => Float.encode f md (Float.mul a b)) fm c

/-- FMUL: one firing. -/
def execFmul (fm : FFmt) (w : FWord) (s : State) : Out := firing (.fmul fm w) (evalFmul fm) s

/-- FFMA (R184). -/
def evalFfma (fm : FFmt) (c : Fire) : FRes :=
  floatOp (fun f md a b c => Float.encode f md (Float.add md (Float.mul a b) c)) fm c

/-- FFMA: one firing. -/
def execFfma (fm : FFmt) (w : FWord) (s : State) : Out := firing (.ffma fm w) (evalFfma fm) s

/-- FMIN (R186). -/
def evalFmin (fm : FFmt) (c : Fire) : FRes :=
  floatOp (fun f _ a b _ => Float.encode f 0 (Float.fmin a b)) fm c

/-- FMIN: one firing (DEDUCED, log entry 17). -/
def execFmin (fm : FFmt) (w : FWord) (s : State) : Out := firing (.fmin fm w) (evalFmin fm) s

/-- FMAX (R186). -/
def evalFmax (fm : FFmt) (c : Fire) : FRes :=
  floatOp (fun f _ a b _ => Float.encode f 0 (Float.fmax a b)) fm c

/-- FMAX: one firing. -/
def execFmax (fm : FFmt) (w : FWord) (s : State) : Out := firing (.fmax fm w) (evalFmax fm) s

/-- FNEG (R184). -/
def evalFneg (fm : FFmt) (c : Fire) : FRes :=
  floatOp (fun f _ a _ _ => Float.encode f 0 (Float.neg a)) fm c

/-- FNEG: one firing. -/
def execFneg (fm : FFmt) (w : FWord) (s : State) : Out := firing (.fneg fm w) (evalFneg fm) s

/-- FABS (R184). -/
def evalFabs (fm : FFmt) (c : Fire) : FRes :=
  floatOp (fun f _ a _ _ => Float.encode f 0 (Float.abs a)) fm c

/-- FABS: one firing. -/
def execFabs (fm : FFmt) (w : FWord) (s : State) : Out := firing (.fabs fm w) (evalFabs fm) s

/-- FCMPEQ (R184, R186). -/
def evalFcmpeq (fm : FFmt) (c : Fire) : FRes :=
  floatTest (Float.eq) fm c

/-- FCMPEQ: one firing. -/
def execFcmpeq (fm : FFmt) (w : FWord) (s : State) : Out := firing (.fcmpeq fm w) (evalFcmpeq fm) s

/-- FCMPLT (R184, R186). -/
def evalFcmplt (fm : FFmt) (c : Fire) : FRes :=
  floatTest (Float.lt) fm c

/-- FCMPLT: one firing. -/
def execFcmplt (fm : FFmt) (w : FWord) (s : State) : Out := firing (.fcmplt fm w) (evalFcmplt fm) s

/-- FCMPLE (R184, R186). -/
def evalFcmple (fm : FFmt) (c : Fire) : FRes :=
  floatTest (fun a b => Float.lt a b || Float.eq a b) fm c

/-- FCMPLE: one firing. -/
def execFcmple (fm : FFmt) (w : FWord) (s : State) : Out := firing (.fcmple fm w) (evalFcmple fm) s

/-- FRCP (R184, R185): correctly rounded. -/
def evalFrcp (fm : FFmt) (c : Fire) : FRes :=
  floatOp (fun f md a _ _ => Float.rcp f md a) fm c

/-- FRCP: one firing. -/
def execFrcp (fm : FFmt) (w : FWord) (s : State) : Out := firing (.frcp fm w) (evalFrcp fm) s

/-- FRSQ (R184, R185): correctly rounded. -/
def evalFrsq (fm : FFmt) (c : Fire) : FRes :=
  floatOp (fun f md a _ _ => Float.rsq f md a) fm c

/-- FRSQ: one firing. -/
def execFrsq (fm : FFmt) (w : FWord) (s : State) : Out := firing (.frsq fm w) (evalFrsq fm) s

/-- FEXP2 (R184, R185): correctly rounded. -/
def evalFexp2 (fm : FFmt) (c : Fire) : FRes :=
  floatOp (fun f md a _ _ => Float.exp2 f md a) fm c

/-- FEXP2: one firing. -/
def execFexp2 (fm : FFmt) (w : FWord) (s : State) : Out := firing (.fexp2 fm w) (evalFexp2 fm) s

/-- FLOG2 (R184, R185): correctly rounded. -/
def evalFlog2 (fm : FFmt) (c : Fire) : FRes :=
  floatOp (fun f md a _ _ => Float.log2 f md a) fm c

/-- FLOG2: one firing. -/
def execFlog2 (fm : FFmt) (w : FWord) (s : State) : Out := firing (.flog2 fm w) (evalFlog2 fm) s

/-- FSCALE (R184): k is the lane of B read as a signed integer, an immediate too: the source format of B is that integer (R139, DEDUCED, log entry 23). -/
def evalFscale (fm : FFmt) (c : Fire) : FRes :=
  let f := Float.ofRow fm
  let va := c.a (.float f)
  let vb := c.b (.int f.width)
  c.rounded f ((List.range (128 / f.width)).map fun l =>
    Float.scale f c.mode (BitVec.ofNat f.width (lane f.width vb l)).toInt (Float.decode f (lane f.width va l)))

/-- FSCALE: one firing. -/
def execFscale (fm : FFmt) (w : FWord) (s : State) : Out := firing (.fscale fm w) (evalFscale fm) s

/-! ### Conversions (R187 to R189) -/

/-- CVTN (R187). -/
def evalCvtn (nf : NFmt) (c : Fire) : FRes :=
  match nf with
  | .f16 => narrow Float.f16
  | .bf16 => narrow Float.bf16
  | .tf8 => taper Float.tf8
  | .tf6 => taper Float.tf6
where
  /-- F32 lanes of A, then of B, into a 16-bit format. -/
  narrow (f : Float.Fmt) : FRes :=
    let rd := Reading.float Float.f32
    c.rounded f ((decodeLanes Float.f32 (c.a rd) ++ decodeLanes Float.f32 (c.b rd)).map (Float.encode f c.mode))
  /-- BF16 lanes of A, then of B, into bytes that hold a tapered format. -/
  taper (t : Float.Taper) : FRes :=
    let rd := Reading.float Float.bf16
    let v := packLanes 8 ((decodeLanes Float.bf16 (c.a rd) ++ decodeLanes Float.bf16 (c.b rd)).map fun x =>
      (Float.encodeTaper t c.mode x).bits)
    c.result v (condLane 8 v)

/-- CVTN: one firing. -/
def execCvtn (nf : NFmt) (w : FWord) (s : State) : Out := firing (.cvtn nf w) (evalCvtn nf) s

/-- CVTW (R188): exact; half #h of A. -/
def evalCvtw (nf : NFmt) (c : Fire) : FRes :=
  let h := c.w.b.code - 48
  match nf with
  | .f16 => widen Float.f16 h
  | .bf16 => widen Float.bf16 h
  | .tf8 => taper Float.tf8 h
  | .tf6 => taper Float.tf6 h
where
  /-- Four lanes of a 16-bit format into F32. -/
  widen (f : Float.Fmt) (h : Nat) : FRes :=
    c.rounded Float.f32 (((decodeLanes f (c.a (.float f))).drop (4 * h) |>.take 4).map (Float.encode Float.f32 0))
  /-- Eight bytes of a tapered format into BF16; bits above the format are ignored. -/
  taper (t : Float.Taper) (h : Nat) : FRes :=
    c.rounded Float.bf16 (((lanes 8 (c.a (.taper t))).drop (8 * h) |>.take 8).map fun x =>
      Float.encode Float.bf16 0 (Float.decodeTaper t (x % 2 ^ (t.nb + 1))))

/-- CVTW: one firing. -/
def execCvtw (nf : NFmt) (w : FWord) (s : State) : Out := firing (.cvtw nf w) (evalCvtw nf) s

/-- CVTFI (R189): saturated; NaN gives 0. -/
def evalCvtfi (c : Fire) : FRes :=
  let v := packLanes 32 ((decodeLanes Float.f32 (c.a (.float Float.f32))).map fun x =>
    let n : Int := match x with
      | .nan => 0
      | .inf true => -2 ^ 31
      | .inf false => 2 ^ 31 - 1
      | .fin neg m e => Word.sat (Float.toInt c.mode neg m e) (-2 ^ 31) (2 ^ 31 - 1)
    (BitVec.ofInt 32 n).toNat)
  c.result v (condLane 32 v)

/-- CVTFI: one firing. -/
def execCvtfi (w : FWord) (s : State) : Out := firing (.cvtfi w) (evalCvtfi) s

/-- CVTIF (R189). -/
def evalCvtif (c : Fire) : FRes :=
  c.rounded Float.f32 ((lanes 32 (c.a (.int 32))).map fun x =>
    Float.encode Float.f32 c.mode (intVal (BitVec.ofNat 32 x).toInt))

/-- CVTIF: one firing. -/
def execCvtif (w : FWord) (s : State) : Out := firing (.cvtif w) (evalCvtif) s

/-! ### Lane reductions (R192) and DOT4.TF8 (R200) -/

/-- One lane, the others +0. -/
def lane0 (r : Float.Rounded) : List Float.Rounded := [r, { bits := 0 }, { bits := 0 }, { bits := 0 }]

/-- A rounded F32 sum. -/
def addF32 (md : Nat) (a b : Nat) : Float.Rounded :=
  Float.encode Float.f32 md (Float.add md (Float.decode Float.f32 a) (Float.decode Float.f32 b))

/-- LSUM.F32 (R83, R192). -/
def evalLsumF32 (c : Fire) : FRes :=
  let v := c.a (.float Float.f32)
  let l := fun k => lane 32 v k
  c.rounded Float.f32 (lane0 (addF32 c.mode (addF32 c.mode (l 0) (l 1)).bits (addF32 c.mode (l 2) (l 3)).bits))

/-- LSUM.F32: one firing. -/
def execLsumF32 (w : FWord) (s : State) : Out := firing (.lsumF32 w) (evalLsumF32) s

/-- LMAX.F32 (R186, R192). -/
def evalLmaxF32 (c : Fire) : FRes :=
  let v := c.a (.float Float.f32)
  let l := fun k => Float.decode Float.f32 (lane 32 v k)
  c.rounded Float.f32 (lane0 (Float.encode Float.f32 0 (Float.fmax (Float.fmax (l 0) (l 1)) (Float.fmax (l 2) (l 3)))))

/-- LMAX.F32: one firing. -/
def execLmaxF32 (w : FWord) (s : State) : Out := firing (.lmaxF32 w) (evalLmaxF32) s

/-- DOT4.TF8 (R200): the exact sum, rounded once. The sign of a sum that is exactly zero, which R185 gives for two addends, is
taken from one addend after another, C first and then the products in the order of q (DESIGN CHOICE, log entry 74). -/
def evalDot4Tf8 (c : Fire) : FRes :=
  let va := c.a (.taper Float.tf8)
  let vb := c.b (.taper Float.tf8)
  let vc := c.c (.float Float.f32)
  c.rounded Float.f32 ((List.range 4).map fun l =>
    let sum := (List.range 4).foldl (fun acc q =>
      Float.add c.mode acc (Float.mul (Float.decodeTaper Float.tf8 (lane 8 va (4 * l + q)))
        (Float.decodeTaper Float.tf8 (lane 8 vb (4 * l + q))))) (Float.decode Float.f32 (lane 32 vc l))
    Float.encode Float.f32 c.mode sum)

/-- DOT4.TF8: one firing. -/
def execDot4Tf8 (w : FWord) (s : State) : Out := firing (.dot4Tf8 w) (evalDot4Tf8) s

end Sys2Proof.Machine
end

