-- ==== Sys2Proof/Machine/FacetOps.lean ====
section
/-!
DEFINITION. Facet instructions without floating point: moves, steering and merging (R172 to R178), HALT
(R179), integers (R180 to R183), lanes (R190 to R192) and the system group (R193 to R199, R201).
-/
namespace Sys2Proof.Machine

/-- The token a forwarding instruction forwards: the head of the channel its A names (R168). -/
def Fire.forwarded (c : Fire) : Option Token :=
  match c.w.a with
  | .pop k => c.u.head k.val
  | .peek k => c.u.head k.val
  | _ => none

/-- The head of control input `k`, as a bit (R45). -/
def Fire.ctlBit (c : Fire) (k : Nat) : Bool :=
  match (c.u.cins.getD k []).head? with
  | some t => t.payload.getLsbD 0
  | none => false

/-- The 12-bit immediate in B and C (R140). -/
def imm12 (w : FWord) : BitVec 12 := BitVec.ofNat 12 (w.b.code * 64 + w.c.code)

/-- NOP (R172): only its predicate update. -/
def evalNop (c : Fire) : FRes :=
  .ok c.s {}

/-- NOP: one firing. -/
def execNop (w : FWord) (s : State) : Out := firing (.nop w) (evalNop) s

/-- MOV (R172): it forwards when A is a channel and D an output (R168). -/
def evalMov (c : Fire) : FRes :=
  let v := c.a .whole
  let fwd := match c.w.d with
    | .out _ => c.forwarded
    | _ => none
  .ok c.s { val := some v, cond := condWhole v, fwd := fwd }

/-- MOV: one firing. -/
def execMov (w : FWord) (s : State) : Out := firing (.mov w) (evalMov) s

/-- MOVI (R172). -/
def evalMovi (c : Fire) : FRes :=
  let v := (imm12 c.w).zeroExtend 128
  c.result v (condWhole v)

/-- MOVI: one firing. -/
def execMovi (w : FWord) (s : State) : Out := firing (.movi w) (evalMovi) s

/-- MOVIS (R172). -/
def evalMovis (c : Fire) : FRes :=
  let v := (imm12 c.w).signExtend 128
  c.result v (condWhole v)

/-- MOVIS: one firing. -/
def execMovis (w : FWord) (s : State) : Out := firing (.movis w) (evalMovis) s

/-- SEL (R172). -/
def evalSel (c : Fire) : FRes :=
  let m := c.c .whole
  let v := (c.a .whole &&& m) ||| (c.b .whole &&& ~~~m)
  c.result v (condWhole v)

/-- SEL: one firing. -/
def execSel (w : FWord) (s : State) : Out := firing (.sel w) (evalSel) s

/-- DROP (R172): the condition is A. -/
def evalDrop (c : Fire) : FRes :=
  .ok c.s { cond := condWhole (c.a .whole) }

/-- DROP: one firing. -/
def execDrop (w : FWord) (s : State) : Out := firing (.drop w) (evalDrop) s

/-- The number of the output that D names, and its partner (R173). -/
def outNum (o : Operand) : Nat :=
  match o with
  | .out k => k.val
  | _ => 0

def partner (k : Nat) : Nat := if k % 2 = 0 then k + 1 else k - 1

/-- STEER and STEERX (R173). -/
def steering (both : Bool) (c : Fire) : FRes :=
  let k := c.w.c.code
  let bit := c.ctlBit k
  let d := outNum c.w.d
  let dest := if bit then partner d else d
  let other := if bit then d else partner d
  let data : Emission := { port := dest, payload := c.a .whole }
  let null : Emission := { port := other, payload := 0, kind := 1, same := true }
  .ok c.s { emits := if both then [data, null] else [data], cond := bit, cpop := some k, fwd := c.forwarded }

/-- STEER (R173). -/
def evalSteer (c : Fire) : FRes :=
  steering false c

/-- STEER: one firing. -/
def execSteer (w : FWord) (s : State) : Out := firing (.steer w) (evalSteer) s

/-- STEERX (R173). -/
def evalSteerx (c : Fire) : FRes :=
  steering true c

/-- STEERX: one firing. -/
def execSteerx (w : FWord) (s : State) : Out := firing (.steerx w) (evalSteerx) s

/-- The word of a PRED_MISMATCH (R174): the control value, and the kinds at the heads of A and B (DEDUCED, log entry 47). -/
def mergeWord (bit : Bool) (a b : Nat) : Word64 := pack [(16, bit.toNat), (8, b), (0, a)]

/-- MERGE (R174): the heads of both inputs must agree with the control token. -/
def evalMerge (c : Fire) : FRes :=
  let k := c.w.c.code
  let bit := c.ctlBit k
  let ta := c.forwarded
  let tb := { c with w := { c.w with a := c.w.b } }.forwarded
  let taken := if bit then tb else ta
  let untaken := if bit then ta else tb
  match taken, untaken with
  | some t, some u =>
    if t.kind = 0 ∧ u.kind = 1 then
      .ok c.s { val := some t.payload, cond := bit, cpop := some k, fwd := some t }
    else .fault { cause := .predMismatch, other := mergeWord bit ((ta.map Token.kind).getD 0) ((tb.map Token.kind).getD 0) }
  | _, _ => .fault { cause := .predMismatch }

/-- MERGE: one firing. -/
def execMerge (w : FWord) (s : State) : Out := firing (.merge w) (evalMerge) s

/-- MERGEU (R175): A when its head is DATA, B otherwise; the control value is ignored. -/
def evalMergeu (c : Fire) : FRes :=
  let o := c.u.merged c.w
  let t := { c with w := { c.w with a := o } }.forwarded
  .ok c.s
    { val := t.map Token.payload, cond := o != c.w.a, cpop := some c.w.c.code, fwd := t
      pops := some (match o.channel with
        | some (k, _) => [k]
        | none => []) }

/-- MERGEU: one firing. -/
def execMergeu (w : FWord) (s : State) : Out := firing (.mergeu w) (evalMergeu) s

/-- EMITN (R177): one NULL. -/
def evalEmitn (c : Fire) : FRes :=
  .ok c.s { emits := [{ port := outNum c.w.d, payload := 0, kind := 1 }], fwd := c.forwarded }

/-- EMITN: one firing. -/
def execEmitn (w : FWord) (s : State) : Out := firing (.emitn w) (evalEmitn) s

/-- CTL (R178): the predicate as it stands before the firing. -/
def evalCtl (c : Fire) : FRes :=
  let bit := c.u.preds.getLsbD (c.w.a.code - 48)
  .ok c.s { emits := [{ port := 4 + c.w.c.code, payload := BitVec.ofNat 128 bit.toNat }], cond := bit }

/-- CTL: one firing. -/
def execCtl (w : FWord) (s : State) : Out := firing (.ctl w) (evalCtl) s

/-- HALT (R179): END on every declared output and control output; the whole chain finishes, and holds no token. Its condition, which
neither R166 nor R179 states, is 0 (DESIGN CHOICE, log entry 73). -/
def evalHalt (c : Fire) : FRes :=
  let ends := (List.range 6).filter fun o => c.u.outdecl.getLsbD o && c.u.pos == 0
  .ok c.s
    { emits := ends.map fun o => { port := o, payload := 0, kind := 2, raw := some 2 }
      post := fun u => { u with
        halted := true
        ins := [[], [], [], []]
        cins := [[], []]
        pres := u.pres &&& ~~~u.chreg } }

/-- HALT: one firing (DEDUCED, log entry 19). -/
def execHalt (w : FWord) (s : State) : Out := firing (.halt w) (evalHalt) s

/-! ### Integers (R180 to R183) -/

/-- An integer operation lane by lane (R180): `f` takes the size and the three lanes read unsigned. -/
def laneOp (f : Nat → Nat → Nat → Nat → Int) (sz : Size) (c : Fire) : FRes :=
  let n := sz.bits
  let va := c.a (.int n)
  let vb := c.b (.int n)
  let vc := c.c (.int n)
  let v := packLanes n ((List.range (128 / n)).map fun l =>
    (BitVec.ofInt n (f n (lane n va l) (lane n vb l) (lane n vc l))).toNat)
  c.result v (condLane n v)

/-- A lane of `n` bits read as signed. -/
def sgn (n x : Nat) : Int := (BitVec.ofNat n x).toInt

/-- ADD (R180). -/
def evalFacetAdd (sz : Size) (c : Fire) : FRes :=
  laneOp (fun _ a b _ => ((a + b : Nat) : Int)) sz c

/-- ADD: one firing. -/
def execFacetAdd (sz : Size) (w : FWord) (s : State) : Out := firing (.facetAdd sz w) (evalFacetAdd sz) s

/-- SUB (R180). -/
def evalFacetSub (sz : Size) (c : Fire) : FRes :=
  laneOp (fun _ a b _ => (a : Int) - b) sz c

/-- SUB: one firing. -/
def execFacetSub (sz : Size) (w : FWord) (s : State) : Out := firing (.facetSub sz w) (evalFacetSub sz) s

/-- ADDSS (R180). -/
def evalAddss (sz : Size) (c : Fire) : FRes :=
  laneOp (fun n a b _ => Word.sat (sgn n a + sgn n b) (-2 ^ (n - 1)) (2 ^ (n - 1) - 1)) sz c

/-- ADDSS: one firing. -/
def execAddss (sz : Size) (w : FWord) (s : State) : Out := firing (.addss sz w) (evalAddss sz) s

/-- ADDSZ (R180). -/
def evalAddsz (sz : Size) (c : Fire) : FRes :=
  laneOp (fun n a b _ => Word.sat ((a + b : Nat) : Int) 0 (2 ^ n - 1)) sz c

/-- ADDSZ: one firing. -/
def execAddsz (sz : Size) (w : FWord) (s : State) : Out := firing (.addsz sz w) (evalAddsz sz) s

/-- SUBSS (R180). -/
def evalSubss (sz : Size) (c : Fire) : FRes :=
  laneOp (fun n a b _ => Word.sat (sgn n a - sgn n b) (-2 ^ (n - 1)) (2 ^ (n - 1) - 1)) sz c

/-- SUBSS: one firing. -/
def execSubss (sz : Size) (w : FWord) (s : State) : Out := firing (.subss sz w) (evalSubss sz) s

/-- SUBSZ (R180). -/
def evalSubsz (sz : Size) (c : Fire) : FRes :=
  laneOp (fun n a b _ => Word.sat ((a : Int) - b) 0 (2 ^ n - 1)) sz c

/-- SUBSZ: one firing. -/
def execSubsz (sz : Size) (w : FWord) (s : State) : Out := firing (.subsz sz w) (evalSubsz sz) s

/-- MUL (R180). -/
def evalFacetMul (sz : Size) (c : Fire) : FRes :=
  laneOp (fun _ a b _ => ((a * b : Nat) : Int)) sz c

/-- MUL: one firing. -/
def execFacetMul (sz : Size) (w : FWord) (s : State) : Out := firing (.facetMul sz w) (evalFacetMul sz) s

/-- MULHS (R180). -/
def evalFacetMulhs (sz : Size) (c : Fire) : FRes :=
  laneOp (fun n a b _ => sgn n a * sgn n b / 2 ^ n) sz c

/-- MULHS: one firing. -/
def execFacetMulhs (sz : Size) (w : FWord) (s : State) : Out := firing (.facetMulhs sz w) (evalFacetMulhs sz) s

/-- MULHZ (R180). -/
def evalFacetMulhz (sz : Size) (c : Fire) : FRes :=
  laneOp (fun n a b _ => ((a * b / 2 ^ n : Nat) : Int)) sz c

/-- MULHZ: one firing. -/
def execFacetMulhz (sz : Size) (w : FWord) (s : State) : Out := firing (.facetMulhz sz w) (evalFacetMulhz sz) s

/-- MINS (R180). -/
def evalFacetMins (sz : Size) (c : Fire) : FRes :=
  laneOp (fun n a b _ => min (sgn n a) (sgn n b)) sz c

/-- MINS: one firing. -/
def execFacetMins (sz : Size) (w : FWord) (s : State) : Out := firing (.facetMins sz w) (evalFacetMins sz) s

/-- MINZ (R180). -/
def evalFacetMinz (sz : Size) (c : Fire) : FRes :=
  laneOp (fun _ a b _ => ((min a b : Nat) : Int)) sz c

/-- MINZ: one firing. -/
def execFacetMinz (sz : Size) (w : FWord) (s : State) : Out := firing (.facetMinz sz w) (evalFacetMinz sz) s

/-- MAXS (R180). -/
def evalFacetMaxs (sz : Size) (c : Fire) : FRes :=
  laneOp (fun n a b _ => max (sgn n a) (sgn n b)) sz c

/-- MAXS: one firing. -/
def execFacetMaxs (sz : Size) (w : FWord) (s : State) : Out := firing (.facetMaxs sz w) (evalFacetMaxs sz) s

/-- MAXZ (R180). -/
def evalFacetMaxz (sz : Size) (c : Fire) : FRes :=
  laneOp (fun _ a b _ => ((max a b : Nat) : Int)) sz c

/-- MAXZ: one firing. -/
def execFacetMaxz (sz : Size) (w : FWord) (s : State) : Out := firing (.facetMaxz sz w) (evalFacetMaxz sz) s

/-- ABS (R180). -/
def evalAbs (sz : Size) (c : Fire) : FRes :=
  laneOp (fun n a _ _ => ((sgn n a).natAbs : Int)) sz c

/-- ABS: one firing. -/
def execAbs (sz : Size) (w : FWord) (s : State) : Out := firing (.abs sz w) (evalAbs sz) s

/-- MAC (R180). -/
def evalMac (sz : Size) (c : Fire) : FRes :=
  laneOp (fun _ a b c => ((a * b + c : Nat) : Int)) sz c

/-- MAC: one firing. -/
def execMac (sz : Size) (w : FWord) (s : State) : Out := firing (.mac sz w) (evalMac sz) s

/-- CLZ (R180). -/
def evalFacetClz (sz : Size) (c : Fire) : FRes :=
  laneOp (fun n a _ _ => ((if a = 0 then n else n - 1 - Nat.log2 a : Nat) : Int)) sz c

/-- CLZ: one firing. -/
def execFacetClz (sz : Size) (w : FWord) (s : State) : Out := firing (.facetClz sz w) (evalFacetClz sz) s

/-- SHL (R182). -/
def evalFacetShl (sz : Size) (c : Fire) : FRes :=
  laneOp (fun n a b _ => ((if b ≥ n then 0 else a * 2 ^ b : Nat) : Int)) sz c

/-- SHL: one firing. -/
def execFacetShl (sz : Size) (w : FWord) (s : State) : Out := firing (.facetShl sz w) (evalFacetShl sz) s

/-- SHRZ (R182). -/
def evalFacetShrz (sz : Size) (c : Fire) : FRes :=
  laneOp (fun n a b _ => ((if b ≥ n then 0 else a / 2 ^ b : Nat) : Int)) sz c

/-- SHRZ: one firing. -/
def execFacetShrz (sz : Size) (w : FWord) (s : State) : Out := firing (.facetShrz sz w) (evalFacetShrz sz) s

/-- SHRS (R182). -/
def evalFacetShrs (sz : Size) (c : Fire) : FRes :=
  laneOp (fun n a b _ => sgn n a / 2 ^ min b (n - 1)) sz c

/-- SHRS: one firing. -/
def execFacetShrs (sz : Size) (w : FWord) (s : State) : Out := firing (.facetShrs sz w) (evalFacetShrs sz) s

/-- A compare lane by lane: all ones where the test holds (R183). -/
def laneTest (f : Nat → Nat → Nat → Bool) (sz : Size) (c : Fire) : FRes :=
  let n := sz.bits
  let va := c.a (.int n)
  let vb := c.b (.int n)
  let v := packLanes n ((List.range (128 / n)).map fun l =>
    if f n (lane n va l) (lane n vb l) then 2 ^ n - 1 else 0)
  c.result v (condCompare v)

/-- CMPEQ (R183). -/
def evalCmpeq (sz : Size) (c : Fire) : FRes :=
  laneTest (fun _ a b => a == b) sz c

/-- CMPEQ: one firing. -/
def execCmpeq (sz : Size) (w : FWord) (s : State) : Out := firing (.cmpeq sz w) (evalCmpeq sz) s

/-- CMPLTS (R183). -/
def evalCmplts (sz : Size) (c : Fire) : FRes :=
  laneTest (fun n a b => decide (sgn n a < sgn n b)) sz c

/-- CMPLTS: one firing. -/
def execCmplts (sz : Size) (w : FWord) (s : State) : Out := firing (.cmplts sz w) (evalCmplts sz) s

/-- CMPLTZ (R183). -/
def evalCmpltz (sz : Size) (c : Fire) : FRes :=
  laneTest (fun _ a b => decide (a < b)) sz c

/-- CMPLTZ: one firing. -/
def execCmpltz (sz : Size) (w : FWord) (s : State) : Out := firing (.cmpltz sz w) (evalCmpltz sz) s

/-- TEST (R183). -/
def evalTest (sz : Size) (c : Fire) : FRes :=
  laneTest (fun _ a b => a &&& b != 0) sz c

/-- TEST: one firing. -/
def execTest (sz : Size) (w : FWord) (s : State) : Out := firing (.test sz w) (evalTest sz) s

/-- A whole-register operation (R181). -/
def wholeOp (f : Word128 → Word128 → Word128) (c : Fire) : FRes :=
  let v := f (c.a .whole) (c.b .whole)
  c.result v (condWhole v)

/-- AND (R181). -/
def evalFacetAnd (c : Fire) : FRes :=
  wholeOp (fun x y => x &&& y) c

/-- AND: one firing. -/
def execFacetAnd (w : FWord) (s : State) : Out := firing (.facetAnd w) (evalFacetAnd) s

/-- OR (R181). -/
def evalFacetOr (c : Fire) : FRes :=
  wholeOp (fun x y => x ||| y) c

/-- OR: one firing. -/
def execFacetOr (w : FWord) (s : State) : Out := firing (.facetOr w) (evalFacetOr) s

/-- XOR (R181). -/
def evalFacetXor (c : Fire) : FRes :=
  wholeOp (fun x y => x ^^^ y) c

/-- XOR: one firing. -/
def execFacetXor (w : FWord) (s : State) : Out := firing (.facetXor w) (evalFacetXor) s

/-- ANDN (R181). -/
def evalFacetAndn (c : Fire) : FRes :=
  wholeOp (fun x y => x &&& ~~~y) c

/-- ANDN: one firing. -/
def execFacetAndn (w : FWord) (s : State) : Out := firing (.facetAndn w) (evalFacetAndn) s

/-! ### Lanes (R190 to R192, R201) -/

/-- SHUF (R190). -/
def evalShuf (c : Fire) : FRes :=
  let pick := fun i : Nat =>
    let x := lane 8 (c.b .whole) i
    if x ≥ 128 then 0
    else if x / 16 % 2 = 0 then lane 8 (c.a .whole) (x % 16) else lane 8 (c.c .whole) (x % 16)
  let v := packLanes 8 ((List.range 16).map pick)
  c.result v (condWhole v)

/-- SHUF: one firing. -/
def execShuf (w : FWord) (s : State) : Out := firing (.shuf w) (evalShuf) s

/-- BCAST (R191). -/
def evalBcast (c : Fire) : FRes :=
  let v := packLanes 32 (List.replicate 4 (lane 32 (c.a .whole) (c.w.b.code - 48)))
  c.result v (condWhole v)

/-- BCAST: one firing. -/
def execBcast (w : FWord) (s : State) : Out := firing (.bcast w) (evalBcast) s

/-- EXTR (R191). -/
def evalExtr (c : Fire) : FRes :=
  let k := (c.c .whole).toNat % 16
  let v := ((c.b .whole ++ c.a .whole) >>> (8 * k)).extractLsb' 0 128
  c.result v (condWhole v)

/-- EXTR: one firing. -/
def execExtr (w : FWord) (s : State) : Out := firing (.extr w) (evalExtr) s

/-- LSUM.W (R192). -/
def evalLsumW (c : Fire) : FRes :=
  let v := packLanes 32 [(lanes 32 (c.a (.int 32))).foldl (fun n x => n + x) 0 % 2 ^ 32]
  c.result v (condLane 32 v)

/-- LSUM.W: one firing. -/
def execLsumW (w : FWord) (s : State) : Out := firing (.lsumW w) (evalLsumW) s

/-- A number put into a list sorted by its signed reading, after equal ones (R201). -/
def insertSigned (x : Nat) : List Nat → List Nat
  | [] => [x]
  | y :: ys => if sgn 32 x < sgn 32 y then x :: y :: ys else y :: insertSigned x ys

/-- SORT4.W (R201). -/
def evalSort4W (c : Fire) : FRes :=
  let v := packLanes 32 ((lanes 32 (c.a (.int 32))).foldl (fun l x => insertSigned x l) [])
  c.result v (condLane 32 v)

/-- SORT4.W: one firing. -/
def execSort4W (w : FWord) (s : State) : Out := firing (.sort4W w) (evalSort4W) s

/-! ### The system group (R193 to R199) -/

/-- TRAP (R193): the code is bits 15:0 of lane 0 of A, which is read whole (DESIGN CHOICE, log entry 40). -/
def evalTrap (c : Fire) : FRes :=
  .fault { cause := .trapInsn, info := (c.a .whole).extractLsb' 0 16 }

/-- TRAP: one firing. -/
def execTrap (w : FWord) (s : State) : Out := firing (.trap w) (evalTrap) s

/-- BRK (R194). -/
def evalBrk (_ : Fire) : FRes :=
  faultWith .brk

/-- BRK: one firing. -/
def execBrk (w : FWord) (s : State) : Out := firing (.brk w) (evalBrk) s

/-- RDCNT (R195): a counter of the last completed window. -/
def evalRdcnt (c : Fire) : FRes :=
  let k := c.w.b.code - 48
  let n := match k with
    | 0 => c.lead.last.firings
    | 1 => c.lead.last.full
    | 2 => c.lead.last.blocked
    | k => if k < 7 then c.lead.last.ins.getD (k - 3) 0 else c.lead.last.outs.getD (k - 7) 0
  let win := match c.s.inst? c.u.inst with
    | some i => if i.winDone = 0 then 0 else (i.winIndex - 1).toNat
    | none => 0
  c.result (BitVec.ofNat 128 (win * 2 ^ 64 + n % 2 ^ 64)) (n != 0)

/-- RDCNT: one firing (DEDUCED, log entry 38). -/
def execRdcnt (w : FWord) (s : State) : Out := firing (.rdcnt w) (evalRdcnt) s

/-- The layout version at which a firing executes (R198). -/
def Fire.layver (c : Fire) : Nat :=
  match c.s.inst? c.u.inst with
  | some i =>
    match i.ctl.wave with
    | some wv => if wv.switched.any fun p => p.1 == c.u.node then i.layver.toNat + 1 else i.layver.toNat
    | none => i.layver.toNat
  | none => 0

/-- The identity word of RDST (R196). -/
def Fire.identity (c : Fire) : Word128 :=
  let (ctx, part) := match c.s.inst? c.u.inst with
    | some i => (i.ctx.toNat, i.part)
    | none => (0, 0)
  BitVec.ofNat 128 (c.layver % 2 ^ 32 * 2 ^ 64 + ctx * 2 ^ 52 + part * 2 ^ 46 + c.u.region * 2 ^ 30 + c.u.rank * 2 ^ 24 +
    c.u.clone * 4096 + c.u.node)

/-- CYCLE as a firing reads it: in a chain, of the clk in which the member fires (R49). -/
def Fire.cycle (c : Fire) : Nat := ({ c.s with clk := c.u.firedAt.getD c.s.clk } : State).cycle

/-- RDST (R196). -/
def evalRdst (c : Fire) : FRes :=
  let v := match c.w.b.code - 48 with
    | 0 => c.identity
    | 1 => BitVec.ofNat 128 (c.s.nanojoules c.u.region % 2 ^ 64)
    | _ => BitVec.ofNat 128 (c.cycle % 2 ^ 64)
  c.result v (condWhole v)

/-- RDST: one firing. -/
def execRdst (w : FWord) (s : State) : Out := firing (.rdst w) (evalRdst) s

/-- SETPV (R197): the mask and the values in bits 15:0 of lane 0 of A, which is read whole: LANEID is q in a follower (DESIGN
CHOICE, log entry 40). -/
def evalSetpv (c : Fire) : FRes :=
  let x := c.a .whole
  let m := x.extractLsb' 8 8
  .ok c.s { setp := some (m, x.extractLsb' 0 8), cond := m != 0 }

/-- SETPV: one firing. -/
def execSetpv (w : FWord) (s : State) : Out := firing (.setpv w) (evalSetpv) s

/-- GETP (R197): the predicates before the firing. -/
def evalGetp (c : Fire) : FRes :=
  let v := c.u.preds.zeroExtend 128
  c.result v (condWhole v)

/-- GETP: one firing. -/
def execGetp (w : FWord) (s : State) : Out := firing (.getp w) (evalGetp) s

/-- BEAT (R198): the progress timer of the instance's queue restarts. -/
def evalBeat (c : Fire) : FRes :=
  match c.s.inst? c.u.inst with
  | some i => .ok (c.s.beat i.queue) {}
  | none => .ok c.s {}

/-- BEAT: one firing. -/
def execBeat (w : FWord) (s : State) : Out := firing (.beat w) (evalBeat) s

/-- LAYV (R198). -/
def evalLayv (c : Fire) : FRes :=
  let v := BitVec.ofNat 128 (c.layver % 2 ^ 32)
  c.result v (condWhole v)

/-- LAYV: one firing. -/
def execLayv (w : FWord) (s : State) : Out := firing (.layv w) (evalLayv) s

/-- SEQ (R199): in a source node the counter goes on from the value. B is read whole (DESIGN CHOICE, log entry 40). -/
def evalSeq (c : Fire) : FRes :=
  let o := c.w.a.code - 48
  let v := (c.b .whole).extractLsb' 0 16
  .ok c.s
    { post := fun u => { u with
        seqnext := u.seqnext.set o (some v)
        seqcnt := if u.indecl.toNat % 16 = 0 then u.seqcnt.set o (v + 1) else u.seqcnt } }

/-- SEQ: one firing. -/
def execSeq (w : FWord) (s : State) : Out := firing (.seq w) (evalSeq) s

/-- SETTAG (R199). B is read whole (DESIGN CHOICE, log entry 40). -/
def evalSettag (c : Fire) : FRes :=
  let o := c.w.a.code - 48
  .ok c.s { post := fun u => { u with tagreg := u.tagreg.set o ((c.b .whole).extractLsb' 0 2) } }

/-- SETTAG: one firing. -/
def execSettag (w : FWord) (s : State) : Out := firing (.settag w) (evalSettag) s

end Sys2Proof.Machine
end

