-- ==== Sys2Proof/Machine/Integer.lean ====
section
/-!
DEFINITION. The conductor's arithmetic, branches, jumps, loads and stores (R213 to R218), and what decides a
conductor's next word (R142, R243, R386).
-/
namespace Sys2Proof.Machine

/-! ### Register operations (R213) -/

/-- An instruction `xd <- f xa xb` (R213). -/
def aluR (f : Word64 → Word64 → Word64) (d a b : Reg) (s : State) : Out :=
  conductor s fun r c => .done (s.setX r d (f (c.get a) (c.get b)))

/-- A number of 0 or 1. -/
def flag (b : Bool) : Word64 := if b then 1 else 0

/-- Leading zero bits of a number of `n` bits (R180, R213). -/
def leadingZeros (n x : Nat) : Nat := if x = 0 then n else n - 1 - Nat.log2 x

/-- One bits of a word (R213). -/
def popCount (x : Word64) : Nat := (List.range 64).foldl (fun n k => n + (x.getLsbD k).toNat) 0

/-- Division truncated toward zero; by 0 it gives -1 (R213). -/
def divS (a b : Word64) : Word64 :=
  if b = 0 then BitVec.allOnes 64 else BitVec.ofInt 64 (Int.tdiv a.toInt b.toInt)

/-- The remainder of `divS`; by 0 it gives the dividend (R213). -/
def remS (a b : Word64) : Word64 :=
  if b = 0 then a else BitVec.ofInt 64 (a.toInt - b.toInt * Int.tdiv a.toInt b.toInt)

/-- Unsigned division; by 0 it gives 2^64 - 1 (R213). -/
def divZ (a b : Word64) : Word64 := if b = 0 then BitVec.allOnes 64 else BitVec.ofNat 64 (a.toNat / b.toNat)

/-- The remainder of `divZ`; by 0 it gives the dividend (R213). -/
def remZ (a b : Word64) : Word64 := if b = 0 then a else BitVec.ofNat 64 (a.toNat % b.toNat)

/-- The low 32 bits sign-extended (R213). -/
def sextW (x : Word64) : Word64 := (x.extractLsb' 0 32).signExtend 64

/-- ADD (R213). -/
def execAdd (d a b : Reg) (s : State) : Out := aluR (fun a b => a + b) d a b s

/-- SUB (R213). -/
def execSub (d a b : Reg) (s : State) : Out := aluR (fun a b => a - b) d a b s

/-- AND (R213). -/
def execAnd (d a b : Reg) (s : State) : Out := aluR (fun a b => a &&& b) d a b s

/-- OR (R213). -/
def execOr (d a b : Reg) (s : State) : Out := aluR (fun a b => a ||| b) d a b s

/-- XOR (R213). -/
def execXor (d a b : Reg) (s : State) : Out := aluR (fun a b => a ^^^ b) d a b s

/-- ANDN (R213). -/
def execAndn (d a b : Reg) (s : State) : Out := aluR (fun a b => a &&& ~~~b) d a b s

/-- SHL (R213). -/
def execShl (d a b : Reg) (s : State) : Out := aluR (fun a b => a <<< (b.toNat % 64)) d a b s

/-- SHRZ (R213). -/
def execShrz (d a b : Reg) (s : State) : Out := aluR (fun a b => a >>> (b.toNat % 64)) d a b s

/-- SHRS (R213). -/
def execShrs (d a b : Reg) (s : State) : Out := aluR (fun a b => a.sshiftRight (b.toNat % 64)) d a b s

/-- MUL (R213). -/
def execMul (d a b : Reg) (s : State) : Out := aluR (fun a b => a * b) d a b s

/-- MULHS (R213). -/
def execMulhs (d a b : Reg) (s : State) : Out := aluR (fun a b => BitVec.ofInt 64 ((a.toInt * b.toInt) / 2 ^ 64)) d a b s

/-- MULHZ (R213). -/
def execMulhz (d a b : Reg) (s : State) : Out := aluR (fun a b => BitVec.ofNat 64 (a.toNat * b.toNat / 2 ^ 64)) d a b s

/-- DIVS (R213). -/
def execDivs (d a b : Reg) (s : State) : Out := aluR (fun a b => divS a b) d a b s

/-- DIVZ (R213). -/
def execDivz (d a b : Reg) (s : State) : Out := aluR (fun a b => divZ a b) d a b s

/-- REMS (R213). -/
def execRems (d a b : Reg) (s : State) : Out := aluR (fun a b => remS a b) d a b s

/-- REMZ (R213). -/
def execRemz (d a b : Reg) (s : State) : Out := aluR (fun a b => remZ a b) d a b s

/-- SLTS (R213). -/
def execSlts (d a b : Reg) (s : State) : Out := aluR (fun a b => flag (a.slt b)) d a b s

/-- SLTZ (R213). -/
def execSltz (d a b : Reg) (s : State) : Out := aluR (fun a b => flag (a.ult b)) d a b s

/-- MINS (R213). -/
def execMins (d a b : Reg) (s : State) : Out := aluR (fun a b => if b.slt a then b else a) d a b s

/-- MAXS (R213). -/
def execMaxs (d a b : Reg) (s : State) : Out := aluR (fun a b => if a.slt b then b else a) d a b s

/-- MINZ (R213). -/
def execMinz (d a b : Reg) (s : State) : Out := aluR (fun a b => if b.ult a then b else a) d a b s

/-- MAXZ (R213). -/
def execMaxz (d a b : Reg) (s : State) : Out := aluR (fun a b => if a.ult b then b else a) d a b s

/-- ADDW (R213). -/
def execAddw (d a b : Reg) (s : State) : Out := aluR (fun a b => sextW (a + b)) d a b s

/-- SUBW (R213). -/
def execSubw (d a b : Reg) (s : State) : Out := aluR (fun a b => sextW (a - b)) d a b s

/-- CLZ (R213). -/
def execClz (d a : Reg) (s : State) : Out := aluR (fun a _ => BitVec.ofNat 64 (leadingZeros 64 a.toNat)) d a 0 s

/-- POPC (R213). -/
def execPopc (d a : Reg) (s : State) : Out := aluR (fun a _ => BitVec.ofNat 64 (popCount a)) d a 0 s

/-- SELNZ (R213): xd keeps its value when xb is 0. -/
def execSelnz (d a b : Reg) (s : State) : Out :=
  conductor s fun r c => .done (if c.get b = 0 then s else s.setX r d (c.get a))

/-! ### Immediates (R214) -/

/-- An instruction `xd <- f xa` with an immediate already in `f` (R214). -/
def aluI (f : Word64 → Word64) (d a : Reg) (s : State) : Out :=
  conductor s fun r c => .done (s.setX r d (f (c.get a)))

/-- ADDI (R214). -/
def execAddi (d a : Reg) (imm : BitVec 16) (s : State) : Out := aluI (fun x => x + imm.signExtend 64) d a s

/-- ANDI (R214). -/
def execAndi (d a : Reg) (imm : BitVec 16) (s : State) : Out := aluI (fun x => x &&& imm.zeroExtend 64) d a s

/-- ORI (R214). -/
def execOri (d a : Reg) (imm : BitVec 16) (s : State) : Out := aluI (fun x => x ||| imm.zeroExtend 64) d a s

/-- XORI (R214). -/
def execXori (d a : Reg) (imm : BitVec 16) (s : State) : Out := aluI (fun x => x ^^^ imm.zeroExtend 64) d a s

/-- SLTI (R214). -/
def execSlti (d a : Reg) (imm : BitVec 16) (s : State) : Out := aluI (fun x => flag (x.slt (imm.signExtend 64))) d a s

/-- SLTIZ (R214). -/
def execSltiz (d a : Reg) (imm : BitVec 16) (s : State) : Out := aluI (fun x => flag (x.ult (imm.signExtend 64))) d a s

/-- INS16 (R214). -/
def execIns16 (d a : Reg) (imm : BitVec 16) (s : State) : Out := aluI (fun x => (x <<< 16) ||| imm.zeroExtend 64) d a s

/-- A shift of kind `k` by `n` (R213, R214). -/
def shiftBy (k : ShiftKind) (n : Nat) (x : Word64) : Word64 :=
  match k with
  | .shl => x <<< n
  | .shrz => x >>> n
  | .shrs => x.sshiftRight n

/-- SHI (R214). -/
def execShi (d a : Reg) (k : ShiftKind) (n : BitVec 6) (s : State) : Out := aluI (shiftBy k n.toNat) d a s

/-- LUI (R214). -/
def execLui (d : Reg) (imm : BitVec 16) (s : State) : Out :=
  aluI (fun _ => (imm ++ (0 : BitVec 16)).signExtend 64) d 0 s

/-- ADDPC (R214). -/
def execAddpc (d : Reg) (imm : BitVec 16) (s : State) : Out :=
  conductor s fun r c => .done (s.setX r d (c.pc + 4 + imm.signExtend 64 * 4))

/-! ### Branches and jumps (R215, R216) -/

/-- A taken branch or jump to `t`, `s` holding its other writes (R216). -/
def goTo (s : State) (t : Word64) : CondRes :=
  if Word.field t 63 56 ≠ 0 then trapAt .addressForm t
  else if t.toNat % 4 ≠ 0 then trapAt .misalign t
  else .jump s t

/-- A conditional branch (R142, R215). -/
def branch (test : Word64 → Word64 → Bool) (a b : Reg) (disp : BitVec 16) (s : State) : Out :=
  conductor s fun _ c =>
    if test (c.get a) (c.get b) then goTo s (c.pc + 4 + disp.signExtend 64 * 4) else .done s

/-- BEQ (R215). -/
def execBeq (a b : Reg) (disp : BitVec 16) (s : State) : Out := branch (fun x y => x == y) a b disp s

/-- BNE (R215). -/
def execBne (a b : Reg) (disp : BitVec 16) (s : State) : Out := branch (fun x y => x != y) a b disp s

/-- BLTS (R215). -/
def execBlts (a b : Reg) (disp : BitVec 16) (s : State) : Out := branch (fun x y => x.slt y) a b disp s

/-- BGES (R215). -/
def execBges (a b : Reg) (disp : BitVec 16) (s : State) : Out := branch (fun x y => !x.slt y) a b disp s

/-- BLO (R215). -/
def execBlo (a b : Reg) (disp : BitVec 16) (s : State) : Out := branch (fun x y => x.ult y) a b disp s

/-- BHS (R215). -/
def execBhs (a b : Reg) (disp : BitVec 16) (s : State) : Out := branch (fun x y => !x.ult y) a b disp s

/-- J (R142, R216). -/
def execJ (disp : BitVec 26) (s : State) : Out :=
  conductor s fun _ c => goTo s (c.pc + 4 + disp.signExtend 64 * 4)

/-- JAL (R216): x31 takes the return address. -/
def execJal (disp : BitVec 26) (s : State) : Out :=
  conductor s fun r c => goTo (s.setX r 31 (c.pc + 4)) (c.pc + 4 + disp.signExtend 64 * 4)

/-- JALR (R216): the target is read before xd is written. -/
def execJalr (d a : Reg) (imm : BitVec 16) (s : State) : Out :=
  conductor s fun r c => goTo (s.setX r d (c.pc + 4)) (c.get a + imm.signExtend 64)

/-! ### Loads and stores (R217, R218) -/

/-- A load of `n` bytes into xd through `ext` (R217). -/
def load (n : Nat) (ext : Nat → Word64) (d a : Reg) (imm : BitVec 16) (s : State) : Out :=
  conductor s fun r c =>
    (s.condLoad r c (c.get a + imm.signExtend 64) n).cond fun s bs => .done (s.setX r d (ext (Word.ofBytes bs)))

/-- A number of `n` bits sign-extended. -/
def sextN (n v : Nat) : Word64 := (BitVec.ofNat n v).signExtend 64

/-- LDB (R217). -/
def execLdb (d a : Reg) (imm : BitVec 16) (s : State) : Out := load 1 (sextN 8) d a imm s

/-- LDH (R217). -/
def execLdh (d a : Reg) (imm : BitVec 16) (s : State) : Out := load 2 (sextN 16) d a imm s

/-- LDW (R217). -/
def execLdw (d a : Reg) (imm : BitVec 16) (s : State) : Out := load 4 (sextN 32) d a imm s

/-- LDD (R217). -/
def execLdd (d a : Reg) (imm : BitVec 16) (s : State) : Out := load 8 (BitVec.ofNat 64) d a imm s

/-- LDBZ (R217). -/
def execLdbz (d a : Reg) (imm : BitVec 16) (s : State) : Out := load 1 (BitVec.ofNat 64) d a imm s

/-- LDHZ (R217). -/
def execLdhz (d a : Reg) (imm : BitVec 16) (s : State) : Out := load 2 (BitVec.ofNat 64) d a imm s

/-- LDWZ (R217). -/
def execLdwz (d a : Reg) (imm : BitVec 16) (s : State) : Out := load 4 (BitVec.ofNat 64) d a imm s

/-- A store of the low `n` bytes of xd (R218). -/
def store (n : Nat) (d a : Reg) (imm : BitVec 16) (s : State) : Out :=
  conductor s fun r c =>
    (s.condStore r c (c.get a + imm.signExtend 64) (Word.toBytes n (c.get d).toNat)).cond fun s _ => .done s

/-- STB (R218). -/
def execStb (d a : Reg) (imm : BitVec 16) (s : State) : Out := store 1 d a imm s

/-- STH (R218). -/
def execSth (d a : Reg) (imm : BitVec 16) (s : State) : Out := store 2 d a imm s

/-- STW (R218). -/
def execStw (d a : Reg) (imm : BitVec 16) (s : State) : Out := store 4 d a imm s

/-- STD (R218). -/
def execStd (d a : Reg) (imm : BitVec 16) (s : State) : Out := store 8 d a imm s

end Sys2Proof.Machine
end

