-- ==== Sys2Proof/Machine/Atomic.lean ====
section
/-!
DEFINITION. The atomics' operations (R131, R219, R295) and the conductor's AMO instructions (R219).
-/
namespace Sys2Proof.Machine

/-- A number of `n` bits read as signed. -/
def signedN (n v : Nat) : Int := (BitVec.ofNat n v).toInt

/-- The atomic operations that return an old value and store a new one (R131), by the AMO code of R144. -/
def atomicNew (code bits : Nat) (v expected old : Nat) : Option Nat :=
  match code with
  | 0 => some ((old + v) % 2 ^ bits)
  | 1 => some (old &&& v)
  | 2 => some (old ||| v)
  | 3 => some (old ^^^ v)
  | 4 => some (if signedN bits v < signedN bits old then v else old)
  | 5 => some (if signedN bits old < signedN bits v then v else old)
  | 6 => some (min old v)
  | 7 => some (max old v)
  | 8 => some v
  | 9 => if old = expected then some v else none
  | _ => some (Float.encode Float.f32 0
      (Float.add 0 (Float.decode Float.f32 old) (Float.decode Float.f32 v))).bits

/-- AMO (R219): xa is the address, xb the operand, xd the value expected by CAS and the old value after. The
line of the L1 that holds the unit is invalidated (R97). -/
def amo (code : Nat) (d a b : Reg) (wide : Bool) (lvl : Level) (s : State) : Out :=
  conductor s fun r c =>
    let n := if wide then 8 else 4
    let va := c.get a
    let v := (c.get b).toNat % 2 ^ (8 * n)
    let e := (c.get d).toNat % 2 ^ (8 * n)
    let x := s.condActor r c
    let pay := Word.toBytes 8 v ++ Word.toBytes 8 e
    (s.atomic x (fun s => s.target x va n true true) va n (s.condScope r lvl.val) (atomicNew code (8 * n) v e)
      (code + 16 * wide.toNat) pay (code != 10)).cond fun s old =>
      let s := match s.translate x.region x.ctx va.toNat { write := true, sys := x.sys } with
        | .ok pa => s.modCond r fun k => { k with l1 := k.l1.filter fun l => l.addr != pa % 2 ^ 44 / 128 * 128 }
        | _ => s
      .done (s.setX r d (sextN (8 * n) old))

/-- AMO.ADD (R219). -/
def execAmoAdd (d a b : Reg) (wide : Bool) (lvl : Level) (s : State) : Out := amo 0 d a b wide lvl s

/-- AMO.AND (R219). -/
def execAmoAnd (d a b : Reg) (wide : Bool) (lvl : Level) (s : State) : Out := amo 1 d a b wide lvl s

/-- AMO.OR (R219). -/
def execAmoOr (d a b : Reg) (wide : Bool) (lvl : Level) (s : State) : Out := amo 2 d a b wide lvl s

/-- AMO.XOR (R219). -/
def execAmoXor (d a b : Reg) (wide : Bool) (lvl : Level) (s : State) : Out := amo 3 d a b wide lvl s

/-- AMO.MINS (R219). -/
def execAmoMins (d a b : Reg) (wide : Bool) (lvl : Level) (s : State) : Out := amo 4 d a b wide lvl s

/-- AMO.MAXS (R219). -/
def execAmoMaxs (d a b : Reg) (wide : Bool) (lvl : Level) (s : State) : Out := amo 5 d a b wide lvl s

/-- AMO.MINZ (R219). -/
def execAmoMinz (d a b : Reg) (wide : Bool) (lvl : Level) (s : State) : Out := amo 6 d a b wide lvl s

/-- AMO.MAXZ (R219). -/
def execAmoMaxz (d a b : Reg) (wide : Bool) (lvl : Level) (s : State) : Out := amo 7 d a b wide lvl s

/-- AMO.XCHG (R219). -/
def execAmoXchg (d a b : Reg) (wide : Bool) (lvl : Level) (s : State) : Out := amo 8 d a b wide lvl s

/-- AMO.CAS (R219). -/
def execAmoCas (d a b : Reg) (wide : Bool) (lvl : Level) (s : State) : Out := amo 9 d a b wide lvl s

/-- AMO.FADD (R219): F32, rounded to nearest even, subnormals exact; ACCESS on a scratchpad address. -/
def execAmoFadd (d a b : Reg) (lvl : Level) (s : State) : Out := amo 10 d a b false lvl s

end Sys2Proof.Machine
end

