-- ==== Sys2Proof/Machine/Handles.lean ====
section
/-!
DEFINITION. Handles and their slots (R280 to R286): the state word, the changes of state, fills, and the
arrival tokens.
-/
namespace Sys2Proof.Machine

/-! ### The state word -/

/-- The code of a slot's state (R282). -/
def slotCode : SlotState → Nat
  | .free => 0
  | .reserved => 1
  | .filling => 2
  | .full => 3
  | .draining => 4
  | .aborted => 5

/-- HSTAT (R282). -/
def Handle.hstat (h : Handle) (sl : Nat) : Word64 :=
  let x := h.slot sl
  pack [(32, x.wptr), (10, h.fmt), (9, x.poison.toNat), (8, x.oob.toNat), (3, sl), (0, slotCode x.state)]

/-- Handle `n` of region `r` as an agent of context `ctx` may use it; `none` is ACCESS (R281). -/
def State.handleFor (s : State) (r n : Nat) (ctx : BitVec 12) : Option Handle :=
  match s.handle? r n with
  | some h => if h.ctx = ctx then some h else none
  | none => none

/-- `s` with slot `sl` of handle `n` changed by `f`. -/
def State.modSlot (s : State) (r n sl : Nat) (f : HSlot → HSlot) : State :=
  s.modHandle r n fun h => { h with slots := h.slots.modify sl f }

/-- Whether a slot counts as FREE: not in the clk in which it became so (R286). -/
def State.isFree (s : State) (x : HSlot) : Bool := x.state == .free && x.freedAt != some s.clk

/-- A handle's lowest slot that counts as FREE. -/
def State.freeSlot (s : State) (h : Handle) : Option Nat :=
  (List.range h.slots.length).find? fun k => s.isFree (h.slot k)

/-! ### Changes of state (R283) -/

/-- A slot in its new state; FREE clears WPTR, OOB and POISON and raises GEN. -/
def HSlot.become (x : HSlot) (clk : Nat) (st : SlotState) : HSlot :=
  match st with
  | .free =>
    { x with
      state := .free, wptr := 0, oob := false, poison := false, gen := x.gen + 1, holder := none
      freedAt := some clk, lastPort := none, seenFail := none, idle := 0 }
  | .full => { x with state := .full, fullAt := clk }
  | st => { x with state := st }

/-- A slot changes state; a conductor of the region that waits in WFI wakes (R242). -/
def State.slotTo (s : State) (r n sl : Nat) (st : SlotState) : State :=
  match s.handle? r n with
  | none => s
  | some h =>
    if (h.slot sl).state = st then s
    else (s.modSlot r n sl fun x => x.become s.clk st).wake r

/-- What happens before the next fill of slot `sl` of a handle once agent `a` has freed it (R132): of a facet or a
conductor its accesses to the slot's bytes that are still tracked, with what happened before each; of an engine, whose
accesses are not tracked, what it knew. -/
def State.slotAccesses (s : State) (h : Handle) (sl : Nat) (a : Agent) : VClock :=
  match a with
  | .engine _ _ => (s.hbOf a).vc
  | _ =>
    (s.tracked.filter fun p => p.2.agent == a &&
      overlaps p.2.space p.2.addr p.2.len 1 (h.key sl) h.bytes).foldl
      (fun v p => (v.join p.2.known).single a p.2.epoch) {}

/-- A slot freed by agent `a`: its earlier accesses to the slot come before the next fill (R132). A slot that is FILLING
or FREE stays as it is (R283). -/
def State.freeBy (s : State) (r n sl : Nat) (a : Agent) : State :=
  match s.handle? r n with
  | none => s
  | some h =>
    if (h.slot sl).state = .filling ∨ (h.slot sl).state = .free then s
    else (s.slotTo r n sl .free).modSlot r n sl fun x => { x with vc := x.vc.join (s.slotAccesses h sl a) }

/-- An operand's slot freed by the island that consumed it: from FULL, DRAINING or ABORTED (R283). -/
def State.consumeSlot (s : State) (r n sl : Nat) (a : Agent) : State :=
  match s.handle? r n with
  | some h => if (h.slot sl).state = .reserved then s else s.freeBy r n sl a
  | none => s

/-- An event took effect on a slot that HFREE or RELEASE of the same clk would have come before (R286). -/
def State.met (s : State) (r n sl : Nat) : State := s.modSlot r n sl fun x => { x with metAt := some s.clk }

/-! ### Arrival tokens (R284) -/

/-- The arrival token of a slot as it stands. -/
def Handle.arrival (h : Handle) (sl : Nat) : Token :=
  let x := h.slot sl
  { payload := BitVec.ofNat 128 (h.num + sl * 256 + x.oob.toNat * 4096 +
      (if x.state = .aborted then 8192 else 0) + x.poison.toNat * 16384)
    side := sideOf 0 h.arrCount false 0 0
    vc := x.vc }

/-- The arrival token is due to the handle's target, if it has one. -/
def State.arrive (s : State) (r n sl : Nat) : State :=
  s.modHandle r n fun h =>
    if h.arr = 0 then h
    else { h with arrQueue := h.arrQueue ++ [h.arrival sl], arrCount := h.arrCount + 1 }

/-- A slot becomes ABORTED, which sends an arrival token (R284). -/
def State.abort (s : State) (r n sl : Nat) : State := (s.slotTo r n sl .aborted).arrive r n sl

/-! ### Fills (R284, R285) -/

/-- The poison of bytes written in a slot from key `k`. -/
def State.taintRun (s : State) (k : Nat) : List (Byte × Bool) → State
  | [] => s
  | b :: bs => (if b.2 then s.taintSpad k 1 else s).taintRun (k + 1) bs

/-- Bytes delivered at a slot's write pointer, which rises past them. -/
def State.deliver (s : State) (r n sl : Nat) (bs : List (Byte × Bool)) : State :=
  match s.handle? r n with
  | none => s
  | some h =>
    let k := h.key sl + (h.slot sl).wptr
    let s := (s.writeSpad k (bs.map Prod.fst)).taintRun k bs
    s.modSlot r n sl fun x =>
      { x with wptr := x.wptr + bs.length, poison := x.poison || bs.any Prod.snd }

/-- A fill delivers bytes; at BYTES the slot is FULL at once and its arrival token is due. -/
def State.fill (s : State) (r n sl : Nat) (bs : List (Byte × Bool)) : State :=
  let s := s.deliver r n sl bs
  match s.handle? r n with
  | none => s
  | some h =>
    if (h.slot sl).state = .filling ∧ (h.slot sl).wptr ≥ h.bytes then (s.slotTo r n sl .full).arrive r n sl
    else s

/-- The bytes of a slot from offset `o`, with their poison. -/
def State.slotBytes (s : State) (h : Handle) (sl o n : Nat) : List (Byte × Bool) :=
  (List.range n).map fun k =>
    let a := h.key sl + o + k
    (Memory.read s.spad a, s.spadPoisoned a 1)

end Sys2Proof.Machine
end

