-- ==== Sys2Proof/Machine/Deal.lean ====
section
/-!
DEFINITION. Tokens on the move: from a token buffer to its consumer (R40), into and out of a spill ring (R56),
through splitters and reorder merges (R308, R309), and from a handle to its arrival target (R284).
-/
namespace Sys2Proof.Machine

/-! ### Splitters (R309) -/

/-- `s` with that splitter changed by `f`. -/
def State.modSplitter (s : State) (inst node : Nat) (f : Splitter → Splitter) : State :=
  { s with splitters := (s.splitters.filter fun x => !(x.inst == inst && x.node == node)) ++
      [f (s.splitter inst node)] }

/-- The lowest-numbered declared input of a facet. -/
def FacetUnit.lowest (u : FacetUnit) : Nat := ((List.range 4).find? fun k => u.indecl.getLsbD k).getD 0

/-- Whether a node has a versioned arc into an input in mode REFIRE or FIRST. -/
def State.versionedIn (s : State) (u : FacetUnit) : Bool :=
  (List.range 4).any fun k =>
    u.mode k != 2 && match s.arcInto u.inst false u.node k with
      | some a => a.vs
      | none => false

/-- The key of a token: the payload word that KEY names (R152, R309). -/
def FacetUnit.keyOf (u : FacetUnit) (t : Token) : Nat :=
  let w := u.key.toNat % 4
  t.payload.toNat / 2 ^ (32 * w) % 2 ^ 32

/-- The clone for the `n`-th set of tokens, chosen at the lowest-numbered input (R309). -/
def State.choose (s : State) (u : FacetUnit) (n : Nat) (t : Token) : Nat :=
  let k := max (s.clonesOf u.inst u.node).length 1
  if s.versionedIn u then t.seq.toNat % k
  else if u.cls.toNat % 4 = 2 then u.keyOf t % k
  else n % 65536 % k

/-- A token delivered to every clone of a node, all of them or none. -/
def State.toClones (s : State) (inst node port : Nat) (t : Token) (fromRing : Bool) : List Nat → Took
  | [] => .took s
  | c :: cs =>
    match s.toClone inst node c port 0 t fromRing with
    | .full => .full
    | .took s' => s'.toClones inst node port t fromRing cs

/-- A token dealt to a clone of a node: DATA and NULL in lockstep with the lowest-numbered input, END and SWITCH
to every clone (R309, R312). -/
def State.dealTo (s : State) (inst node port : Nat) (t : Token) (fromRing : Bool) : Took :=
  match s.facet? inst node 0 0 with
  | none => .full
  | some u =>
    if t.kind ≥ 2 then s.toClones inst node port t fromRing (s.clonesOf inst node)
    else
      let sp := s.splitter inst node
      let n := lookup sp.counts 0 port
      let first := port == u.lowest
      match if first then some (s.choose u n t) else sp.order[n]? with
      | none => .full
      | some c =>
        match s.toClone inst node c port 0 { t with deal := n } fromRing with
        | .full => .full
        | .took s' => .took (s'.modSplitter inst node fun x =>
            { x with
              counts := assign x.counts port (n + 1)
              order := if first then x.order ++ [c] else x.order })

/-! ### Arcs -/

/-- How many tokens of an arc come before the next one that goes on to its consumer's channel: the head of its ring, or the next
that it accepts (R400). -/
def ArcSt.delivered (a : ArcSt) : Nat := a.ringAt.headD a.accepted

/-- Whether a node's clones change in the wavefront in flight. -/
def State.reclones (s : State) (inst node : Nat) : Bool :=
  match (s.inst? inst).bind fun i => i.ctl.wave with
  | some w => match w.change with
    | .clone n _ => n == node
    | _ => false
  | none => false

/-- Tokens behind the SWITCH that a cloned node has been given wait at the arc's head until it has switched, so that
the splitter deals them among the clones to come (R309, R312). -/
def State.holdsBack (s : State) (a : ArcSt) : Bool :=
  !a.cc && (s.clonedConsumer a || s.reclones a.inst a.cnode) &&
  match s.facet? a.inst a.cnode 0 0 with
  | some u =>
    let l := if a.cport < 4 then u.ins.getD a.cport [] else u.cins.getD (a.cport - 4) []
    l.any fun t => t.kind == 3
  | none => false

/-- A token to an arc's consumer: a SWITCH that leaves the affected set is removed (R312), a cloned node is
served by its splitter. -/
def State.pass (s : State) (a : ArcSt) (t : Token) (fromRing : Bool) : Took :=
  if t.kind = 3 ∧ !s.entersWave a then .took s
  else if s.holdsBack a then .full
  else if s.clonedConsumer a then s.dealTo a.inst a.cnode a.cport t fromRing
  else s.toEnd a.inst a.cc a.cnode a.cport 0 a.delivered t fromRing

/-- The token at an arc's head passes to its consumer, from the ring first (R40, R56). -/
def State.advance (s : State) (a : ArcSt) : State :=
  if !s.running a.inst then s
  else match a.ring with
    | t :: rest =>
      match s.inst? a.inst with
      | none => s
      | some i =>
        let (read, t) := s.ringToken i a t
        match read.pass a t true with
        | .full => s
        | .took s' => s'.modArc a.inst a.idx fun x =>
            { x with ring := rest, ringAt := x.ringAt.drop 1, ringHead := (x.ringHead + 1) % x.spcap }
    | [] =>
      match s.headOf a with
      | none => s
      | some t =>
        match s.pass a (a.arrive t) false with
        | .full => s
        | .took s' => (s'.takeHead a).counted a t

/-- TOKEN_ACCEPT (R40): the consumer of an arc with an empty ring accepts the next token. -/
def execTokenAccept (inst arc : Nat) (s : State) : Out :=
  .next (match s.arc? inst arc with
  | some a => if a.ring.isEmpty && !s.clonedConsumer a then s.advance a else s
  | none => s)

/-- SPLITTER_DEAL (R309): the next token of an arc into a cloned node goes to the clone chosen. -/
def execSplitterDeal (inst arc : Nat) (s : State) : Out :=
  .next (match s.arc? inst arc with
  | some a => if s.clonedConsumer a then s.advance a else s
  | none => s)

/-- SPILL_RING_DELIVERY (R56): the oldest token of a ring enters the consumer's channel. -/
def execSpillRingDelivery (inst arc : Nat) (s : State) : Out :=
  .next (match s.arc? inst arc with
  | some a => if a.ring.isEmpty || s.clonedConsumer a then s else s.advance a
  | none => s)

/-- Whether input `port` of a facet holds as many tokens as it can. -/
def FacetUnit.full (u : FacetUnit) (port : Nat) : Bool :=
  !u.finished && !u.halted && if port < 4 then (u.ins.getD port []).length ≥ 4 else (u.cins.getD (port - 4) []).length ≥ 4

/-- The facets whose channels take the next token of an arc: the clone that its splitter chooses, and of a chain the member in turn
(R309, R400); END goes to all of them. None where the splitter's choice is still due. -/
def State.takers (s : State) (a : ArcSt) (t : Token) : List FacetUnit :=
  match s.facet? a.inst a.cnode 0 0 with
  | none => []
  | some u =>
    if t.kind ≥ 2 then s.facets.filter fun v => v.inst == a.inst && v.node == a.cnode
    else if s.clonedConsumer a then
      let sp := s.splitter a.inst a.cnode
      let n := lookup sp.counts 0 a.cport
      match if a.cport = u.lowest then some (s.choose u n t) else sp.order[n]? with
      | some c => (s.facet? a.inst a.cnode c 0).toList
      | none => []
    else (s.facet? a.inst a.cnode 0 (a.delivered % max u.chain 1)).toList

/-- Whether the input channel that takes an arc's next token is full (R56): that of the head of its ring, or else of `t`. -/
def State.channelFull (s : State) (a : ArcSt) (t : Token) : Bool :=
  let t := a.ring.headD t
  if a.cc then
    match (s.leadRegion a.inst).bind s.cond? with
    | some c => !c.halted && match c.cports.find? fun p => p.port == a.cnode with
      | some p => p.toks.length ≥ 4
      | none => false
    | none => false
  else
    ((s.takers a t).any fun u => u.full a.cport) ||
    (s.islands.any fun x => x.inst == a.inst && x.node == a.cnode && !x.finished && (x.ins.getD a.cport []).length ≥ 4) ||
    match s.engine? a.inst a.cnode with
    | some e => !e.finished && e.ins.length ≥ 4
    | none => false

/-- The next token of an arc written at the end of its ring: its consumer has accepted it (R40, R303). -/
def State.intoRing (s : State) (i : Inst) (a : ArcSt) (t : Token) : State :=
  match s.storeVa i.ctx (a.ringVa i.spillBase a.ring.length) t.bytes false i.pinned with
  | .error _ => s
  | .ok s =>
    ((s.takeHead a).modArc a.inst a.idx fun x => { x with ring := x.ring ++ [t], ringAt := x.ringAt ++ [x.accepted] }).counted a t

/-- The facet whose channel a token that enters an arc's ring will reach (R309, R400): the member in turn, or the clone to
which its splitter will deal it; clone 0 where that is not yet decided (DESIGN CHOICE, log entry 69). -/
def State.ringMember (s : State) (a : ArcSt) (t : Token) : Option FacetUnit :=
  match s.facet? a.inst a.cnode 0 0 with
  | none => none
  | some u =>
    if s.clonedConsumer a then
      let sp := s.splitter a.inst a.cnode
      let n := lookup sp.counts 0 a.cport + a.ring.length
      let c := if a.cport = u.lowest then s.choose u n t else (sp.order[n]?).getD 0
      s.facet? a.inst a.cnode c 0
    else s.facet? a.inst a.cnode 0 (a.accepted % max u.chain 1)

/-- SPILL_RING_ENTRY (R54, R56): while the consumer's channel is full and the ring has room, the next token is
written to the ring; a version that the channel's mode discards is discarded (R52). -/
def execSpillRingEntry (inst arc : Nat) (s : State) : Out :=
  .next (match s.arc? inst arc, s.inst? inst with
  | some a, some i =>
    match s.headOf a with
    | none => s
    | some t =>
      let t := a.arrive t
      if !a.sp || !s.running inst || a.ring.length ≥ a.spcap || !s.channelFull a t then s
      else
        match s.ringMember a t with
        | some u =>
          if a.cport < 4 && u.discards a.cport t then (s.takeHead a).counted a t
          else if a.cport < 4 then
            (s.modFacet inst a.cnode u.clone u.pos fun u => u.remember a.cport t).intoRing i a t
          else s.intoRing i a t
        | none => s.intoRing i a t
  | _, _ => s)

/-- An arrival token to a node's channel, dealt as the tokens of an arc (R309, R400): by how many the channel has been dealt, from
whatever region's handle they came. -/
def State.arrivalTo (s : State) (inst node port : Nat) (t : Token) : Took :=
  if (s.clonesOf inst node).length > 1 then s.dealTo inst node port t false
  else
    let n := lookup (s.splitter inst node).counts 0 port
    match s.toClone inst node 0 port n t false with
    | .full => .full
    | .took s' => .took (s'.modSplitter inst node fun x => { x with counts := assign x.counts port (n + 1) })

/-- ARRIVAL_TOKEN (R284): the oldest arrival token of a handle enters its target when there is room; a cloned
node's splitter deals it (R309). -/
def execArrivalToken (r h : Nat) (s : State) : Out :=
  .next (match s.handle? r h with
  | none => s
  | some x =>
    match x.arrQueue with
    | [] => s
    | t :: rest =>
      let target : Took :=
        if x.arr = 1 then
          match s.leadRegion x.inst with
          | some lead => s.toCond lead x.atgt t
          | none => .full
        else s.arrivalTo x.inst x.atgt x.ach t
      if !s.running x.inst then s
      else match target with
        | .full => s
        | .took s' => s'.modHandle r h fun x => { x with arrQueue := rest })

/-! ### Reorder merges (R309) -/

/-- The merge of an arc. -/
def State.mergeOf (s : State) (inst arc : Nat) : Option Merge := s.merges.find? fun m => m.inst == inst && m.arc == arc

/-- `s` with the merge of an arc changed by `f`. -/
def State.modMerge (s : State) (inst arc : Nat) (f : Merge → Merge) : State :=
  { s with merges := s.merges.map fun (m : Merge) => if m.inst = inst ∧ m.arc = arc then f m else m }

/-- The bit of a merge's arc in the masks of its producer. -/
def State.mergeBit (s : State) (m : Merge) : Nat := ((s.arc? m.inst m.arc).map s.arcBit).getD 0

/-- The token of a clone's output that the merge takes next. -/
def State.mergeHead (s : State) (m : Merge) (c : Nat) : Option Token := s.oldest (outSpot m.inst m.node c m.port) (s.mergeBit m)

/-- Whether a clone's END has come to a merge. -/
def Merge.ended (m : Merge) (c : Nat) : Bool := m.ends.any fun p => p.1 == c

/-- A merge takes tokens from its clones while it holds fewer than 16; of a full one, the token that it owes goes to its arc past it
(`State.passesMerge`). -/
def State.mergeIntake (s : State) (m : Merge) (cs : List Nat) : State :=
  cs.foldl (fun s c =>
    match s.mergeHead m c, s.mergeOf m.inst m.arc with
    | some t, some x =>
      let took := fun (f : Merge → Merge) =>
        (s.modEntries (outSpot m.inst m.node c m.port) (clearBit (s.mergeBit m))).modMerge m.inst m.arc f
      if t.kind = 2 then took fun x => { x with ends := if x.ended c then x.ends else x.ends ++ [(c, t)] }
      else if x.count < 16 then took fun x => { x with held := x.held ++ [(c, t)] }
      else s
    | _, _ => s) s

/-- Whether the clone that received deal number `j` has gone past it. -/
def State.pastDeal (s : State) (m : Merge) (j : Nat) : Bool :=
  match (s.splitter m.inst m.node).order[j]? with
  | none => false
  | some c =>
    match s.facet? m.inst m.node c 0 with
    | none => true
    | some u => !u.contain && (u.deal > j || u.finished || u.halted) && match s.mergeHead m c with
      | some t => t.deal != j || t.kind == 2
      | none => true

/-- The merge of an arc takes what it may, then passes on one token in deal order, or goes on to the next deal number, or emits END once
every clone has. -/
def State.mergeStep (s : State) (m : Merge) : State :=
  let cs := s.clonesOf m.inst m.node
  let s := s.mergeIntake m cs
  match s.mergeOf m.inst m.arc with
  | none => s
  | some m =>
    let mask : BitVec 4 := 1#4 <<< s.mergeBit m
    match m.held.find? fun p => p.2.deal == m.next with
    | some p => s.modMerge m.inst m.arc fun m => { m with held := m.held.erase p, outq := m.outq ++ [⟨p.2, mask⟩] }
    | none =>
      if cs.all m.ended && m.held.isEmpty then
        if m.count ≥ 16 then s
        else s.modMerge m.inst m.arc fun m => { m with ends := [], outq := m.outq ++ [⟨endOfAll (m.ends.map Prod.snd), mask⟩] }
      else if s.pastDeal m m.next then s.modMerge m.inst m.arc fun m => { m with next := m.next + 1 }
      else s

/-- The merges of the arcs of an output. -/
def State.mergesAt (s : State) (inst node port : Nat) : List Merge :=
  s.merges.filter fun m => m.inst == inst && m.node == node && m.port == port

/-- REORDER_MERGE_EMIT (R308, R309): the merge of every arc of an output makes one step. -/
def execReorderMergeEmit (inst node port : Nat) (s : State) : Out :=
  .next (if !s.running inst then s else (s.mergesAt inst node port).foldl State.mergeStep s)

end Sys2Proof.Machine
end

