-- ==== Sys2Proof/Machine/Combine.lean ====
section
/-!
DEFINITION. The combine operations of ASSOCIATIVE nodes (R51, R307, R83) and the partial states of clones combined
into clone 0.
-/
namespace Sys2Proof.Machine

/-- The clones `cs` of an ASSOCIATIVE node combined into clone 0, in ascending index; for add.F32 in no promised
order (R307). Each begins again from the identity. -/
def State.combine (s : State) (inst node : Nat) (cs : List Nat) : State :=
  match s.facet? inst node 0 0 with
  | none => s
  | some u =>
    if u.cls.toNat % 4 ≠ 1 then s
    else
      let order := if u.combineOp = 2 then shuffled s.fresh cs.length cs else cs
      let v := order.foldl (fun v c => match s.facet? inst node c 0 with
        | some x => v.absorb x
        | none => v) u
      let s := ({ s with fresh := s.fresh + cs.length }).modFacet inst node 0 0 fun x => { x with regs := v.regs, spoiled := v.spoiled }
      { s with facets := s.facets.map fun (x : FacetUnit) =>
          if x.inst = inst ∧ x.node = node ∧ cs.contains x.clone = true then x.cleared else x }

/-- END at every clone of an ASSOCIATIVE node combines their states (R51). -/
def State.combineAtEnd (s : State) (inst node : Nat) : State :=
  let cs := s.clonesOf inst node
  let ended := cs.all fun c => match s.facet? inst node c 0 with
    | some x => x.finished
    | none => true
  if cs.length > 1 ∧ ended = true then s.combine inst node (cs.filter fun c => c != 0) else s

end Sys2Proof.Machine
end

