-- ==== Sys2Proof/Machine/NodeTokens.lean ====
section
/-!
DEFINITION. The tokens of a node: what its inputs and outputs hold, and NULL and END as islands and streamer and chord
engine nodes handle them without a firing (R43).
-/
namespace Sys2Proof.Machine

/-! ### Facets -/

/-- The instruction a slot holds, if it holds one. -/
def FacetUnit.instr (u : FacetUnit) (k : Nat) : Option Instr :=
  match Decode.facet (u.slots.getD k 0) with
  | .ok i => some i
  | .error _ => none

/-- The instructions of a facet's slots, in slot order. -/
def FacetUnit.program (u : FacetUnit) : List Instr := (List.range 16).filterMap u.instr

/-- Whether a node steers or merges (R42). -/
def FacetUnit.steers (u : FacetUnit) : Bool := u.program.any fun i => (steerWord i).isSome || (mergeuWord i).isSome

/-- The declared inputs and outputs of a facet (R42). -/
def FacetUnit.inputs (u : FacetUnit) : List Nat := (List.range 4).filter fun k => u.indecl.getLsbD k
def FacetUnit.outputs (u : FacetUnit) : List Nat := (List.range 4).filter fun k => u.outdecl.getLsbD k
def FacetUnit.ctlOutputs (u : FacetUnit) : List Nat := (List.range 2).filter fun k => u.outdecl.getLsbD (4 + k)

/-- The kind of token at the head of input `k`. -/
def FacetUnit.headKind (u : FacetUnit) (k : Nat) : Option Nat := (u.head k).map Token.kind

/-- Whether output `o` has a free entry. -/
def FacetUnit.room (u : FacetUnit) (o : Nat) : Bool := (u.outs.getD o []).length < 4

/-- The head of input `k` removed. -/
def FacetUnit.popIn (u : FacetUnit) (k : Nat) : FacetUnit := { u with ins := u.ins.modify k fun l => l.drop 1 }

/-- The head of control input `k` removed. -/
def FacetUnit.popCtl (u : FacetUnit) (k : Nat) : FacetUnit := { u with cins := u.cins.modify k fun l => l.drop 1 }

/-- A token placed in output `o`. -/
def FacetUnit.put (u : FacetUnit) (mask : Nat → BitVec 4) (o : Nat) (t : Token) : FacetUnit :=
  { u with outs := u.outs.modify o fun es => es ++ [⟨t, mask o⟩] }

/-- Whether the head of control input `k` is a control token of the graph. -/
def FacetUnit.ctlHead (u : FacetUnit) (k : Nat) : Bool :=
  match (u.cins.getD k []).head? with
  | some t => t.kind == 0
  | none => false

/-! ### Islands (R43) -/

/-- Whether a producer port of an engine node has an arc. -/
def State.hasArc (s : State) (inst node port : Nat) : Bool := !(s.arcsFrom inst false node port).isEmpty

/-- Whether a consumer port of an engine node has an arc. -/
def State.fedPort (s : State) (inst node port : Nat) : Bool := (s.arcInto inst false node port).isSome

/-- Whether both tiles of an island are EMPTY. -/
def IslandUnit.empty (u : IslandUnit) : Bool := u.tiles.all fun t => t.state == .empty

/-- Whether output port `p` of an island has room. -/
def IslandUnit.room (u : IslandUnit) (p : Nat) : Bool := (u.outs.getD p []).length < 4

/-- The head of consumer port `p`. -/
def IslandUnit.head (u : IslandUnit) (p : Nat) : Option Token := (u.ins.getD p []).head?

/-- Its head removed. -/
def IslandUnit.pop (u : IslandUnit) (p : Nat) : IslandUnit := { u with ins := u.ins.modify p fun l => l.drop 1 }

/-- A token placed in output port `p`. -/
def State.islandPut (s : State) (u : IslandUnit) (p : Nat) (t : Token) : State :=
  (s.modIsland u.region u.isl fun v =>
    { v with outs := v.outs.modify p fun es => es ++ [⟨t, s.fullMask u.inst false u.node p⟩] }).versioned u.inst u.node t

/-- Whether an island may act: its instance runs, and it is neither faulted nor contained. -/
def State.islandActs (s : State) (u : IslandUnit) : Bool :=
  s.running u.inst && !u.faulted && !u.contain && !u.finished

/-- Whether an instance is to be frozen: its partition's holder yields, or its queue is paused (R327, R328, R338). SHDN# stops it at the same
boundaries (R397). -/
def State.freezeDue (s : State) (i : Inst) : Bool :=
  let yields := match s.part? i.part with
    | some p => p.yielding && p.holder == some i.queue
    | none => false
  yields || ((s.queue? i.queue).map Queue.state) == some 2 || s.pins.shdn

/-- The agent of an island's node (R111). -/
def IslandUnit.agent (u : IslandUnit) : Agent := .engine u.inst u.node

/-- The agent of an engine node (R111). -/
def EngineNode.agent (e : EngineNode) : Agent := .engine e.inst e.node

/-- ISLAND_NULL_HANDLING (R43). -/
def execIslandNullHandling (r isl : Nat) (s : State) : Out :=
  .next (match s.island? r isl with
  | none => s
  | some u =>
    if !s.islandActs u then s
    else
      let ports := (List.range 4).filter (s.hasArc u.inst u.node)
      match u.head 0 with
      | some t =>
        if t.kind = 1 ∧ u.empty ∧ ports.all u.room then
          let s := s.sees u.agent [t]
          (ports.foldl (fun s p => s.islandPut u p (nullOf (s.hbOf u.agent) t)) s).modIsland r isl fun v => v.pop 0
        else discard s u
      | none => discard s u)
where
  /-- A NULL at port B or S is popped and discarded. -/
  discard (s : State) (u : IslandUnit) : State :=
    match [1, 2].find? fun p => (u.head p).map Token.kind == some 1 with
    | some p => (s.sees u.agent (u.head p).toList).modIsland u.region u.isl fun v => v.pop p
    | none => s

/-- ISLAND_END_HANDLING (R43). -/
def execIslandEndHandling (r isl : Nat) (s : State) : Out :=
  .next (match s.island? r isl with
  | none => s
  | some u =>
    let fed := (List.range 3).filter (s.fedPort u.inst u.node)
    let ports := (List.range 5).filter (s.hasArc u.inst u.node)
    let drains := u.tiles.any fun t => match t.snap with
      | some x => x.busy
      | none => false
    if s.islandActs u && !fed.isEmpty && (fed.all fun p => (u.head p).map Token.kind == some 2) && u.empty &&
        u.reload.isNone && !drains && ports.all u.room then
      let s := s.sees u.agent (fed.filterMap u.head)
      (ports.foldl (fun s p => s.islandPut u p (endOf (s.hbOf u.agent))) s).modIsland r isl fun v =>
        { fed.foldl IslandUnit.pop v with finished := true }
    else s)

/-! ### Streamer and chord engine nodes (R43) -/

/-- Whether every earlier command of an engine node has completed. -/
def EngineNode.idle (e : EngineNode) : Bool := e.pending == 0 && e.done.isEmpty

/-- A token emitted on producer port 0, if that port has an arc. -/
def State.enginePut (s : State) (e : EngineNode) (t : Token) : State :=
  if s.hasArc e.inst e.node 0 then
    (s.modEngine e.inst e.node fun v => { v with outs := v.outs ++ [⟨t, s.fullMask e.inst false e.node 0⟩] }).versioned
      e.inst e.node t
  else s

/-- Whether port 0 can take a token. -/
def State.engineRoom (s : State) (e : EngineNode) : Bool := !s.hasArc e.inst e.node 0 || e.outs.length < 4

/-- ENGINE_NULL_HANDLING (R43). -/
def execEngineNullHandling (inst node : Nat) (s : State) : Out :=
  .next (match s.engine? inst node with
  | none => s
  | some e =>
    match e.ins with
    | t :: _ =>
      if t.kind = 1 ∧ e.idle ∧ s.running inst ∧ s.engineRoom e then
        let s := s.sees e.agent [t]
        (s.enginePut e (nullOf (s.hbOf e.agent) t)).modEngine inst node fun v => { v with ins := v.ins.drop 1 }
      else s
    | [] => s)

/-- ENGINE_END_HANDLING (R43): once every completion token has been accepted. -/
def execEngineEndHandling (inst node : Nat) (s : State) : Out :=
  .next (match s.engine? inst node with
  | none => s
  | some e =>
    match e.ins with
    | t :: _ =>
      if t.kind = 2 ∧ e.idle ∧ s.running inst ∧ e.outs.all (fun x => x.mask == 0) ∧ s.engineRoom e then
        let s := s.sees e.agent [t]
        (s.enginePut e (endOf (s.hbOf e.agent))).modEngine inst node fun v => { v with ins := v.ins.drop 1, finished := true }
      else s
    | [] => s)

/-- A completion word of an engine node is due on producer port 0 (R291). -/
def State.engineDone (s : State) (inst node : Nat) (w : Word64) : State :=
  s.modEngine inst node fun e => { e with pending := e.pending - 1, done := e.done ++ [w] }

/-- Completion tokens leave an engine node while its port has room (R291); their SEQ and TAG are free values
(DESIGN CHOICE, log entry 25). -/
def State.flushEngine (s : State) (e : EngineNode) : State :=
  match e.done with
  | [] => s
  | w :: rest =>
    if !s.engineRoom e then s
    else
      let x := Config.doneTag s.fresh
      let h := s.hbOf (.engine e.inst e.node)
      let t : Token :=
        { payload := w.zeroExtend 128, side := sideOf 0 (x.extractLsb' 2 16) false (x.extractLsb' 0 2) 0
          rels := h.rels, vc := h.vc }
      (({ s with fresh := s.fresh + 1 }).enginePut e t).modEngine e.inst e.node fun v => { v with done := rest }

end Sys2Proof.Machine
end

