-- ==== Sys2Proof/Machine/System.lean ====
section
/-!
DEFINITION. The conductor's system instructions: fences (R220, R221), L2 control (R222, R223), system
registers (R224 to R226), token ports (R227 to R230), SYS (R241 to R245, R208), and the steps in which a
conductor traps without executing an instruction (R143, R206, R216, R243) or a WFI ends (R242).
-/
namespace Sys2Proof.Machine

/-- An instruction that only system level may execute (R205): `f` where it may, ACCESS where not. -/
def systemOnly (c : Conductor) (f : CondRes) : CondRes := if c.pl then f else trapWith .access

/-! ### Fences (R117, R220) -/

/-- Whether a store or an atomic of `i` awaits its acknowledgement (R97, R296, R350). -/
def State.unacked (s : State) (p : Issuer → Bool) : Bool := s.txns.any fun t => p t.issuer

/-- Whether an issuer is conductor `r`. -/
def Issuer.isConductor (r : Nat) : Issuer → Bool
  | .conductor q => q == r
  | _ => false

/-- The conductor's L1 emptied (R97). -/
def State.dropL1 (s : State) (r : Nat) : State := s.modCond r fun c => { c with l1 := [] }

/-- FENCE.FULL (R220). -/
def execFenceFull (lvl : Level) (s : State) : Out :=
  conductor s fun r _ =>
    if s.unacked (Issuer.isConductor r) then .wait s
    else
      let sc := s.condScope r lvl.val
      .done (((s.acquire (.conductor r) r sc).release (.conductor r) r sc).dropL1 r)

/-- FENCE.ACQ (R220). -/
def execFenceAcq (lvl : Level) (s : State) : Out :=
  conductor s fun r _ => .done ((s.acquire (.conductor r) r (s.condScope r lvl.val)).dropL1 r)

/-- FENCE.REL (R220). -/
def execFenceRel (lvl : Level) (s : State) : Out :=
  conductor s fun r _ =>
    if s.unacked (Issuer.isConductor r) then .wait s
    else .done (s.release (.conductor r) r (s.condScope r lvl.val))

/-- Whether `size` bytes mapped from `base` lie in part in `n` 64 KiB granules from `va` (R221); 0 granules are the whole space. -/
def mapsPart (base size va n : Nat) : Bool := n == 0 || (base < va + n * 65536 && va < base + size)

/-- The TLBs without the entries for a range of the contexts named (R221): the regions', and the dies'. -/
def State.tinv (s : State) (named : BitVec 12 → Bool) (va n : Nat) : State :=
  { s with
    tlb := s.tlb.filter fun t => !(named t.ctx && mapsPart t.va t.size va n)
    dieTlb := s.dieTlb.filter fun t => !(named t.ctx && mapsPart t.va t.size va n) }

/-- FENCE.TINV (R221): complete when no access that used a dropped entry is outstanding and no walk for it is in progress. It is a
full point at device scope (R220): it waits for the conductor's own stores and atomics, and empties its L1 (R97). -/
def execFenceTinv (a b : Reg) (s : State) : Out :=
  conductor s fun r c => systemOnly c <|
    let xb := c.get b
    let va := Word.field (c.get a) 55 16 * 65536
    let named := fun ctx : BitVec 12 => Word.bit xb 44 || ctx.toNat == Word.field xb 43 32
    let walks := (List.range 4).flatMap s.walksAt
    let left := (c.fenced.getD walks).filter walks.contains
    if Word.field xb 63 45 ≠ 0 then trapWith .reservedField
    else if s.unacked (Issuer.isConductor r) || (s.txns.any fun t => named t.ctx) || !left.isEmpty then
      .wait (s.modCond r fun c => { c with fenced := some left })
    else
      let s := (s.acquire (.conductor r) r .device).release (.conductor r) r .device
      .done ((s.tinv named va (Word.field xb 31 0)).dropL1 r)

/-! ### L2 control (R222, R223) -/

/-- A refused write raises RESERVED_FIELD (R102, R222). -/
def orReserved : Option State → CondRes
  | some s => .done s
  | none => trapWith .reservedField

/-- L2CTL.SETRB (R222): xb must be 0 (DEDUCED, log entry 39). -/
def execL2ctlSetrb (a b : Reg) (n : Fin 16) (s : State) : Out :=
  conductor s fun _ c => systemOnly c <|
    if c.get b ≠ 0 then trapWith .reservedField else orReserved (s.setRb n.val (c.get a))

/-- L2CTL.SETRL (R222): xb must be 0. -/
def execL2ctlSetrl (a b : Reg) (n : Fin 16) (s : State) : Out :=
  conductor s fun _ c => systemOnly c <|
    if c.get b ≠ 0 then trapWith .reservedField else orReserved (s.setRl n.val (c.get a))

/-- L2CTL.UNPIN (R104, R222): xa and xb must be 0. -/
def execL2ctlUnpin (a b : Reg) (n : Fin 16) (s : State) : Out :=
  conductor s fun _ c => systemOnly c <|
    if c.get a ≠ 0 ∨ c.get b ≠ 0 then trapWith .reservedField else .done (s.unpin n.val)

/-- The L2 lines that overlap `n` bytes of local HBM from `a`, written back and invalidated (R223). -/
def State.wbinv (s : State) (a n : Nat) : State :=
  let within := fun (x : L2Line) => x.line * 1024 < a + n && a < x.line * 1024 + 1024
  (s.l2.filter within).foldl State.dropLine s

/-- WBINV over `k` granules from `va`, bytes `lo` to `hi` (R223): at a page that is not writable it traps, and
the lines of earlier pages stay written back and invalidated. A page that the TLBs do not hold is walked first (R93). -/
def wbinvPages (r : Nat) (ctx : BitVec 12) (sys : Bool) (lo hi : Nat) : Nat → Nat → State → CondRes
  | 0, _, s => .done s
  | k + 1, va, s =>
    let stop := fun c => CondRes.trapOn s { cause := c, faddr := some (BitVec.ofNat 64 va) }
    if va ≥ 2 ^ 56 then stop .addressForm
    else
      match s.tlbLeaf r ctx va with
      | none => .wait (s.askWalk ⟨dieOf r, r, ctx, BitVec.ofNat 64 va, { sys := sys }⟩)
      | some (leaf, base) =>
        let e := leaf.toNat
        if !pteV e then stop .pageFault
        else if forbids e { write := true, sys := sys } then stop .access
        else
          let page := va / 65536 * 65536
          let from_ := max lo page
          let len := min hi (page + 65536) - from_
          let s := match s.place (pteAddr e + (from_ - base)) with
            | some (.hbm a) => s.wbinv a len
            | _ => s
          wbinvPages r ctx sys lo hi k (page + 65536) s

/-- L2CTL.WBINV (R223): with xb = 0 it does nothing. -/
def execL2ctlWbinv (a b : Reg) (s : State) : Out :=
  conductor s fun r c =>
    let lo := (c.get a).toNat
    let n := (c.get b).toNat
    if n = 0 then .done s
    else wbinvPages r (s.ctxOf r) c.pl lo (lo + n) ((lo + n - 1) / 65536 - lo / 65536 + 1) lo s

/-! ### System registers (R224 to R226) -/

/-- STATUS (R226). -/
def Conductor.status (c : Conductor) : Word64 := pack [(2, c.bskip.toNat), (1, c.ppl.toNat), (0, c.pl.toNat)]

/-- The value of system register `n` of conductor `r`; `none` for a number not in the table of R224. An
instance's register reads its reset value where no instance runs (DESIGN CHOICE, log entry 42). -/
def State.sysReg (s : State) (r : Nat) (c : Conductor) (n : Nat) : Option Word64 :=
  let i := s.instOf r
  let inst := fun (f : Inst → Nat) (d : Nat) => some (BitVec.ofNat 64 (match i with
    | some i => f i
    | none => d))
  match n with
  | 0x000 => some c.status
  | 0x001 => some c.epc
  | 0x002 => some c.cause
  | 0x003 => some c.faddr
  | 0x004 => some c.tvec
  | 0x005 => some c.finfo
  | 0x006 => some c.savea
  | 0x007 => some c.saveb
  | 0x010 => some (pack [(16, c.plsize.toNat), (8, c.plidx.toNat), (0, r)])
  | 0x011 => some (BitVec.ofNat 64 (dieOf r))
  | 0x012 => some (pack [(16, 2), (8, steppingCode s.stepping), (0, s.devId.toNat)])
  | 0x013 => some (BitVec.ofNat 64 (s.ctxOf r).toNat)
  | 0x014 => inst Inst.part 0
  | 0x020 => some (BitVec.ofNat 64 s.cycle)
  | 0x021 => some (BitVec.ofNat 64 (s.nanojoules r))
  | 0x022 => some (flag c.ss)
  | 0x030 => inst (fun i => i.layver.toNat) 1
  | 0x031 => inst Inst.ratewinNext 12
  | 0x032 => inst Inst.clonewinNext 4
  | 0x033 => inst Inst.foldwinNext 8
  | 0x034 => inst Inst.lztimeout 50
  | 0x040 => some c.tokhi
  | 0x041 => some c.toksb
  | 0x042 => some c.tokohi
  | 0x043 => some c.tokosb
  | 0x050 => some (c.bkpta.getD 0 0)
  | 0x051 => some (c.bkpta.getD 1 0)
  | 0x052 => some (c.bkpta.getD 2 0)
  | 0x053 => some (c.bkpta.getD 3 0)
  | 0x054 => some (c.bkpta.getD 4 0)
  | 0x055 => some (c.bkpta.getD 5 0)
  | 0x056 => some (c.bkpta.getD 6 0)
  | 0x057 => some (c.bkpta.getD 7 0)
  | 0x058 => some (c.bkptc.getD 0 0)
  | 0x059 => some (c.bkptc.getD 1 0)
  | 0x05A => some (c.bkptc.getD 2 0)
  | 0x05B => some (c.bkptc.getD 3 0)
  | 0x05C => some (c.bkptc.getD 4 0)
  | 0x05D => some (c.bkptc.getD 5 0)
  | 0x05E => some (c.bkptc.getD 6 0)
  | 0x05F => some (c.bkptc.getD 7 0)
  | _ => none

/-- Whether graph level may read register `n` (R224). -/
def graphReads (n : Nat) : Bool := (0x010 ≤ n && n ≤ 0x043)

/-- Whether graph level may write register `n` (R224). -/
def graphWrites (n : Nat) : Bool := (0x031 ≤ n && n ≤ 0x034) || n == 0x042 || n == 0x043

/-- MFS (R224). -/
def execMfs (d : Reg) (n : BitVec 16) (s : State) : Out :=
  conductor s fun r c =>
    match s.sysReg r c n.toNat with
    | none => trapWith .illegal
    | some v => if !c.pl && !graphReads n.toNat then trapWith .access else .done (s.setX r d v)

/-- A field of an instance written within `lo` to `hi`; refused outside it (R224, R226). -/
def State.setWindow (s : State) (c : Conductor) (v lo hi : Nat) (f : Inst → Inst) : CondRes :=
  if v < lo ∨ hi < v then trapWith .reservedField
  else .done (match c.inst with
    | some id => s.modInst id f
    | none => s)

/-- `v` written to system register `n` (R8, R225, R226). -/
def State.setSysReg (s : State) (r : Nat) (c : Conductor) (n : Nat) (v : Word64) : CondRes :=
  let put := fun (f : Conductor → Conductor) => CondRes.done (s.modCond r f)
  match n with
  | 0x000 => put fun c => { c with bskip := Word.bit v 2, ppl := Word.bit v 1 }
  | 0x001 => put fun c => { c with epc := v }
  | 0x002 => put fun c => { c with cause := v &&& 0xFFFF01FF }
  | 0x003 => put fun c => { c with faddr := v }
  | 0x004 => put fun c => { c with tvec := v &&& 0xFFFFFFFFFFFFFFFC }
  | 0x005 => put fun c => { c with finfo := v &&& 0xFFFFFFFF01FF7FFF }
  | 0x006 => put fun c => { c with savea := v }
  | 0x007 => put fun c => { c with saveb := v }
  | 0x022 => put fun c => { c with ss := Word.bit v 0 }
  | 0x031 => s.setWindow c (Word.field v 4 0) 6 16 fun i => { i with ratewinNext := Word.field v 4 0 }
  | 0x032 => s.setWindow c (Word.field v 7 0) 1 255 fun i => { i with clonewinNext := Word.field v 7 0 }
  | 0x033 => s.setWindow c (Word.field v 7 0) 1 255 fun i => { i with foldwinNext := Word.field v 7 0 }
  | 0x034 => s.setWindow c (Word.field v 9 0) 1 1000 fun i => { i with lztimeout := Word.field v 9 0 }
  | 0x042 => put fun c => { c with tokohi := v }
  | 0x043 =>
    if Word.field v 1 0 = 3 then trapWith .reservedField
    else put fun c => { c with tokosb := v &&& 0xFFFF000F }
  | _ =>
    if 0x050 ≤ n ∧ n < 0x058 then
      put fun c => { c with bkpta := c.bkpta.set (n - 0x050) (v &&& 0x00FFFFFFFFFFFFFD) }
    else if 0x058 ≤ n ∧ n < 0x060 then
      put fun c => { c with bkptc := c.bkptc.set (n - 0x058) (v &&& 0xFFF) }
    else .done s

/-- MTS (R224). -/
def execMts (a : Reg) (n : BitVec 16) (s : State) : Out :=
  conductor s fun r c =>
    match s.sysReg r c n.toNat with
    | none => trapWith .illegal
    | some _ =>
      if !c.pl && !graphWrites n.toNat then trapWith .access else s.setSysReg r c n.toNat (c.get a)

/-! ### Token ports (R227 to R230) -/

/-- Whether a conductor is the lead of its instance (R210). -/
def Conductor.lead (c : Conductor) : Bool := c.inst.isSome && c.plidx == 0

/-- An instruction that only the lead conductor may execute (R210). -/
def leadOnly (c : Conductor) (f : CondRes) : CondRes := if c.lead then f else trapWith .access

/-- The side band of TOKSB, with EMPTY in bit 15 (R226). -/
def toksbOf (t : Token) : Word64 := t.side &&& 0xFFFFFFFFFFFF001F

/-- The head token of consumer port `p` received into xd, TOKHI and TOKSB (R228). -/
def State.receive (s : State) (r : Nat) (d : Reg) (p : Nat) (t : Token) : CondRes :=
  let s := s.modCond r fun c =>
    { c with cports := c.cports.map fun q =>
        if q.port = p then { q with toks := q.toks.drop 1, lastSeq := some t.seq } else q }
  if t.psn then .trapOn s { cause := .poison }
  else
    let s := (s.observe (.conductor r) t.rels).orderAfter (.conductor r) t.before
    .done ((s.modCond r fun c =>
      { c with tokhi := t.payload.extractLsb' 64 64, toksb := toksbOf t }).setX r d (t.payload.extractLsb' 0 64))

/-- TOKIN and TOKTRY up to the empty port (R227, R228, R230). -/
def tokenIn (d a : Reg) (empty : State → Nat → CondRes) (s : State) : Out :=
  conductor s fun r c => leadOnly c <|
    let p := (c.get a).toNat
    if p > 4095 then trapWith .reservedField
    else
      match c.cports.find? fun q => q.port == p with
      | none => trapWith .config
      | some q =>
        match q.toks with
        | t :: _ => s.receive r d p t
        | [] => empty s r

/-- TOKIN (R228). -/
def execTokin (d a : Reg) (s : State) : Out := tokenIn d a (fun s _ => .wait s) s

/-- TOKTRY (R230): an empty port sets xd to 0 and TOKSB.EMPTY. -/
def execToktry (d a : Reg) (s : State) : Out :=
  tokenIn d a (fun s r => .done ((s.modCond r fun c => { c with toksb := c.toksb ||| 0x8000 }).setX r d 0)) s

/-- The token that TOKOUT emits (R229). -/
def Conductor.outToken (c : Conductor) (v : Word64) (h : AgentHB) : Token :=
  { payload := c.tokohi ++ v
    side := sideOf 0 (c.tokosb.extractLsb' 16 16) false (c.tokosb.extractLsb' 2 2) (Word.field c.tokosb 1 0)
    rels := h.rels, vc := h.vc }

/-- TOKOUT (R229). -/
def execTokout (a b : Reg) (s : State) : Out :=
  conductor s fun r c => leadOnly c <|
    let p := (c.get a).toNat
    if p > 4095 then trapWith .reservedField
    else
      match c.pports.find? fun q => q.port == p with
      | none => trapWith .config
      | some q =>
        if q.ended then trapWith .config
        else if !c.portFree p then .wait s
        else
          let t := c.outToken (c.get b) (s.hbOf (.conductor r))
          let s := s.emit (.cond r p) (s.fullMask (c.inst.getD 0) true p 0) t
          .done (s.modCond r fun c =>
            { c with
              tokosb := Word.setField c.tokosb 31 16 ((Word.field c.tokosb 31 16 + 1) % 65536)
              pports := c.pports.map fun q => if q.port = p ∧ t.kind = 2 then { q with ended := true } else q })

/-! ### SYS (R241 to R245, R208) -/

/-- SYS TRAP (R241). -/
def execSysTrap (code : BitVec 6) (s : State) : Out :=
  conductor s fun _ _ => .trap { cause := .trapInsn, info := code.zeroExtend 16 }

/-- SYS BRK (R241). -/
def execSysBrk (code : BitVec 6) (s : State) : Out :=
  conductor s fun _ _ => .trap { cause := .brk, info := code.zeroExtend 16 }

/-- The facet whose firing the assist routine completes at the ERET that ends its trap (R61, DEDUCED, log entry 11). -/
def State.assistDone (s : State) (f : Option NodeFault) : State :=
  match f with
  | some f =>
    if f.cause = .subnormalAssist then
      match f.unit with
      | .facet i n c =>
        { s with facets := s.facets.map fun u => if u.inst = i ∧ u.node = n ∧ u.clone = c then
            { u with faulted := none } else u }
      | .island r isl => s.modIsland r isl fun u => { u with faulted := false }
      | _ => s
    else s
  | none => s

/-- ERET (R208, R207): system only. -/
def execEret (s : State) : Out :=
  conductor s fun r c => systemOnly c <|
    let s := (s.assistDone c.handling).modCond r Conductor.eret
    .jump s (((s.cond? r).map Conductor.pc).getD 0)

/-- WFI (R242): it completes once something it waits for has arrived since it began. -/
def execWfi (s : State) : Out :=
  conductor s fun r c =>
    match c.wfi with
    | some true => .done s
    | some false => .wait s
    | none => .wait (s.modCond r fun c => { c with wfi := some false })

/-- Whether a 128-byte text line overlaps `n` bytes from `va` in a context (R244). -/
def TextLine.inRange (t : TextLine) (ctx : BitVec 12) (va n : Nat) : Bool :=
  t.ctx == ctx && t.va < va + n && va < t.va + t.bytes.length

/-- ICINV (R244): it begins once every earlier store is acknowledged; with xb = 0 it has no effect. -/
def execIcinv (a b : Reg) (s : State) : Out :=
  conductor s fun r c =>
    let va := (c.get a).toNat
    let n := (c.get b).toNat
    let ctx := s.ctxOf r
    if n = 0 then .done s
    else if s.unacked (Issuer.isConductor r) then .wait s
    else .done { s with
      conds := s.conds.map fun k => { k with ic := k.ic.filter fun t => !t.inRange ctx va n }
      cfgCache := s.cfgCache.filter fun t => !t.inRange ctx va n }

/-- SYS BEAT (R241): the progress timer of the instance's queue restarts. -/
def execSysBeat (_code : BitVec 6) (s : State) : Out :=
  conductor s fun r _ => .done (match s.instOf r with
    | some i => s.beat i.queue
    | none => s)

/-- SYS CEASE (R241, R267): the SEQ of the last token popped at the port goes upstream. -/
def execSysCease (code : BitVec 6) (s : State) : Out :=
  conductor s fun _ c => leadOnly c <|
    match c.cports.find? (fun q => q.port == code.toNat), s.arcInto (c.inst.getD 0) true code.toNat 0 with
    | some q, some a =>
      match q.lastSeq with
      | some seq => .done (if a.vs then { s with ceases := s.ceases ++ [⟨a.inst, a.idx, seq, false⟩] } else s)
      | none => .done s
    | _, _ => trapWith .config

/-- END emitted on one producer port (R245): a token of the conductor, with the release points before it (R118). -/
def State.endPort (s : State) (r inst : Nat) (p : PPort) : State :=
  (s.emit (.cond r p.port) (s.fullMask inst true p.port 0) (endOf (s.hbOf (.conductor r)))).modCond r fun c =>
    { c with pports := c.pports.map fun q => if q.port = p.port then { q with ended := true } else q }

/-- SYS HALT (R245): graph only (R205). The lead emits END on each producer port, and its consumer ports are emptied; pc stays at
the HALT, which is also the EPC of a single step's BREAK after it (DESIGN CHOICE, log entry 90). -/
def execSysHalt (s : State) : Out :=
  conductor s fun r c =>
    if c.pl then trapWith .access
    else
      let stop := fun (s : State) => CondRes.jump (s.modCond r fun c =>
        { c with halted := true, haltPc := c.pc, stray := [], cports := c.cports.map fun q => { q with toks := [] } }) c.pc
      if !c.lead then stop s
      else if c.pports.all fun p => c.portFree p.port then
        stop (c.pports.foldl (fun s p => s.endPort r (c.inst.getD 0) p) s)
      else .wait s

/-! ### Traps without an instruction's own effect -/

/-- A step that acts on conductor `r`, if there is one. -/
def atConductor (s : State) (r : Nat) (f : Conductor → State) : Out :=
  match s.cond? r with
  | none => .next s
  | some c => .next (f c)

/-- ILLEGAL (R143): the word at pc traps with no effect. -/
def execIllegal (r : Nat) (s : State) : Out :=
  atConductor s r fun c => settle s r c (trapWith .illegal)

/-- FETCH_FAULT (R216): taken at the fetched address, with EPC set to it. -/
def execFetchFault (r : Nat) (cause : Cause) (addr : Word64) (s : State) : Out :=
  atConductor s r fun c => settle s r c (trapAt cause addr)

/-- Whether an enabled breakpoint register of conductor `r` names pc in its context (R243). -/
def State.matched (s : State) (r : Nat) (c : Conductor) : Bool :=
  (List.range 8).any fun n =>
    Word.bit (c.bkpta.getD n 0) 0 && Word.field (c.bkpta.getD n 0) 55 2 == Word.field c.pc 55 2 &&
    Word.field (c.bkptc.getD n 0) 11 0 == (s.ctxOf r).toNat

/-- BREAKPOINT_MATCH (R243): before a graph-level instruction that BSKIP does not exempt (R208). -/
def execBreakpointMatch (r : Nat) (s : State) : Out :=
  atConductor s r fun c =>
    if !c.pl && !c.bskip && s.matched r c then s.modCond r fun c => c.trap c.pc { cause := .brk } else s

/-- Whether an access of conductor `r` is under way in another device, or its answer has come and is not yet taken (R349): such an
access cannot end with no effect. -/
def State.accessBegun (s : State) (r : Nat) (c : Conductor) : Bool :=
  !c.arrived.isEmpty || s.txns.any fun t => t.issuer.isConductor r && t.returns

/-- NODE_FAULT_TRAP (R206, R207): at graph level the oldest pending node fault of the region is taken; a wait
it ends has no effect, and a halted conductor takes it with EPC at its HALT (R245). An access that has begun completes first. -/
def execNodeFaultTrap (r : Nat) (s : State) : Out :=
  atConductor s r fun c =>
    match c.pend with
    | f :: fs =>
      if c.pl || s.accessBegun r c then s else s.modCond r fun c => { c.takeNode c.graphPc f with pend := fs }
    | [] => s

/-- WFI_COMPLETE (R242): a waiting WFI may complete at any time. -/
def execWfiComplete (r : Nat) (s : State) : Out :=
  atConductor s r fun c => if c.wfi.isSome then settle s r c (.done s) else s

end Sys2Proof.Machine
end

