-- ==== Sys2Proof/Machine/Streams.lean ====
section
/-!
DEFINITION. Streams (R287 to R291): descriptors, the commands STRM, STRMST and those of TREQ and of streamer
nodes, the units a streamer moves, multicast reads (R105 to R107), pointer chases (R108) and tensor bounds
(R109, R110); and WAITH (R231).
-/
namespace Sys2Proof.Machine

/-! ### Descriptors (R287) -/

/-- A stream descriptor. -/
structure Desc where
  base : Nat
  kind : Nat
  mc : Bool
  fmt : Nat
  hint : Nat
  bytes : Nat
  extr : Nat
  extc : Nat
  origr : Int
  origc : Int
  stride : Nat
  trows : Nat
  tcols : Nat
  pad : Nat
  mask : Nat
  clean : Bool
  deriving DecidableEq, Repr

/-- The number at offset `o` of a block, `n` bytes long. -/
def fieldAt (bs : List Byte) (o n : Nat) : Nat := Word.ofBytes ((bs.drop o).take n)

/-- The descriptor in 64 bytes. -/
def Desc.ofBytes (bs : List Byte) : Desc :=
  let k := fieldAt bs 0x08 1
  { base := fieldAt bs 0x00 8, kind := k % 4, mc := k / 128 == 1, fmt := fieldAt bs 0x09 1
    hint := fieldAt bs 0x0A 1 % 4, bytes := fieldAt bs 0x0C 4, extr := fieldAt bs 0x10 4, extc := fieldAt bs 0x14 4
    origr := signedN 32 (fieldAt bs 0x18 4), origc := signedN 32 (fieldAt bs 0x1C 4)
    stride := fieldAt bs 0x20 8, trows := fieldAt bs 0x28 2, tcols := fieldAt bs 0x2A 2, pad := fieldAt bs 0x2C 2
    mask := fieldAt bs 0x30 8
    clean := k / 4 % 32 == 0 && fieldAt bs 0x0A 1 / 4 == 0 && fieldAt bs 0x0B 1 == 0 && fieldAt bs 0x2E 2 == 0 &&
      fieldAt bs 0x38 8 == 0 && fieldAt bs 0x36 2 == 0 }

/-- Bits per element of a format code (R258); 0 for a reserved code. -/
def elemBits (fmt : Nat) : Nat :=
  match fmt with
  | 0x0 => 4 | 0x1 => 8 | 0x2 => 16 | 0x3 => 2
  | 0x4 => 4 | 0x5 => 8 | 0x6 => 16 | 0x7 => 2
  | 0x8 => 8 | 0x9 => 8 | 0xA => 16 | 0xB => 16
  | 0xC => 32 | 0xD => 32
  | _ => 0

/-- Whether a descriptor breaks R287 or R288, or is not one for a read, or for a store. -/
def Desc.bad (d : Desc) (store : Bool) : Bool :=
  let tileZero := d.fmt == 0 && d.origr == 0 && d.origc == 0 && d.trows == 0 && d.tcols == 0 && d.pad == 0
  !d.clean || (!d.mc && d.mask != 0) ||
  (d.mc && (d.kind != 0 || store || d.base % 1024 != 0 || d.bytes % 1024 != 0)) ||
  match d.kind with
  | 0 => !tileZero || d.extr != 0 || d.extc != 0 || d.stride != 0
  | 1 =>
    d.bytes != 0 || elemBits d.fmt == 0 || d.trows == 0 || d.trows > 4096 || d.tcols == 0 || d.tcols > 4096 ||
    d.tcols * elemBits d.fmt % 8 != 0
  | 2 => store || !tileZero || d.bytes % 16 != 0 || d.extc % 8 != 0
  | _ => true

/-- The slot bytes a descriptor requires (R288). -/
def Desc.need (d : Desc) : Nat :=
  match d.kind with
  | 1 => d.trows * d.tcols * elemBits d.fmt / 8
  | 2 => d.extr * d.bytes
  | _ => d.bytes

/-- Whether a multicast mask names the requester's region and regions of its die and placement alone (R105). -/
def Desc.maskOk (d : Desc) (r : Nat) (regions : List Nat) : Bool :=
  d.mask.testBit (r % 48) &&
  (List.range 48).all fun n => !d.mask.testBit n || regions.contains (48 * dieOf r + n)

/-! ### Commands (R289, R291) -/

/-- The end of an attempt to issue a command. -/
inductive Issue where
  | status (s : State) (n : Nat)       -- 0 ACCEPTED, 1 BUSY, 2 FULL
  | bad (cause : Cause) (addr : Option Word64)
  | poison (a n : Nat)
  | race (older addr : Word64)
  | ask (s : State)
  deriving Repr

/-- 64 bytes of global memory read by an instruction or a node, poison being a fault. -/
def State.readBlock (s : State) (x : Actor) (va : Word64) (n : Nat) (tracked : Bool) : Acc (List Byte) :=
  if Word.field va 63 56 ≠ 0 then .bad .addressForm (some va)
  else
    (s.globTarget x va n false false).bind fun s t =>
    (if tracked then s.issue x t va n false none else .ok s t).bind fun s t =>
    let k := t.key x.region
    let seen := fun (s : State) => if tracked then
        s.observeAt x.agent { space := k.1, addr := k.2, len := n, isWrite := false }
      else s
    match t with
    | .glob _ (.remote dev a) => (s.remote x va dev a 1 n []).bind fun s bs => .ok (seen s) bs
    | .glob _ pl => (seen s).readPlace pl n x.ctx 0 va
    | .spad _ _ => .bad .addressForm (some va)

/-- A stream command issued by `x` for handle `n`, slot `sl`, with the descriptor at `va` (R289). An accepted one is a release
point of its issuer (R129), which does not wait: it is the command that begins only when the issuer's earlier stores are
acknowledged (R97; DEDUCED, log entry 77). -/
def State.stream1 (s : State) (x : Actor) (issuer : Issuer) (va : Word64) (n sl : Nat) (store free tracked : Bool) :
    Issue :=
  match s.readBlock x va 64 tracked with
  | .bad c a => .bad c a
  | .poison a n => .poison a n
  | .race o a => .race o a
  | .ask s => .ask s
  | .ok s bs =>
    match s.handleFor x.region n x.ctx with
    | none => .bad .access none
    | some h =>
      let d := Desc.ofBytes bs
      let slot := h.slot sl
      let st := n % 2
      if sl ≥ h.slots.length ∨ d.bad store then .bad .reservedField none
      else if (d.kind = 1 ∧ d.fmt ≠ h.fmt) ∨ d.need ≠ h.bytes then .bad .formatCombo none
      else if d.mc ∧ !d.maskOk x.region (((s.inst? h.inst).map Inst.regions).getD []) then .bad .access none
      else if (if store then slot.state != .full else !s.isFree slot) then .status s 1
      else if (s.stream x.region st).length ≥ 16 then .status s 2
      else
        let vc := (s.hbOf x.agent).vc
        let s := if store then (s.slotTo x.region n sl .draining).met x.region n sl
          else (s.slotTo x.region n sl .filling).modSlot x.region n sl fun y => { y with vc := VClock.join y.vc vc }
        let c : StreamCmd :=
          { issuer := issuer, ctx := x.ctx, inst := h.inst, store := store, free := free, handle := n, slot := sl
            desc := bs, chase := if d.kind = 2 then some (BitVec.ofNat 64 d.base) else none, vc := vc
            behind := s.behindNow x.agent }
        let s := s.commandPoint x.agent x.region
        .status (s.setStream x.region st (s.stream x.region st ++ [c])) 0

/-- STRM and STRMST (R289). -/
def strm (store : Bool) (d a b : Reg) (s : State) : Out :=
  conductor s fun r c =>
    let xb := c.get b
    if xb.toNat / (if store then 0x2000 else 0x1000) ≠ 0 then trapWith .reservedField
    else
      match s.stream1 (s.condActor r c) (.conductor r) (c.get a) (Word.field xb 7 0) (Word.field xb 11 8) store
          (Word.bit xb 12) true with
      | .status s n => .done (s.setX r d (BitVec.ofNat 64 n))
      | .bad k a => .trap { cause := k, faddr := a }
      | .poison a n => .trap { cause := .poison, found := some (a, n) }
      | .race o a => .trap { cause := .race, faddr := some a, finfo := some o }
      | .ask s => .wait s

/-- STRM (R289): a command to fill a slot. -/
def execStrm (d a b : Reg) (s : State) : Out := strm false d a b s

/-- STRMST (R289): a command to store a slot's bytes to memory. -/
def execStrmst (d a b : Reg) (s : State) : Out := strm true d a b s

/-- WAITH (R231): waits for a slot's state, then reads HSTAT; FULL orders the fill (R130). -/
def execWaith (d a b : Reg) (st : SlotState) (s : State) : Out :=
  conductor s fun r c =>
    let n := (c.get a).toNat
    let sl := (c.get b).toNat
    if n > 255 then trapWith .reservedField
    else
      match s.handleFor r n (s.ctxOf r) with
      | none => trapWith .access
      | some h =>
        if sl ≥ h.slots.length then trapWith .reservedField
        else if (h.slot sl).state ≠ st then .wait s
        else
          let s := if st = .full then s.orderAfter (.conductor r) (h.slot sl).vc else s
          .done ((s.seePtr (.conductor r) h sl).setX r d (h.hstat sl))

/-! ### What a unit moves (R288, R109) -/

/-- The pad element of a tile (R109). -/
def Desc.padElem (d : Desc) : Nat :=
  match d.fmt with
  | 0xC => d.pad * 65536
  | 0xD => (BitVec.ofInt 32 (signedN 16 d.pad)).toNat
  | _ => d.pad % 2 ^ elemBits d.fmt

/-- Whether element (r, c) of the tile lies within the tensor. -/
def Desc.inside (d : Desc) (r c : Nat) : Bool :=
  decide (0 ≤ d.origr + r ∧ d.origr + r < d.extr ∧ 0 ≤ d.origc + c ∧ d.origc + c < d.extc)

/-- Whether every element lies outside (R110). -/
def Desc.outside (d : Desc) : Bool :=
  decide (min (d.extr : Int) (d.origr + d.trows) ≤ max 0 d.origr ∨ min (d.extc : Int) (d.origc + d.tcols) ≤ max 0 d.origc)

/-- The bit of memory at which element (r, c) within the bounds begins. -/
def Desc.bitOf (d : Desc) (r c : Nat) : Nat :=
  ((d.base + (d.origr + r).toNat * d.stride) % 2 ^ 64) * 8 + (d.origc + c).toNat * elemBits d.fmt

/-- A list of bytes as a number, and whether any carries poison. -/
def numOf (bs : List (Byte × Bool)) : Nat × Bool := (Word.ofBytes (bs.map Prod.fst), bs.any Prod.snd)

/-- The elements of a tile from number `e` on, `n` of them, up to a fault: each with its poison. -/
def State.tileElems (s : State) (x : Actor) (d : Desc) :
    Nat → Nat → List Unit16 → List (Nat × Bool) → State × List Unit16 × List (Nat × Bool) × Halt
  | 0, _, us, acc => (s, us, acc.reverse, none)
  | n + 1, e, us, acc =>
    let r := e / d.tcols
    let c := e % d.tcols
    if !d.inside r c then s.tileElems x d n (e + 1) us ((d.padElem, false) :: acc)
    else
      let bit := d.bitOf r c
      let z := elemBits d.fmt
      match s.collect x d.hint 3 (bit / 8) ((z + 7) / 8) us [] with
      | (s, us, bs, none) =>
        let v := numOf bs
        s.tileElems x d n (e + 1) us ((v.1 / 2 ^ (bit % 8) % 2 ^ z, v.2) :: acc)
      | (s, us, _, h) => (s, us, acc.reverse, h)

/-- Elements of `z` bits packed into bytes (R60), each byte with the poison of what it holds. -/
def packElems (z : Nat) (es : List (Nat × Bool)) : List (Byte × Bool) :=
  if z < 8 then
    let per := 8 / z
    (List.range (es.length / per)).map fun k =>
      let g := (es.drop (k * per)).take per
      (BitVec.ofNat 8 (ofLanes z (g.map Prod.fst)), g.any Prod.snd)
  else es.flatMap fun e => (Word.toBytes (z / 8) e.1).map fun b => (b, e.2)

/-- The next unit of a read. -/
def State.readUnit (s : State) (x : Actor) (d : Desc) (c : StreamCmd) (n : Nat) :
    State × List Unit16 × List (Byte × Bool) × Halt :=
  match d.kind with
  | 1 =>
    let z := elemBits d.fmt
    match s.tileElems x d (n * 8 / z) (c.off * 8 / z) c.units [] with
    | (s, us, es, h) => (s, us, packElems z es, h)
  | 2 =>
    match c.chase with
    | some a => s.collect x d.hint 10 ((a.toNat + c.off % d.bytes) % 2 ^ 64) n c.units []
    | none => (s, [], List.replicate n (0, false), none)
  | _ => s.collect x d.hint 10 ((d.base + c.off) % 2 ^ 64) n c.units []

/-- The bytes of memory that the element in `z` bits at bit `bit` covers. -/
def elemPieces (z bit : Nat) (v : Nat × Bool) : List Piece :=
  if z < 8 then
    let lo := bit % 8
    [⟨bit / 8, BitVec.ofNat 8 ((2 ^ z - 1) * 2 ^ lo), BitVec.ofNat 8 (v.1 * 2 ^ lo), v.2⟩]
  else (List.range (z / 8)).map fun k => ⟨bit / 8 + k, 0xFF, BitVec.ofNat 8 (v.1 / 2 ^ (8 * k)), v.2⟩

/-- What a tile store writes of the elements from number `e` on: nothing outside the bounds, and of a byte that an element
shares with one outside only its own bits (R109). -/
def Desc.tilePieces (d : Desc) : Nat → List (Nat × Bool) → List Piece
  | _, [] => []
  | e, v :: vs =>
    let r := e / d.tcols
    let c := e % d.tcols
    (if d.inside r c then elemPieces (elemBits d.fmt) (d.bitOf r c) v else []) ++ d.tilePieces (e + 1) vs

/-- What the next unit of a store writes, with what the last one left. -/
def State.storePieces (s : State) (d : Desc) (h : Handle) (c : StreamCmd) (n : Nat) : List Piece :=
  let bs := s.slotBytes h c.slot c.off n
  joinPieces (c.due ++
    if d.kind = 1 then
      let z := elemBits d.fmt
      d.tilePieces (c.off * 8 / z) ((List.range (n * 8 / z)).map fun k =>
        let v := numOf ((bs.drop (k * z / 8)).take ((z + 7) / 8))
        (v.1 / 2 ^ (k * z % 8) % 2 ^ z, v.2))
    else (List.range bs.length).map fun k =>
      let b := bs.getD k (0, false)
      ⟨(d.base + c.off + k) % 2 ^ 64, 0xFF, b.1, b.2⟩)

/-- The last unit's run, which waits for the bytes that the next step may add to it, unless the store ends. -/
def splitDue (last : Bool) (runs : List (List Piece)) : List (List Piece) × List Piece :=
  if last then (runs, []) else (runs.dropLast, runs.getLastD [])

/-! ### A streamer's steps -/

/-- A unit that must wait has done nothing but ask: the walks and the reads asked for in `s'` are kept. -/
def State.asked (s s' : State) : State :=
  let new := s'.txns.filter fun t => t.returns && !s.txns.contains t
  let s := { s with walksWaiting := s'.walksWaiting, nextTx := s'.nextTx, txns := s.txns ++ new, domPath := s'.domPath }
  new.foldl (fun s t => match t.port with
    | some p => s.send .scaleUp p t.flit
    | none => s) s

/-- The cost of a unit of `n` bytes, 0.5 pJ per byte (R394), in fJ. -/
def streamCost (n : Nat) : Nat := 500 * n

/-- A fault of a queued command reported to its owner (R290). -/
def State.commandFault (s : State) (r n sl : Nat) (issuer : Issuer) (cause : Cause) (addr : Word64) : State :=
  let ver := fun inst => match s.inst? inst with
    | some i => i.layver.toNat
    | none => 0
  match issuer with
  | .node inst node =>
    (s.modEngine inst node fun e => { e with faulted := true }).nodeFault r
      { cause := cause, faddr := addr, finfo := pack [(32, ver inst), (0, node)] }
  | .facet inst node clone slot pos =>
    -- a clone that a rewire has removed since is still named by its index
    s.nodeFault r
      { cause := cause, faddr := addr, finfo := pack [(32, ver inst), (20, pos), (16, slot), (12, clone), (0, node)]
        unit := .facet inst node clone }
  | .conductor q =>
    s.nodeFault q
      { cause := cause, info := BitVec.ofNat 16 (0x8000 + 16 * n + sl), faddr := addr
        finfo := pack [(32, match s.instOf q with
          | some i => i.layver.toNat
          | none => 0)] }
  | _ => s

/-- The running command of a streamer replaced, or removed. -/
def State.setHead (s : State) (r st : Nat) (c : Option StreamCmd) : State :=
  let rest := (s.stream r st).drop 1
  s.setStream r st (match c with
    | some c => c :: rest
    | none => rest)

/-- The slot of a store in its new state (R283): to FULL from DRAINING alone, to FREE from FULL, DRAINING or ABORTED. What happened before
the command comes before whatever follows on the slot (R129, R132). -/
def State.storeEnds (s : State) (r : Nat) (c : StreamCmd) (st : SlotState) : State :=
  match s.handle? r c.handle with
  | none => s
  | some h =>
    let x := (h.slot c.slot).state
    if x = .draining ∨ (st = .free ∧ (x = .full ∨ x = .aborted)) then
      (s.slotTo r c.handle c.slot st).modSlot r c.handle c.slot fun y => { y with vc := VClock.join y.vc c.vc }
    else s

/-- A command has ended by a fault (R290). -/
def State.streamFault (s : State) (r st : Nat) (c : StreamCmd) (cause : Cause) (addr : Word64) : State :=
  let s := s.setHead r st none
  let s := if c.store then s.storeEnds r c .full
    else match s.handle? r c.handle with
      | some h => if (h.slot c.slot).state = .filling then s.abort r c.handle c.slot else s
      | none => s
  s.commandFault r c.handle c.slot c.issuer cause addr

/-- A command has completed (R283, R291). -/
def State.streamDone (s : State) (r st : Nat) (c : StreamCmd) : State :=
  let s := s.setHead r st none
  let s := if c.store then s.storeEnds r c (if c.free then .free else .full) else s
  let s := s.fired c.inst
  match c.issuer with
  | .node inst node => s.engineDone inst node (BitVec.ofNat 64 (c.handle + 256 * c.slot))
  | _ => s

/-- A step of a command of an engine node is a firing of the node (R30, R303). -/
def State.stepOf (s : State) (issuer : Issuer) : State :=
  match issuer with
  | .node inst node => s.modEngine inst node fun e => { e with live := { e.live with firings := e.live.firings + 1 } }
  | _ => s

/-- A running command after `n` more bytes, or its completion. -/
def State.streamOn (s : State) (r st : Nat) (c : StreamCmd) (d : Desc) (total n : Nat) : State :=
  let s := (s.stepOf c.issuer).fired c.inst
  let c : StreamCmd := { c with off := c.off + n, arrived := [] }
  let c := { c with linkDue := d.kind == 2 && c.chase.isSome && c.off % d.bytes == 0 }
  let c := if d.kind = 2 ∧ c.linkDue = true then { c with units := [] } else c
  if c.off ≥ total ∧ !c.linkDue then
    if c.store && s.txns.any fun t => t.issuer == .stream r st then s.setHead r st (some c)
    else s.streamDone r st c
  else s.setHead r st (some c)

/-- Whether a command goes on: its instance runs, or is being frozen while the command stands off a 128-byte boundary
(R289, R331). -/
def State.streamGoes (s : State) (c : StreamCmd) : Bool :=
  s.running c.inst || (s.freezing c.inst && c.off % 128 != 0)

/-- The bytes of a command's next unit: to the next 128-byte boundary of the slot, and within a node of a chase. -/
def StreamCmd.unitLen (c : StreamCmd) (d : Desc) (total : Nat) : Nat :=
  let left := total - c.off
  let left := if d.kind = 2 ∧ c.chase.isSome then min left (d.bytes - c.off % d.bytes) else left
  min (128 - c.off % 128) left

/-- STREAM_UNIT (R288, R395): the next unit of at most 128 bytes of the running command, where it goes on, the stores before it
are acknowledged, the account covers it, and no link or multicast line is awaited. -/
def execStreamUnit (r st : Nat) (s : State) : Out :=
  .next (match s.stream r st with
  | [] => s
  | c :: _ =>
    let d := Desc.ofBytes c.desc
    match s.handle? r c.handle with
    | none => s.setHead r st none
    | some h =>
      if !s.streamGoes c || s.heldBack c.behind || c.mcWait || c.linkDue || (d.mc && c.off < h.bytes && !c.single && c.line.isEmpty) then s
      else
        let n := c.unitLen d h.bytes
        let x := engineActor r c.inst c.ctx (.stream r st) c.arrived
        if n = 0 then (if c.store && s.txns.any fun t => t.issuer == .stream r st then s else s.streamDone r st c)
        else if !s.affords r (streamCost n) then s
        else if !c.line.isEmpty then
          ((s.debit r (streamCost n)).fill r c.handle c.slot (c.line.take n)).streamOn r st { c with line := c.line.drop n } d h.bytes n
        else if c.store then
          let p := splitDue (c.off + n ≥ h.bytes) (unitRuns (s.storePieces d h c n))
          match (s.debit r (streamCost n)).writeRuns x d.hint p.1 with
          | (s, none) => s.streamOn r st { c with due := p.2 } d h.bytes n
          | (s, some (some (k, a))) => s.streamFault r st c k a
          | (s', some none) => s.asked s'
        else
          match (s.debit r (streamCost n)).readUnit x d c n with
          | (s, us, bs, none) =>
            let s := if d.kind = 1 ∧ d.outside then
                s.modSlot r c.handle c.slot fun y => { y with oob := true }
              else s
            (s.fill r c.handle c.slot bs).streamOn r st
              { c with units := us.drop (us.length - 2), single := c.single && (c.off + n) % 1024 != 0 } d h.bytes n
          | (s, _, bs, some (some (k, a))) => (s.fill r c.handle c.slot bs).streamFault r st c k a
          | (s', _, _, some none) => s.asked s')

/-- CHASE_LINK_RETURN (R108): the link of the node just copied; 0 or the last node ends the walk. A link that
carries poison is consumed by the streamer (R285, R369) (DEDUCED, log entry 45). -/
def execChaseLinkReturn (r st : Nat) (s : State) : Out :=
  .next (match s.stream r st with
  | [] => s
  | c :: _ =>
    let d := Desc.ofBytes c.desc
    match c.chase, s.handle? r c.handle with
    | some a, some h =>
      if !c.linkDue || !s.streamGoes c then s
      else
        let x := engineActor r c.inst c.ctx (.stream r st) c.arrived
        match s.gather x d.hint 2 ((a.toNat + d.extc) % 2 ^ 64) 8 with
        | .ask s => s
        | .stopped s _ k a => s.streamFault r st c k a
        | .all s bs =>
          let v := numOf bs
          if v.2 then s.streamFault r st c .poison 0
          else
            let next := if v.1 = 0 then none else some (BitVec.ofNat 64 (v.1 + d.stride))
            let c : StreamCmd := { c with linkDue := false, chase := next, arrived := [] }
            if c.off ≥ h.bytes then s.streamDone r st c else s.setHead r st (some c)
    | _, _ => s)

/-! ### Multicast reads (R105 to R107) -/

/-- A line for the running multicast command of a streamer, which delivers it unit by unit (R395). -/
def State.mcDeliver (s : State) (r st : Nat) (c : StreamCmd) (a hint : Nat) : State :=
  let bs := (List.range 1024).map fun k => (Memory.read s.mem (a + k), s.poisoned (a + k) 1)
  (s.l2Access a 1024 c.ctx hint false).setHead r st (some { c with line := bs, mcWait := false })

/-- A line read for one region alone (R105, R106): the command's units read it. -/
def State.mcOrdinary (s : State) (r st : Nat) (c : StreamCmd) : State := s.setHead r st (some { c with single := true })

/-- Whether a merge record is kept: a closed one for 1,024 clk after its response left (R106). -/
def MergeRec.kept (m : MergeRec) (clk : Nat) : Bool :=
  match m.left with
  | some t => clk < t + 1024
  | none => true

/-- `s` without the records whose time is over. -/
def State.expireRecords (s : State) : State := { s with mergeRecs := s.mergeRecs.filter fun m => m.kept s.clk }

/-- MULTICAST_REQUEST (R106): the next line of a multicast command reaches its home slice. -/
def execMulticastRequest (r st : Nat) (s : State) : Out :=
  let s := s.expireRecords
  .next (match s.stream r st with
  | [] => s
  | c :: _ =>
    let d := Desc.ofBytes c.desc
    match s.handle? r c.handle with
    | none => s
    | some h =>
      if !d.mc || c.mcWait || c.single || !c.line.isEmpty || !s.running c.inst || s.heldBack c.behind || c.off ≥ h.bytes then s
      else
        let x := engineActor r c.inst c.ctx (.stream r st) c.arrived
        match s.engineTarget x ((d.base + c.off) % 2 ^ 64) false with
        | .ask s => s
        | .race _ _ => s
        | .poison _ _ => s
        | .bad k a => s.streamFault r st c k (a.getD 0)
        | .ok s (.hbm a) =>
          let line := a / 1024
          let slice := l2Slice line
          let same := fun (m : MergeRec) => m.line == line && m.ctx == c.ctx && m.mask.toNat == d.mask
          let wait := fun (s : State) => s.setHead r st (some { c with mcWait := true })
          match s.mergeRecs.find? same with
          | some m =>
            if m.left.isSome then
              (s.modSlice slice fun k => { k with mclate := k.mclate + 1 }).mcOrdinary r st c
            else
              wait { s.modSlice slice (fun k => { k with mcmerge := k.mcmerge + 1 }) with
                mergeRecs := s.mergeRecs.map fun (y : MergeRec) =>
                  if same y then { y with joined := y.joined ++ [(r, st)] } else y }
          | none =>
            if (s.mergeRecs.filter fun m => m.slice == slice).length < 16 then
              wait { s with mergeRecs := s.mergeRecs ++
                [{ slice := slice, line := line, ctx := c.ctx, mask := BitVec.ofNat 64 d.mask
                   joined := [(r, st)], hint := d.hint, opened := s.clk }] }
            else (s.modSlice slice fun k => { k with mcfull := k.mcfull + 1 }).mcOrdinary r st c
        | .ok s _ => s.mcOrdinary r st c)

/-- The `i`-th merge record of a slice. -/
def State.mergeRec (s : State) (slice i : Nat) : Option MergeRec :=
  (s.mergeRecs.filter fun m => m.slice == slice)[i]?

/-- Whether a record's window has closed (R106). -/
def MergeRec.closed (m : MergeRec) (clk : Nat) : Bool :=
  m.opened + 64 ≤ clk ||
  (List.range 48).all fun n => !m.mask.getLsbD n || m.joined.any fun p => p.1 % 48 == n

/-- MULTICAST_RESPONSE (R106): the response leaves once, to the regions that joined. -/
def execMulticastResponse (slice i : Nat) (s : State) : Out :=
  .next (match s.mergeRec slice i with
  | none => s
  | some m =>
    if m.left.isSome || !m.closed s.clk then s
    else
      let s := { s with mergeRecs := s.mergeRecs.map fun (y : MergeRec) =>
        if y = m then { y with left := some s.clk } else y }
      m.joined.foldl (fun s p =>
        match s.stream p.1 p.2 with
        | c :: _ => if c.mcWait then s.mcDeliver p.1 p.2 c (m.line * 1024) m.hint else s
        | [] => s) s)

/-- MERGE_RECORD_EXPIRE (R106): a closed record goes 1,024 clk after its response left. -/
def execMergeRecordExpire (slice i : Nat) (s : State) : Out :=
  .next (match s.mergeRec slice i with
  | none => s
  | some m =>
    if m.kept s.clk then s else { s with mergeRecs := s.mergeRecs.erase m })

/-! ### Streamer nodes (R291) -/

/-- A fault of an engine node on its own token. -/
def State.engineFault (s : State) (e : EngineNode) (cause : Cause) (addr : Word64) : State :=
  s.commandFault e.region 0 0 (.node e.inst e.node) cause addr

/-- STREAM_NODE_COMMAND (R291): the command token at the head of a streamer node's port, once its queue has room
and its slot the state required. -/
def execStreamNodeCommand (inst node : Nat) (s : State) : Out :=
  .next (match s.engine? inst node with
  | none => s
  | some e =>
    match e.ins with
    | [] => s
    | t :: rest =>
      if e.isChord || e.faulted || e.finished || t.kind ≠ 0 || !s.running inst then s
      else
        let p := t.payload
        let store := p.getLsbD 68
        let free := p.getLsbD 69
        let n := Word.field p 79 72
        let sl := Word.field p 67 64
        let s := (s.observe (.engine inst node) t.rels).orderAfter (.engine inst node) t.before
        if t.psn then s.engineFault e .poison 0
        else if free && !store then s.engineFault e .reservedField 0
        else
          match s.inst? inst with
          | none => s
          | some i =>
            let x := { engineActor e.region inst i.ctx (.node inst node) e.arrived with agent := .engine inst node }
            match s.stream1 x (.node inst node) (p.extractLsb' 0 64) n sl store free false with
            | .bad k a => s.engineFault e k (a.getD 0)
            | .poison a n => (s.engineFault e .poison 0).meets (some (a, n))
            | .race _ a => s.engineFault e .race a
            | .ask s => s
            | .status s' 0 => s'.modEngine inst node fun v => { v with ins := rest, arrived := [], pending := v.pending + 1 }
            | .status _ _ => s)

end Sys2Proof.Machine
end

