-- ==== Sys2Proof/Machine/FacetMem.lean ====
section
/-!
DEFINITION. The facet's memory instructions (R293 to R295, R96), ordering points (R296), handle instructions
(R297) and versions (R267, R270, R271).
-/
namespace Sys2Proof.Machine

/-! ### Addresses (R293) -/

/-- The facet of a firing as an actor. -/
def Fire.actor (c : Fire) : Actor :=
  { agent := c.u.agent, region := c.u.region
    ctx := match c.s.inst? c.u.inst with
      | some i => i.ctx
      | none => 0
    sys := false, party := c.s.facetParty c.u c.slot
    issuer := .facet c.u.inst c.u.node c.u.clone c.slot c.u.pos, inst := c.u.inst
    arrived := c.lead.arrived.filter fun y => y.pos == c.u.pos
    since := c.rd.nextTx }

/-- The scaled offset in C (R140): a signed 6-bit number of 16-byte units. -/
def Fire.offset (c : Fire) : Int := (BitVec.ofNat 6 c.w.c.code).toInt * 16

/-- A scratchpad address of 32 bits with the offset added (R94, R293). -/
def Fire.spadAt (c : Fire) (a n : Nat) (s : State) : Acc Target :=
  s.spadTarget c.u.region (BitVec.ofInt 32 ((a : Int) + c.offset)).toNat n

/-- The scratchpad address in A, whose bits above 31 must be zero (R293). -/
def Fire.spadA (c : Fire) (n : Nat) (s : State) : Acc Target :=
  let a := c.a .whole
  if a.toNat / 2 ^ 32 ≠ 0 then .bad .addressForm (some (a.extractLsb' 0 64)) else c.spadAt a.toNat n s

/-- The global address in A with the offset added (R85, R293). -/
def Fire.globVa (c : Fire) : Word64 := (c.a .whole).extractLsb' 0 64 + BitVec.ofInt 64 c.offset

/-- The global address led to its place. -/
def Fire.globA (c : Fire) (va : Word64) (n : Nat) (write atomic : Bool) (s : State) : Acc Target :=
  if Word.field va 63 56 ≠ 0 then .bad .addressForm (some va) else s.globTarget c.actor va n write atomic

/-! ### Loads (R96, R115, R294) -/

/-- The sectors that the L1 of the facet at a rank holds: folded nodes share it (R310). -/
def State.l1At (s : State) (region rank : Nat) : List CacheLine := (s.facetsAt region rank).flatMap FacetUnit.l1

/-- `s` with no copy of the sector at `base` in the L1 of that facet. -/
def State.dropSector (s : State) (region rank base : Nat) : State :=
  { s with facets := s.facets.map fun u =>
      if u.region = region ∧ u.rank = rank then { u with l1 := u.l1.filter fun l => l.addr != base } else u }

/-- `s` with a sector in that L1, which holds as many as its size gives room for (R19, R96). -/
def State.fillSector (s : State) (region rank : Nat) (l : CacheLine) : State :=
  match s.facetsAt region rank with
  | [] => s
  | u :: us =>
    let cap := s.l1Size region rank / 128 - (us.flatMap FacetUnit.l1).length
    s.modFacet u.inst u.node u.clone u.pos fun v => { v with l1 := fillCopy v.l1 cap l }

/-- A facet's load: the disambiguator first (R121), then the bytes as memory held them before the firing
(R115), through the facet L1 where the hint allows (R96). It observes the carriers among the writes that it returns (R118). One that hits
that L1 does not reach the L2, and with hint 0b10 leaves its line there unmarked (DESIGN CHOICE, log entry 79). -/
def Fire.load (c : Fire) (tgt : State → Acc Target) (va : Word64) (n hint : Nat) (s : State) : Acc (List Byte) :=
  let x := c.actor
  (tgt s).bind fun s t =>
  (s.issue x t va n false none).bind fun s t =>
  let k := t.key x.region
  let y : Access := { space := k.1, addr := k.2, len := n, isWrite := false }
  match t with
  | .spad rank off =>
    let k := spadKey x.region rank off
    if c.rd.spadPoisoned k n then .bad .poison none else .ok (s.observeAt x.agent y) (Memory.readN c.rd.spad k n)
  | .glob pa (.hbm a) =>
    let base := a / 128 * 128
    let fresh :=
      if c.rd.poisoned a n then Acc.poison a n
      else Acc.ok ((s.observeAt x.agent y).l2Access a n x.ctx hint false) (Memory.readN c.rd.mem a n)
    if s.l1Size c.u.region c.u.rank = 0 then fresh
    else if hint = 3 then fresh.bind fun s bs => .ok (s.dropSector c.u.region c.u.rank base) bs
    else
      match (s.l1At c.u.region c.u.rank).find? fun l => l.addr == base with
      | some l => .ok (s.observeCopy x.agent l pa n) (l.read a n)
      | none =>
        fresh.bind fun s bs =>
          .ok (if c.rd.poisoned base 128 then s else s.fillSector c.u.region c.u.rank (c.rd.lineAt pa a)) bs
  | .glob _ (.remote dev a) => (s.remote x va dev a 1 n []).bind fun s bs => .ok (s.observeAt x.agent y) bs
  | .glob _ pl => (s.observeAt x.agent y).readPlace pl n x.ctx hint va

/-- Whether a store may go ahead: its address leads to a place, and no walk or older access is waited for (R93, R120, R121). -/
def Fire.storeReady (c : Fire) (tgt : State → Acc Target) (n : Nat) (s : State) : Acc Unit :=
  (tgt s).bind fun s t =>
    let k := t.key c.u.region
    if s.mustWait c.u.region c.u.agent c.rd.nextTx { space := k.1, addr := k.2, len := n, isWrite := true } then .ask s
    else .ok s ()

/-- A facet's store, made at its place at the firing's end (R10, R115). -/
def Fire.store (c : Fire) (tgt : State → Acc Target) (va : Word64) (bs : List Byte) (hint : Nat) (s : State) :
    Acc Unit :=
  let x := c.actor
  (tgt s).bind fun s t =>
  (s.issue x t va bs.length true none).bind fun s t =>
  let k := t.key x.region
  let carried := fun (s : State) => s.carry x.agent { space := k.1, addr := k.2, len := bs.length, isWrite := true }
  match t with
  | .spad rank off => .ok (carried (s.writeSpad (spadKey x.region rank off) bs)) ()
  | .glob _ pl => (s.writePlace x pl bs hint va).bind fun s _ => .ok (carried s) ()

/-- The end of a load that gives `f` of its bytes. -/
def Fire.loaded (c : Fire) (tgt : State → Acc Target) (va : Word64) (n hint : Nat) (f : List Byte → Word128) : FRes :=
  (c.load tgt va n hint c.s).fire fun s bs => .ok s { val := some (f bs), cond := condWhole (f bs) }

/-- The 16 bytes of a word. -/
def wordBytes (v : Word128) : List Byte := Word.toBytes 16 v.toNat

/-- 16 bytes as a word. -/
def bytesWord (bs : List Byte) : Word128 := BitVec.ofNat 128 (Word.ofBytes bs)

/-- LDS (R294). -/
def evalLds (c : Fire) : FRes := c.loaded (c.spadA 16) 0 16 0 bytesWord

/-- LDS: one firing. -/
def execLds (w : FWord) (s : State) : Out := firing (.lds w) evalLds s

/-- STS (R294). B is read whole: an immediate is extended to 128 bits (DESIGN CHOICE, log entry 40). -/
def evalSts (c : Fire) : FRes :=
  (c.store (c.spadA 16) 0 (wordBytes (c.b .whole)) 0 c.s).fire fun s _ => .ok s {}

/-- STS: one firing. -/
def execSts (w : FWord) (s : State) : Out := firing (.sts w) evalSts s

/-- An access of several parts whose later part must wait: none of the parts before it is made yet (R10, R121). -/
def Acc.whole {α : Type} (x : Acc α) (s : State) : Acc α :=
  match x with
  | .ask _ => .ask s
  | y => y

/-- LDSW (R294): each 32-bit lane of A is an address of its own. -/
def evalLdsw (c : Fire) : FRes :=
  let addrs := lanes 32 (c.a (.int 32))
  let r := addrs.foldl (fun (acc : Acc (List Nat)) a =>
    acc.bind fun s vs =>
      (c.load (c.spadAt a 4) 0 4 0 s).bind fun s bs => .ok s (vs ++ [Word.ofBytes bs])) (.ok c.s [])
  (r.whole c.s).fire fun s vs => .ok s { val := some (packLanes 32 vs), cond := condWhole (packLanes 32 vs) }

/-- LDSW: one firing (DEDUCED, log entry 24). -/
def execLdsw (w : FWord) (s : State) : Out := firing (.ldsw w) evalLdsw s

/-- STSW (R294): the lanes in order; an immediate B is extended to 32 bits in each (DESIGN CHOICE, log entry 40). -/
def evalStsw (c : Fire) : FRes :=
  let pairs := (lanes 32 (c.a (.int 32))).zip (lanes 32 (c.b (.int 32)))
  let r := pairs.foldl (fun (acc : Acc Unit) p =>
    acc.bind fun s _ => c.store (c.spadAt p.1 4) 0 (Word.toBytes 4 p.2) 0 s) (.ok c.s ())
  (r.whole c.s).fire fun s _ => .ok s {}

/-- STSW: one firing. -/
def execStsw (w : FWord) (s : State) : Out := firing (.stsw w) evalStsw s

/-- LDG (R294). -/
def evalLdg (c : Fire) : FRes :=
  let va := c.globVa
  c.loaded (c.globA va 16 false false) va 16 c.w.h.toNat bytesWord

/-- LDG: one firing. -/
def execLdg (w : FWord) (s : State) : Out := firing (.ldg w) evalLdg s

/-- LDGB (R294): 4 bytes in every 32-bit lane. -/
def evalLdgb (c : Fire) : FRes :=
  let va := c.globVa
  c.loaded (c.globA va 4 false false) va 4 c.w.h.toNat fun bs => packLanes 32 (List.replicate 4 (Word.ofBytes bs))

/-- LDGB: one firing. -/
def execLdgb (w : FWord) (s : State) : Out := firing (.ldgb w) evalLdgb s

/-- STG (R294). B is read whole (DESIGN CHOICE, log entry 40). -/
def evalStg (c : Fire) : FRes :=
  let va := c.globVa
  (c.store (c.globA va 16 true false) va (wordBytes (c.b .whole)) c.w.h.toNat c.s).fire fun s _ => .ok s {}

/-- STG: one firing. -/
def execStg (w : FWord) (s : State) : Out := firing (.stg w) evalStg s

/-- The lanes that STGE stores: l where p(4 + l) is set. -/
def Fire.stgeLanes (c : Fire) : List Nat := (List.range 4).filter fun l => c.u.preds.getLsbD (4 + l)

/-- The address of an STGE lane. -/
def Fire.stgeVa (c : Fire) (l : Nat) : Word64 := c.globVa + BitVec.ofNat 64 (4 * l)

/-- STGE (R294): each lane that a predicate enables is a 4-byte access of its own. No lane is stored before every lane's address has
been led to its place (R164). B is read whole (DESIGN CHOICE, log entry 40). -/
def evalStge (c : Fire) : FRes :=
  let v := c.b .whole
  let ready := c.stgeLanes.foldl (fun (acc : Acc Unit) l =>
    acc.bind fun s _ => c.storeReady (c.globA (c.stgeVa l) 4 true false) 4 s) (.ok c.s ())
  ready.fire fun _ _ =>
    ((c.stgeLanes.foldl (fun (acc : Acc Unit) l =>
      acc.bind fun s _ =>
        c.store (c.globA (c.stgeVa l) 4 true false) (c.stgeVa l) (Word.toBytes 4 (lane 32 v l)) c.w.h.toNat s)
      (.ok c.s ())).whole c.s).fire fun s _ => .ok s {}

/-- STGE: one firing (DEDUCED, log entry 46). -/
def execStge (w : FWord) (s : State) : Out := firing (.stge w) evalStge s

/-- PREF (R294): the sector into the facet L1; a translation or access fault discards it silently. With hint 0b11 it acts on the
L1 as a load with that hint does (R96): it reads the L2, invalidates the copy held, and fills nothing (DESIGN CHOICE, log entry
75). -/
def evalPref (c : Fire) : FRes :=
  let hint := c.w.h.toNat
  match c.globA (c.globVa &&& 0xFFFFFFFFFFFFFF80) 128 false false c.s with
  | .ok s (.glob pa (.hbm a)) =>
    let held := (s.l1At c.u.region c.u.rank).any fun l => l.addr == a
    if s.l1Size c.u.region c.u.rank = 0 ∨ (hint ≠ 3 ∧ held = true) then .ok s {}
    else
      let s := s.l2Access a 128 c.actor.ctx hint false
      .ok (if hint = 3 then s.dropSector c.u.region c.u.rank a
        else if c.rd.poisoned a 128 then s
        else s.fillSector c.u.region c.u.rank (c.rd.lineAt pa a)) {}
  | .ok s _ => .ok s {}
  | .ask s => .wait s
  | .bad k va => if k = .pageFault ∨ k = .access then .ok c.s {} else .fault { cause := k, faddr := va.getD 0 }
  | .poison _ _ => .ok c.s {}
  | .race o va => .fault { cause := .race, faddr := va, other := o }

/-- PREF: one firing. -/
def execPref (w : FWord) (s : State) : Out := firing (.pref w) evalPref s

/-! ### Atomics (R295) -/

/-- The control fields in bits 127:64 of A: LEVEL, SZ and OPER; `none` where they are refused. -/
def atomControl (a : Word128) (cas : Bool) : Option (Nat × Bool × Nat) :=
  let level := Word.field a 66 64
  let oper := Word.field a 71 68
  if Word.field a 127 72 ≠ 0 ∨ level > 4 ∨ (if cas then oper ≠ 0 else oper > 10) then none
  else some (level, a.getLsbD 67, oper)

/-- ATOMS, ATOMG, CASS and CASG (R295): OPER 9 of the first two is a CAS as well, and reads what it expects from B. A and B are read
whole (DESIGN CHOICE, log entry 40). -/
def atomicFiring (cas onSpad : Bool) (c : Fire) : FRes :=
  let a := c.a .whole
  let b := c.b .whole
  match atomControl a cas with
  | none => faultWith .reservedField
  | some (level, wide, oper) =>
    let n := if wide then 8 else 4
    let code := if cas then 9 else oper
    let v := b.toNat % 2 ^ (8 * n)
    let e := b.toNat / 2 ^ 64 % 2 ^ (8 * n)
    let va := if onSpad then 0 else c.globVa
    let tgt := if onSpad then
        fun s => if Word.field a 63 32 ≠ 0 then .bad .addressForm (some (a.extractLsb' 0 64))
          else c.spadAt (Word.field a 31 0) n s
      else c.globA va n true true
    if code = 10 ∧ (onSpad ∨ wide) then .fault { cause := .access }
    else
      (c.s.atomic c.actor tgt va n (c.s.facetScope c.u level) (atomicNew code (8 * n) v e) (code + 16 * wide.toNat)
        (Word.toBytes 8 v ++ Word.toBytes 8 e) onSpad c.w.h.toNat).fire fun s old =>
        .ok s
          { val := some ((BitVec.ofInt 64 (signedN (8 * n) old)).zeroExtend 128)
            cond := if code = 9 then old == e else old != 0 }

/-- ATOMS (R295): in a scratchpad. -/
def evalAtoms (c : Fire) : FRes := atomicFiring false true c

/-- ATOMS: one firing. -/
def execAtoms (w : FWord) (s : State) : Out := firing (.atoms w) evalAtoms s

/-- ATOMG (R295): in global memory. -/
def evalAtomg (c : Fire) : FRes := atomicFiring false false c

/-- ATOMG: one firing. -/
def execAtomg (w : FWord) (s : State) : Out := firing (.atomg w) evalAtomg s

/-- CASS (R295): compare-exchange in a scratchpad. -/
def evalCass (c : Fire) : FRes := atomicFiring true true c

/-- CASS: one firing. -/
def execCass (w : FWord) (s : State) : Out := firing (.cass w) evalCass s

/-- CASG (R295): compare-exchange in global memory. -/
def evalCasg (c : Fire) : FRes := atomicFiring true false c

/-- CASG: one firing. -/
def execCasg (w : FWord) (s : State) : Out := firing (.casg w) evalCasg s

/-! ### Ordering points (R296) -/

/-- Whether an issuer is a slot of this facet node's clone. -/
def Issuer.isFacet (inst node clone : Nat) : Issuer → Bool
  | .facet i n c _ _ => i == inst && n == node && c == clone
  | _ => false

/-- The level that A names (R296). -/
def Fire.level (c : Fire) : Nat := c.w.a.code - 48

/-- A firing that waits until every earlier store and atomic of the facet is acknowledged. -/
def Fire.acked (c : Fire) (f : State → State) : FRes :=
  if c.s.unacked (Issuer.isFacet c.u.inst c.u.node c.u.clone) then .wait c.s else .ok (f c.s) {}

/-- FENCE (R296): a full point. -/
def evalFence (c : Fire) : FRes :=
  let sc := c.s.facetScope c.u c.level
  c.acked fun s => (s.acquire c.u.agent c.u.region sc).release c.u.agent c.u.region sc

/-- FENCE: one firing. -/
def execFence (w : FWord) (s : State) : Out := firing (.fence w) evalFence s

/-- ACQ (R296): an acquire point. -/
def evalAcq (c : Fire) : FRes :=
  .ok (c.s.acquire c.u.agent c.u.region (c.s.facetScope c.u c.level)) {}

/-- ACQ: one firing. -/
def execAcq (w : FWord) (s : State) : Out := firing (.acq w) evalAcq s

/-- REL (R296): a release point. -/
def evalRel (c : Fire) : FRes :=
  c.acked fun s => s.release c.u.agent c.u.region (c.s.facetScope c.u c.level)

/-- REL: one firing. -/
def execRel (w : FWord) (s : State) : Out := firing (.rel w) evalRel s

/-! ### Handles (R297) -/

/-- The handle that A names (R140). -/
def Fire.handleNum (c : Fire) : Nat := (c.u.hbase.toNat + c.w.a.code) % 256

/-- The handle that A names, checked by R281. -/
def Fire.handle (c : Fire) : Option Handle := c.s.handleFor c.u.region c.handleNum c.actor.ctx

/-- A handle instruction: ACCESS without its handle. -/
def Fire.withHandle (c : Fire) (f : Handle → FRes) : FRes :=
  match c.handle with
  | none => faultWith .access
  | some h => f h

/-- A handle instruction whose B names a slot in bits 3:0, every other bit zero (R297). -/
def Fire.withSlot (c : Fire) (f : Handle → Nat → FRes) : FRes :=
  c.withHandle fun h =>
    let b := (c.b .whole).toNat
    if b ≥ 16 ∨ b ≥ h.slots.length then faultWith .reservedField else f h b

/-- A 64-bit result, the rest of D zero. -/
def low64 (v : Word64) : Word128 := v.zeroExtend 128

/-- HSTAT (R297). -/
def evalHstat (c : Fire) : FRes :=
  c.withSlot fun h k =>
    let full := (h.slot k).state == .full
    let s := if full then c.s.orderAfter c.u.agent (h.slot k).vc else c.s
    .ok (s.seePtr c.u.agent h k) { val := some (low64 (h.hstat k)), cond := full }

/-- HSTAT: one firing. -/
def execHstat (w : FWord) (s : State) : Out := firing (.hstat w) evalHstat s

/-- The slot that became FULL first, the lowest-numbered of those that did in one clk (R297). -/
def Handle.firstFull (h : Handle) : Option Nat :=
  (List.range h.slots.length).foldl (fun (best : Option Nat) k =>
    if (h.slot k).state = .full then
      match best with
      | some b => if (h.slot k).fullAt < (h.slot b).fullAt then some k else best
      | none => some k
    else best) none

/-- HTAKE (R297): B = 16 takes the slot that became FULL first. -/
def evalHtake (c : Fire) : FRes :=
  c.withHandle fun h =>
    let b := (c.b .whole).toNat
    if b > 16 ∨ (b < 16 ∧ b ≥ h.slots.length) then faultWith .reservedField
    else
      match if b = 16 then h.firstFull else if (h.slot b).state = .full then some b else none with
      | none => .wait c.s
      | some k =>
        let s := (((c.s.orderAfter c.u.agent (h.slot k).vc).seePtr c.u.agent h k).slotTo h.region h.num k .draining).met h.region h.num k
        let v := ((s.handle? h.region h.num).map fun h => h.hstat k).getD 0
        .ok s { val := some (low64 v), cond := true }

/-- HTAKE: one firing. -/
def execHtake (w : FWord) (s : State) : Out := firing (.htake w) evalHtake s

/-- HFREE (R283, R297). It comes before every other event of its clk on the slot (R286): where one has taken effect already it waits
for the next (DESIGN CHOICE, log entry 65). -/
def evalHfree (c : Fire) : FRes :=
  c.withSlot fun h k =>
    if (h.slot k).metAt = some c.s.clk then .wait c.s else
    match (h.slot k).state with
    | .filling => .wait c.s
    | .free => .ok c.s { cond := false }
    | _ => .ok (c.s.freeBy h.region h.num k c.u.agent) { cond := true }

/-- HFREE: one firing. -/
def execHfree (w : FWord) (s : State) : Out := firing (.hfree w) evalHfree s

/-- A write pointer read: it orders the bytes below it (R130). -/
def Fire.readWptr (c : Fire) (h : Handle) (k : Nat) (cond : Bool) : FRes :=
  let x := h.slot k
  let s := if x.wptr > 0 then c.s.orderAfter c.u.agent x.vc else c.s
  .ok (s.seePtr c.u.agent h k) { val := some (BitVec.ofNat 128 (x.wptr % 2 ^ 32)), cond := cond }

/-- WPTR (R297). -/
def evalWptr (c : Fire) : FRes := c.withSlot fun h k => c.readWptr h k ((h.slot k).wptr != 0)

/-- WPTR: one firing. -/
def execWptr (w : FWord) (s : State) : Out := firing (.wptr w) evalWptr s

/-- WPWAIT (R297). -/
def evalWpwait (c : Fire) : FRes :=
  c.withSlot fun h k =>
    let x := h.slot k
    if x.wptr ≥ (c.c .whole).toNat % 2 ^ 32 ∨ x.state = .full ∨ x.state = .aborted then
      c.readWptr h k (x.state == .full)
    else .wait c.s

/-- WPWAIT: one firing. -/
def execWpwait (w : FWord) (s : State) : Out := firing (.wpwait w) evalWpwait s

/-- TREQ (R297): a stream command from a facet. -/
def evalTreq (c : Fire) : FRes :=
  c.withHandle fun h =>
    let b := c.b .whole
    if Word.field b 127 70 ≠ 0 ∨ (b.getLsbD 69 ∧ !b.getLsbD 68) then faultWith .reservedField
    else
      let x := c.actor
      match c.s.stream1 x x.issuer (b.extractLsb' 0 64) h.num (Word.field b 67 64) (b.getLsbD 68) (b.getLsbD 69) true with
      | .status s n => .ok s { val := some (BitVec.ofNat 128 n), cond := n == 0 }
      | .bad k a => .fault { cause := k, faddr := a.getD 0 }
      | .poison a n => .fault { cause := .poison, found := some (a, n) }
      | .race o a => .fault { cause := .race, faddr := a, other := o }
      | .ask s => .wait s

/-- TREQ: one firing. -/
def execTreq (w : FWord) (s : State) : Out := firing (.treq w) evalTreq s

/-! ### Versions (R267, R270, R271) -/

/-- CEASE (R267): the head token's SEQ goes upstream where its arc is versioned and it has a version. -/
def evalCease (c : Fire) : FRes :=
  match c.w.a.channel, c.forwarded with
  | some (k, _), some t =>
    match c.s.arcInto c.u.inst false c.u.node k.val with
    | some a =>
      if a.vs ∧ t.ver ≠ 0 then
        .ok { c.s with ceases := c.s.ceases ++ [⟨a.inst, a.idx, t.seq, t.psn⟩] } { cond := true }
      else .ok c.s { cond := false }
    | none => .ok c.s { cond := false }
  | _, _ => .ok c.s { cond := false }

/-- CEASE: one firing. -/
def execCease (w : FWord) (s : State) : Out := firing (.cease w) evalCease s

/-- The bound that BEXP names, as F32 (R270). -/
def boundF32 (bexp : Nat) : Nat :=
  if bexp = 0x80 then 0x7F800000
  else (max ((BitVec.ofNat 8 bexp).toInt) (-126) + 127).toNat * 2 ^ 23

/-- VERS (R270). -/
def evalVers (c : Fire) : FRes :=
  let w := (c.forwarded.map Token.ver).getD 0
  let v := Word.field w 4 0
  c.result (packLanes 32 [w.toNat, boundF32 (Word.field w 15 8), v, (w.getLsbD 5).toNat + 2 * (w.getLsbD 6).toNat])
    (v != 0)

/-- VERS: one firing. -/
def execVers (w : FWord) (s : State) : Out := firing (.vers w) evalVers s

/-- VFIN (R271): A as a final version; A is read whole (DESIGN CHOICE, log entry 40). -/
def evalVfin (c : Fire) : FRes :=
  let vs := ((c.u.reads (channelsOf [c.w.a, c.w.b])).map Token.ver).filter fun v => v != 0
  let top := if vs.isEmpty then 1 else vs.foldl (fun n v => max n (Word.field v 4 0)) 0
  let notF := vs.any fun v => !v.getLsbD 5
  let x := (vs.any fun v => v.getLsbD 6) || notF
  .ok c.s
    { emits := [{ port := outNum c.w.d, payload := c.a .whole
                  ver := some (BitVec.ofNat 16 (0x8020 + 64 * x.toNat + top)) }]
      cond := notF }

/-- VFIN: one firing. -/
def execVfin (w : FWord) (s : State) : Out := firing (.vfin w) evalVfin s

end Sys2Proof.Machine
end

