-- ==== Sys2Proof/Machine/Tiles.lean ====
section
/-!
DEFINITION. Matrix islands: descriptors and precision registers (R80, R81, R252 to R257), operand decode (R68 to
R71, R258, R259), diagonals (R72 to R75), bounds (R78), drains (R82), TDSET, PRSET, ACCRD and TEMPTY.
-/
namespace Sys2Proof.Machine

/-! ### Descriptor words -/

/-- The code of a tile's state (R257). -/
def TileState.code : TileState → Nat
  | .empty => 0
  | .accum => 1
  | .firing => 2
  | .final => 3

/-- Whether a row or a column is marked invalid. -/
def Tile.inv (t : Tile) : Bool := t.invrow != 0 || t.invcol != 0

/-- TSTAT (R257). -/
def Tile.tstat (t : Tile) : Word64 :=
  pack [(32, t.lastver.toNat), (24, t.fired), (16, t.route), (8, t.state.code), (5, t.ceased.toNat),
    (4, t.inv.toNat), (3, t.dsat.toNat), (2, t.ovf.toNat), (1, t.dinex.toNat), (0, t.inexact.toNat)]

/-- Tile `t` of an island. -/
def IslandUnit.tile (u : IslandUnit) (t : Nat) : Tile := u.tiles.getD t {}

/-- Descriptor word `w` of tile `t` (R252). -/
def IslandUnit.word (u : IslandUnit) (t w : Nat) : Word64 :=
  let x := u.tile t
  match w with
  | 0 => x.acfg
  | 1 => x.awin
  | 2 => u.bcfg
  | 3 => x.route3
  | 4 => x.route4
  | 5 => x.tstat
  | 6 => x.invrow
  | _ => x.invcol

/-- The bits of a writable descriptor word that are no RZ field (R253 to R256). -/
def wordMask (w : Nat) : Word64 :=
  match w with
  | 0 => 0x80FFFFBFFF00FFFF
  | 1 => 0x0000FFFFFFFF00FF
  | 2 => 0x000000FF00000000
  | _ => 0x8FFFC0FF8FFFC0FF

/-- A 32-bit route entry: V, PORT, NR, ROW0 and HANDLE (R256). -/
structure Route where
  v : Bool
  port : Nat
  nr : Nat
  row0 : Nat
  handle : Nat

/-- Entry `e` of the two route words. -/
def routeEntry (w3 w4 : Word64) (e : Nat) : Route :=
  let w := if e / 2 = 0 then w3 else w4
  let o := e % 2 * 32
  { v := Word.bit w (o + 31), port := Word.field w (o + 27) (o + 26), nr := Word.field w (o + 25) (o + 20) + 1
    row0 := Word.field w (o + 19) (o + 14), handle := Word.field w (o + 7) o }

/-- Whether a descriptor word's map refuses a value (R253, R256). -/
def wordRefused (w : Nat) (v : Word64) : Bool :=
  let over_ := fun e : Nat => let r := routeEntry v v e; r.v && r.row0 + r.nr > 64
  match w with
  | 0 => Word.bit v 63 && Word.field v 55 48 == 0
  | 3 => over_ 0 || over_ 1
  | 4 => over_ 0 || over_ 1
  | _ => false

/-- Whether a precision register refuses a value (R81). -/
def pregRefused (v : Word64) : Bool :=
  let width := fun n => n == 0 || n > 16
  Word.field v 63 28 != 0 || width (Word.field v 4 0) || width (Word.field v 9 5) || Word.field v 13 10 ≥ 14

/-- The fields of a precision register (R80). -/
def pregMa (v : Word64) : Nat := Word.field v 4 0
def pregMb (v : Word64) : Nat := Word.field v 9 5
def pregFo (v : Word64) : Nat := Word.field v 13 10
def pregRnd (v : Word64) : Nat := Word.field v 15 14
def pregPs (v : Word64) : Nat := Word.field v 18 16
def pregAx (v : Word64) : Bool := Word.bit v 19
def pregAnchor (v : Word64) : Int := (v.extractLsb' 20 8).toInt

/-- The fields of ACFG (R253), AWIN (R254) and BCFG (R255). -/
def acfgEn (v : Word64) : Bool := Word.bit v 63
def acfgNf (v : Word64) : Nat := Word.field v 55 48
def acfgWuse (v : Word64) : Nat := Word.field v 47 40
def acfgKeep (v : Word64) : Bool := Word.bit v 39
def acfgRows (v : Word64) : Nat := Word.field v 37 32 + 1
def acfgK (v : Word64) : Nat := Word.field v 31 24 + 1
def acfgPad (v : Word64) : Nat := Word.field v 15 0
def awinRs (v : Word64) : Nat := Word.field v 47 32
def awinJs (v : Word64) : Nat := Word.field v 31 16
def awinKi (v : Word64) : Nat := Word.field v 7 0 + 1
def bcfgKb (v : Word64) : Nat := Word.field v 39 32 + 1

/-- `s` with tile `t` of an island changed by `f`. -/
def State.modTile (s : State) (r isl t : Nat) (f : Tile → Tile) : State :=
  s.modIsland r isl fun u => { u with tiles := u.tiles.modify t f }

/-- Tile `t` with descriptor word `w` written. -/
def Tile.setWord (x : Tile) (w : Nat) (v : Word64) : Tile :=
  match w with
  | 0 => { x with acfg := v }
  | 1 => { x with awin := v }
  | 3 => { x with route3 := v }
  | 4 => { x with route4 := v }
  | _ => x

/-- A descriptor word written (R252, R261): while no tile is enabled, the next accumulation is tile 0's. -/
def IslandUnit.setWord (u : IslandUnit) (t w : Nat) (v : Word64) : IslandUnit :=
  let v := v &&& wordMask w
  let u := if w = 2 then { u with bcfg := v } else { u with tiles := u.tiles.modify t fun x => x.setWord w v }
  if u.tiles.any fun x => acfgEn x.acfg then u else { u with turn := 0 }

/-- A write accepted, as it takes effect. -/
def IslandUnit.write (u : IslandUnit) (x : IslandWrite) : IslandUnit :=
  if x.preg then { u with tiles := u.tiles.modify x.tile fun t => { t with preg := x.value } }
  else u.setWord x.tile x.word x.value

/-- The registers of an island as last written, the writes accepted in this clk among them. -/
def IslandUnit.written (u : IslandUnit) : IslandUnit := u.writes.foldl IslandUnit.write u

/-- A clk ends (R278): the writes accepted in it take effect, and what stands then is what the next clk's readers see. -/
def IslandUnit.clockEdge (u : IslandUnit) : IslandUnit :=
  { u.written with writes := [], shown := u.written.tiles }

/-- TDSET and PRSET (R252): a write takes effect in the clk after the island accepts it (R278). -/
def islandReg (preg : Bool) (d a b : Reg) (s : State) : Out :=
  conductor s fun r c =>
    let xa := c.get a
    let xb := c.get b
    let rd := Word.bit xa 16
    let w := Word.field xa 15 13
    let t := Word.field xa 12 12
    if Word.field xa 63 17 ≠ 0 ∨ (preg ∧ w ≠ 0) ∨ (rd ∧ xb ≠ 0) then trapWith .reservedField
    else
      match s.islands.find? fun u => some u.inst == c.inst && u.node == Word.field xa 11 0 with
      | none => trapWith .config
      | some u =>
        let old := if preg then (u.written.tile t).preg else u.written.word t w
        if rd then .done (s.setX r d old)
        else if (if preg then pregRefused xb else w ≥ 5 || wordRefused w xb) then trapWith .reservedField
        else .done ((s.modIsland u.region u.isl fun u =>
          { u with writes := u.writes ++ [⟨preg, t, w, xb⟩] }).setX r d old)

/-- TDSET (R252) (DEDUCED, log entry 50). -/
def execTdset (d a b : Reg) (s : State) : Out := islandReg false d a b s

/-- PRSET (R252). -/
def execPrset (d a b : Reg) (s : State) : Out := islandReg true d a b s

/-! ### Operand decode (R68 to R71) -/

/-- The value of a raw element of an A or B format (R68). -/
def tileVal (fmt raw : Nat) : Float.Val :=
  match fmt with
  | 0x8 => Float.decodeTaper Float.tf8 raw
  | 0x9 => Float.decodeTaper Float.tf6 (raw % 64)
  | 0xA => Float.decode Float.bf16 raw
  | 0xB => Float.decode Float.f16 raw
  | _ => if fmt < 4 then intVal (signedN (elemBits fmt) raw) else .fin false raw 0

/-- The width of an integer format. -/
def intWidth (fmt : Nat) : Option Nat := if fmt < 8 then some (elemBits fmt) else none

/-- What a block, a row or a column decodes to: its elements, the largest exponent of its nonzero blocks, whether a
finite value changed, and whether an element was NaR, NaN or infinite. -/
structure Decoded where
  elems : List Elem := []
  top : Option Int := none
  changed : Bool := false
  invalid : Bool := false

/-- The larger of two exponents, where there are any. -/
def topOf (a b : Option Int) : Option Int :=
  match a, b with
  | some x, some y => some (max x y)
  | some x, none => some x
  | none, y => y

/-- One block decoded at `m` bits (R70, R71). -/
def decodeBlock (fmt m : Nat) (vs : List Float.Val) : Decoded :=
  let parts := vs.map fun v => match v with
    | .fin n k e => (n, k, e)
    | _ => (false, 0, (0 : Int))
  let invalid := vs.any fun v => match v with
    | .fin _ _ _ => false
    | _ => true
  let leads := (parts.filter fun x => x.2.1 != 0).map fun x => x.2.2 + (Float.bitLen x.2.1 : Int) - 1
  match leads with
  | [] => { elems := parts.map fun x => ⟨x.1, 0, 0⟩, invalid := invalid }
  | l :: ls =>
    let lead := ls.foldl max l
    let e0 : Int := match intWidth fmt with
      | some n => if n ≤ m then (n : Int) - 1 else lead
      | none => lead
    let mag := fun (e : Int) (x : Bool × Nat × Int) => Float.roundUnits 0 false x.2.1 x.2.2 false (e - m + 1)
    let e := if parts.any fun x => mag e0 x == 2 ^ m then e0 + 1 else e0
    let u := e - m + 1
    { elems := parts.map fun x => ⟨x.1, mag e x, e⟩
      top := some e
      changed := parts.any fun x => x.2.2 < u && x.2.1 % 2 ^ (u - x.2.2).toNat != 0
      invalid := invalid }

/-- A row or a column decoded block by block. -/
def decodeRun (fmt m : Nat) (raws : List Nat) : Decoded :=
  ((List.range ((raws.length + 31) / 32)).map fun k =>
    decodeBlock fmt m (((raws.drop (32 * k)).take 32).map (tileVal fmt))).foldl (fun x y =>
      { elems := x.elems ++ y.elems, top := topOf x.top y.top, changed := x.changed || y.changed
        invalid := x.invalid || y.invalid }) {}

/-- 64 bits, one for each row or column of a list that has the property. -/
def marks (ds : List Decoded) : Word64 :=
  BitVec.ofNat 64 (((List.range ds.length).filter fun k => (ds.getD k {}).invalid).foldl (fun n k => n + 2 ^ k) 0)

/-- The index of A element (r, t) in its slot (R259). -/
def aIndex (awin : Word64) (r t : Nat) : Nat :=
  r * awinRs awin + t / awinKi awin * awinJs awin + t % awinKi awin

/-- Raw element `e` of a slot's contents as one number. -/
def rawElem (n z e : Nat) : Nat := n / 2 ^ (e * z) % 2 ^ z

/-- The raw A row `r` (R259). -/
def aRow (acfg awin : Word64) (fmt n r : Nat) : List Nat :=
  let z := elemBits fmt
  (List.range (acfgK acfg)).map fun t =>
    if r ≥ acfgRows acfg then acfgPad acfg % 2 ^ z else rawElem n z (aIndex awin r t)

/-- Whether some A element lies past its slot of `bytes` bytes (R259). -/
def aPast (acfg awin : Word64) (fmt bytes : Nat) : Bool :=
  (List.range (acfgRows acfg)).any fun r => (List.range (acfgK acfg)).any fun t =>
    (aIndex awin r t + 1) * elemBits fmt > 8 * bytes

/-- The raw B column `col` (R260). -/
def bColumn (fmt n kb col : Nat) : List Nat :=
  (List.range kb).map fun t => rawElem n (elemBits fmt) (t * 64 + col)

/-- One tile's decode of a B tile (R71, R260). -/
def decodeB (fmt n kb mb : Nat) : BDec :=
  let ds := (List.range 64).map fun col => decodeRun fmt mb (bColumn fmt n kb col)
  { mb := mb, b := ds.map Decoded.elems, maxB := ds.foldl (fun m d => topOf m d.top) none
    dinex := ds.any Decoded.changed, invcol := marks ds }

/-! ### Diagonals (R72 to R75) -/

/-- n_d (R72). -/
def pairsOn (ma mb d : Nat) : Nat := min d (ma - 1) + 1 - (d + 1 - mb)

/-- The plane pairs of diagonal `d` in which both magnitudes have a bit. -/
def pairCount (ma mb d x y : Nat) : Nat :=
  ((List.range ma).filter fun i => i ≤ d && d - i < mb && x.testBit i && y.testBit (d - i)).length

/-- What one element of the output takes from diagonal `d`, and whether a contribution was dropped (R74). -/
def diagSum (ma mb d : Nat) (anchor : Int) (xs ys : List Elem) : Int × Bool :=
  (xs.zip ys).foldl (fun acc p =>
    let n := pairCount ma mb d p.1.mag p.2.mag
    if n = 0 then acc
    else
      let w := (d : Int) + p.1.exp + p.2.exp - ma - mb + 2
      if w ≥ anchor then
        let v : Int := (n * 2 ^ (w - anchor).toNat : Nat)
        (acc.1 + (if p.1.neg != p.2.neg then -v else v), acc.2)
      else (acc.1, true)) (0, false)

/-- The limit of an accumulator (R74). -/
def accMax : Int := 2 ^ 63 - 1

/-- A tile after diagonal `d` of a firing (R74). -/
def Tile.addDiagonal (x : Tile) (f : Firing) (b : List (List Elem)) : Tile :=
  let sums := (List.range 4096).map fun k =>
    diagSum f.ma f.mb f.d x.anchor (f.a.getD (k / 64) []) (b.getD (k % 64) [])
  let new := (List.range 4096).map fun k =>
    let old := x.acc.getD k 0
    if x.sat.getD k false then (old, true)
    else
      let v := old + (sums.getD k (0, false)).1
      (Word.sat v (-accMax) accMax, v ≥ accMax || v ≤ -accMax)
  { x with
    acc := new.map Prod.fst
    sat := new.map Prod.snd
    ovf := x.ovf || new.any Prod.snd
    inexact := x.inexact || sums.any Prod.snd }

/-- BEXP after diagonal `d` (R78). -/
def Tile.bound (x : Tile) (f : Firing) : BitVec 8 :=
  let n := ((List.range f.d).foldl (fun n k => n + pairsOn f.ma f.mb k * 2 ^ k) 0) * f.k
  let lead : Int := f.maxA + f.maxB - f.ma - f.mb + 2
  let ceil : Int := lead + (if n = 2 ^ Nat.log2 n then Nat.log2 n else Nat.log2 n + 1 : Nat)
  if x.ovf || x.inv then 0x80
  else if n = 0 then 0x81
  else if ceil > 127 then 0x80
  else BitVec.ofInt 8 (max ceil (-126))

/-- The clk of a diagonal (R79). -/
def diagClk (ma mb d k : Nat) : Nat := (pairsOn ma mb d * k + 63) / 64

/-! ### Drains (R82) -/

/-- What an element drains to. -/
structure Drained where
  bits : Nat
  dsat : Bool := false
  subnormal : Bool := false

/-- The result for an element of an invalid row or column. -/
def invalidElem (fo : Nat) : Nat :=
  match fo with
  | 0x8 => 2 ^ 7
  | 0x9 => 2 ^ 5
  | 0xA => Float.bf16.nan
  | 0xB => Float.f16.nan
  | 0xC => Float.f32.nan
  | _ => if fo < 4 ∨ fo = 0xD then 2 ^ (elemBits fo - 1) else 0

/-- A rounded value as a drained element. -/
def Float.Rounded.drained (r : Float.Rounded) : Drained :=
  { bits := r.bits, dsat := r.overflow, subnormal := r.subnormal }

/-- acc × 2^anchor converted to format `fo` by mode `rnd` (R82). -/
def drainElem (fo rnd : Nat) (invalid : Bool) (acc anchor : Int) : Drained :=
  if invalid then { bits := invalidElem fo }
  else if acc = 0 then { bits := 0 }
  else
    let neg := acc < 0
    let v : Float.Val := .fin neg acc.natAbs anchor
    match fo with
    | 0x8 => (Float.encodeTaper Float.tf8 rnd v).drained
    | 0x9 => (Float.encodeTaper Float.tf6 rnd v).drained
    | 0xA => (Float.encode Float.bf16 rnd v).drained
    | 0xB => (Float.encode Float.f16 rnd v).drained
    | 0xC => (Float.encode Float.f32 rnd v).drained
    | _ =>
      let n := elemBits fo
      let signed := fo < 4 || fo == 0xD
      let k := Float.toInt rnd neg acc.natAbs anchor
      let lo : Int := if signed then -2 ^ (n - 1) else 0
      let hi : Int := if signed then 2 ^ (n - 1) - 1 else 2 ^ n - 1
      let x := Word.sat k lo hi
      { bits := (BitVec.ofInt n x).toNat, dsat := x != k }

/-- One row of a snapshot drained. -/
def Snap.rowElems (x : Snap) (r : Nat) : List Drained :=
  (List.range 64).map fun col =>
    drainElem x.fo x.rnd (x.invrow.getLsbD r || x.invcol.getLsbD col) (x.acc.getD (r * 64 + col) 0) x.anchor

/-! ### Reading tiles from a facet (R272, R273) -/

/-- The tile that a handle records (R264), as it stood when this clk began (R278). -/
def State.recorded (s : State) (inst : Nat) (h : Handle) : Option Tile :=
  match h.shown with
  | none => none
  | some (node, t) => (s.islands.find? fun u => u.inst == inst && u.node == node).map fun u => u.shown.getD t {}

/-- ACCRD (R272). -/
def evalAccrd (c : Fire) : FRes :=
  c.withHandle fun h =>
    match (c.s.recorded c.u.inst h).bind Tile.snap with
    | none => c.result 0 false
    | some x =>
      let k := (c.b .whole).toNat % 4096
      let acc : Word64 := BitVec.ofInt 64 (x.acc.getD k 0)
      c.result (BitVec.ofInt 32 x.anchor ++ x.ver ++ acc) (Word.field x.ver 4 0 != 0)

/-- ACCRD: one firing. -/
def execAccrd (w : FWord) (s : State) : Out := firing (.accrd w) evalAccrd s

/-- TEMPTY (R273). -/
def evalTempty (c : Fire) : FRes :=
  c.withHandle fun h =>
    match c.s.recorded c.u.inst h with
    | none => c.result 0 true
    | some x => c.result (x.invrow ++ x.tstat) (x.state == .empty)

/-- TEMPTY: one firing. -/
def execTempty (w : FWord) (s : State) : Out := firing (.tempty w) evalTempty s

end Sys2Proof.Machine
end

