-- ==== Sys2Proof/Machine/Islands.lean ====
section
/-!
DEFINITION. What islands do: weight reloads (R260), firings (R261 to R263), publication and drains (R264, R265),
ceases (R266 to R269), settling (R274, R275) and their faults (R279).
-/
namespace Sys2Proof.Machine

/-! ### Faults and operands -/

/-- A precise fault of an island (R279): FINFO names the local tile, and 0 a firing, 1 a reload or 2 a drain. -/
def State.islandFault (s : State) (u : IslandUnit) (t pos : Nat) (cause : Cause) (other : Word64) : State :=
  let ver := match s.inst? u.inst with
    | some i => i.layver.toNat
    | none => 0
  (s.modIsland u.region u.isl fun v => { v with faulted := true }).nodeFault u.region
    { cause := cause, finfo := pack [(32, ver), (20, pos), (16, t), (0, u.node)], other := other
      unit := .island u.region u.isl }

/-- The context of an instance. -/
def State.ctxOfInst (s : State) (inst : Nat) : BitVec 12 :=
  match s.inst? inst with
  | some i => i.ctx
  | none => 0

/-- What stands at an operand port. -/
inductive IslandOp where
  | wait
  | bad (c : Cause)
  | ok (h : Handle) (sl : Nat) (t : Token)

/-- The operand at the head of port A or B (R249, R262, R279): a DATA token whose slot is FULL. For a slot number that the handle does not
have the spec names no fault, and such an operand waits for ever (DESIGN CHOICE, log entry 81). -/
def State.islandOperand (s : State) (u : IslandUnit) (p : Nat) : IslandOp :=
  match u.head p with
  | none => .wait
  | some t =>
    if t.kind ≠ 0 then .wait
    else if t.psn then .bad .poison
    else
      match s.handleFor u.region (Word.field t.payload 7 0) (s.ctxOfInst u.inst) with
      | none => .bad .access
      | some h =>
        let sl := Word.field t.payload 11 8
        if sl ≥ h.slots.length ∨ (h.slot sl).state ≠ .full then .wait
        else if (h.slot sl).poison then .bad .poison
        else .ok h sl t

/-- The bytes of a slot as one number. -/
def State.slotNumber (s : State) (h : Handle) (sl : Nat) : Nat :=
  Word.ofBytes ((s.slotBytes h sl 0 h.bytes).map Prod.fst)

/-- The accesses ordered before those that read a slot (R130, R132). -/
def State.orderSlot (s : State) (u : IslandUnit) (h : Handle) (sl : Nat) (t : Token) : State :=
  (s.sees u.agent [t]).orderAfter u.agent (h.slot sl).vc

/-! ### Whose turn it is (R261) -/

/-- The tile whose turn it is: an accumulation in progress keeps it. -/
def IslandUnit.turnTile (u : IslandUnit) : Option Nat :=
  match [0, 1].find? fun t => (u.tile t).state == .accum || (u.tile t).state == .firing with
  | some t => some t
  | none =>
    match acfgEn (u.tile 0).acfg, acfgEn (u.tile 1).acfg with
    | true, true => some u.turn
    | true, false => some 0
    | false, true => some 1
    | false, false => none

/-- Whether a reload is due (R260). -/
def IslandUnit.reloadDue (u : IslandUnit) : Bool :=
  match u.weights with
  | none => true
  | some w =>
    let x := u.tile (u.turnTile.getD 0)
    let wuse := acfgWuse (if x.state == .empty then x.acfg else x.lAcfg)
    if wuse = 0 then (u.head 1).map Token.kind == some 0 else w.uses ≥ wuse

/-! ### Reloads (R260) -/

/-- WEIGHT_RELOAD (R260): between firings, the B tile is read and decoded at each tile's MB (DEDUCED, log entry 51). -/
def execWeightReload (r isl : Nat) (s : State) : Out :=
  .next (match s.island? r isl with
  | none => s
  | some u =>
    if !s.islandActs u || u.reload.isSome || u.firing.isSome || !u.reloadDue then s
    else
      let t := u.turnTile.getD 0
      match s.islandOperand u 1 with
      | .wait => s
      | .bad c => s.islandFault u t 1 c 0
      | .ok h sl tok =>
        let kb := bcfgKb u.bcfg
        let z := elemBits h.fmt
        let bytes := kb * 64 * z / 8
        let cost := bytes * 1000
        if h.fmt ≥ 12 ∨ h.bytes < bytes then s.islandFault u t 1 .formatCombo 0
        else if !s.affords r cost then s
        else
          let n := s.slotNumber h sl
          let dec := [0, 1].map fun t => decodeB h.fmt n kb (pregMb (u.tile t).preg)
          ((s.debit r cost).orderSlot u h sl tok).modIsland r isl fun v =>
            { v with
              weights := some { fmt := h.fmt, kb := kb, dec := dec, uses := 0 }
              reload := some (h.num, sl, s.clk + (kb * 64 * z + 2047) / 2048) })

/-- WEIGHT_RELOAD_DONE (R260): port B is popped and the B slot freed. -/
def execWeightReloadDone (r isl : Nat) (s : State) : Out :=
  .next (match s.island? r isl with
  | none => s
  | some u =>
    match u.reload with
    | none => s
    | some (h, sl, due) =>
      if !s.islandActs u || s.clk < due then s
      else
        ((s.consumeSlot r h sl u.agent).modIsland r isl fun v => { v.pop 1 with reload := none }).fired u.inst)

/-! ### Versions (R247, R264, R269) -/

/-- A version word (R247). -/
def versionWord (seq : BitVec 16) (bexp : BitVec 8) (x f : Bool) (n : Nat) : BitVec 32 :=
  BitVec.ofNat 32 (seq.toNat * 65536 + bexp.toNat * 256 + x.toNat * 64 + f.toNat * 32 + n)

/-- The route entry of a tile's accumulation. -/
def Tile.entry (x : Tile) : Route := routeEntry x.lRoute3 x.lRoute4 x.route

/-- The destination handle of an accumulation. -/
def State.destHandle (s : State) (u : IslandUnit) (e : Route) : Option Handle :=
  s.handleFor u.region e.handle (s.ctxOfInst u.inst)

/-- Whether the snapshot of a tile is free. -/
def Tile.snapFree (x : Tile) : Bool :=
  match x.snap with
  | some p => !p.busy
  | none => true

/-- The slot that a publication takes, if it can be made now (R264). -/
def State.pubSlot (s : State) (u : IslandUnit) (t : Nat) : Option (Handle × Nat) :=
  let x := u.tile t
  if !x.snapFree then none
  else (s.destHandle u x.entry).bind fun h => (s.freeSlot h).map fun k => (h, k)

/-- Version `c` of a tile published into slot `k` of `h` (R264): what the island knows happens before the drain (R130). -/
def State.publish (s : State) (u : IslandUnit) (t : Nat) (h : Handle) (k c : Nat) (bexp : BitVec 8) (x f : Bool) :
    State :=
  let s := (s.slotTo h.region h.num k .filling).modSlot h.region h.num k fun y =>
    { y with vc := y.vc.join (s.hbOf u.agent).vc }
  let s := s.modHandle h.region h.num fun h => { h with tile := some (u.node, t) }
  s.modTile u.region u.isl t fun y =>
    let p : Snap :=
      { acc := y.acc, sat := y.sat, ver := versionWord y.seqacc bexp x f c, anchor := y.anchor, invrow := y.invrow
        invcol := y.invcol, busy := true, handle := h.num, slot := k, row := 0, rowAt := s.clk, fo := pregFo y.preg
        rnd := pregRnd y.preg, diag := c, spoiled := y.spoiled }
    { y with snap := some p, owed := false, published := some (pack [(12, t), (8, k), (0, h.num)]) }

/-- The final version chosen in FINAL (R264, R269): published now where it can be; else a ceased accumulation that
has published repeats its last token; else it is owed. -/
def State.chooseFinal (s : State) (r isl t : Nat) : State :=
  match s.island? r isl with
  | none => s
  | some u =>
    let x := u.tile t
    match s.pubSlot u t with
    | some (h, k) => s.publish u t h k x.diagDone x.bexp (!x.complete) true
    | none =>
      if x.ceased ∧ x.published.isSome = true then
        s.modTile r isl t fun x => { x with owed := false, repeats := true }
      else s.modTile r isl t fun x => { x with owed := true }

/-! ### Firings (R262, R263) -/

/-- The cost of a firing in fJ (R394). -/
def firingCost (k ma mb : Nat) : Nat := 2000000 + 6144 * k * ma * mb

/-- A firing of tile `t`, every condition of R262 but the energy's being met: the checks of R263, poison in its weights or its
accumulators (R368, R369), and what it does before its fill. -/
def State.fireTile (s : State) (u : IslandUnit) (t : Nat) (w : Weights) (h : Handle) (sl : Nat) (tok : Token)
    (steer : Option Token) (route : Nat) : State :=
  let x := u.tile t
  let fresh := x.state == .empty
  let acfg := if fresh then x.acfg else x.lAcfg
  let r3 := if fresh then x.route3 else x.lRoute3
  let r4 := if fresh then x.route4 else x.lRoute4
  let e := routeEntry r3 r4 route
  let fo := pregFo x.preg
  let ma := pregMa x.preg
  let dec := w.dec.getD t ⟨1, [], none, false, 0⟩
  let k := acfgK acfg
  let destBad := match s.destHandle u e with
    | none => true
    | some d => d.fmt != fo || d.bytes * 8 != e.nr * 64 * elemBits fo
  if h.fmt ≥ 12 ∨ k > w.kb ∨ aPast acfg x.awin h.fmt h.bytes = true ∨ (!e.v || destBad) = true then
    s.islandFault u t 0 .formatCombo 0
  else if w.spoiled || !fresh && !x.spoiled.isEmpty then s.islandFault u t 0 .poison 0
  else if !s.affords u.region (firingCost k ma dec.mb) then s
  else
    let d := ma + dec.mb - 2
    let f : Firing :=
      { tile := t, k := k, ma := ma, mb := dec.mb, ps := pregPs x.preg, d := d, a := [], maxA := 0, maxB := dec.maxB.getD 0
        handle := h.num, slot := sl, fmt := h.fmt, awin := x.awin, auto := fresh && !pregAx x.preg, fillAt := s.clk + 8
        due := s.clk + 8 + diagClk ma dec.mb d k }
    let begin := fun (x : Tile) =>
      if fresh then
        { x with
          lAcfg := x.acfg, lRoute3 := x.route3, lRoute4 := x.route4, acc := List.replicate 4096 0
          sat := List.replicate 4096 false, spoiled := [], inexact := false, dinex := false, ovf := false, dsat := false
          invrow := 0, invcol := 0, seqacc := tok.seq, route := route, fired := 0
          anchor := if pregAx x.preg then pregAnchor x.preg else 0
          ceased := false, published := none, owed := false, repeats := false }
      else x
    let s := ((s.debit u.region (firingCost k ma dec.mb)).sees u.agent steer.toList).orderSlot u h sl tok
    let s := s.modTile u.region u.isl t fun x =>
      let x := begin x
      { x with
        state := .firing, dinex := x.dinex || dec.dinex, invcol := x.invcol ||| dec.invcol
        diagDone := 0, complete := false, bexp := 0x80 }
    s.modIsland u.region u.isl fun v =>
      let v := if fresh && s.fedPort u.inst u.node 2 then v.pop 2 else v
      { v with firing := some f, turn := if fresh then 1 - t else v.turn }

/-- The end of a firing's fill (R263): A is formed and decoded, its flags are set, an anchor that its blocks give is fixed (R73), and
port A is popped. -/
def State.endFill (s : State) (u : IslandUnit) (f : Firing) : State :=
  match s.handle? u.region f.handle with
  | none => s
  | some h =>
    let acfg := (u.tile f.tile).lAcfg
    let n := s.slotNumber h f.slot
    let rows := (List.range 64).map fun r => decodeRun f.fmt f.ma (aRow acfg f.awin f.fmt n r)
    let maxA := (rows.foldl (fun m d => topOf m d.top) none).getD 0
    let s := s.modTile u.region u.isl f.tile fun x =>
      { x with
        dinex := x.dinex || rows.any Decoded.changed, invrow := x.invrow ||| marks rows
        anchor := if f.auto then Word.sat (maxA + f.maxB - 46) (-128) 127 else x.anchor }
    s.modIsland u.region u.isl fun v =>
      { v.pop 0 with firing := some { f with
          a := rows.map Decoded.elems, maxA := maxA, filled := true
          due := max f.due (s.clk + 1 + diagClk f.ma f.mb f.d f.k) } }

/-- The fills that end with this clk: 8 clk after their firings began. -/
def State.endFills (s : State) : State :=
  s.islands.foldl (fun s u => match u.firing with
    | some f => if !f.filled && s.islandActs u && f.fillAt ≤ s.clk + 1 then s.endFill u f else s
    | none => s) s

/-- The steering token of a firing, where its accumulation takes one (R262); `none` while it is awaited. -/
def State.steering (s : State) (u : IslandUnit) (fresh : Bool) : Option (Option Token) :=
  if fresh && s.fedPort u.inst u.node 2 then
    match u.head 2 with
    | some y => if y.kind = 0 then some (some y) else none
    | none => none
  else some none

/-- The route number of a firing with the steering token `y`. -/
def Tile.routeBy (x : Tile) (y : Option Token) : Nat :=
  match y with
  | some y => Word.field y.payload 1 0
  | none => if x.state == .empty then 0 else x.route

/-- The route entry of that firing's accumulation. -/
def Tile.entryBy (x : Tile) (y : Option Token) : Route :=
  if x.state == .empty then routeEntry x.route3 x.route4 (x.routeBy y) else x.entry

/-- Whether the next firing of a tile is its accumulation's last. -/
def Tile.lastNext (x : Tile) : Bool :=
  if x.state == .empty then acfgNf x.acfg ≤ 1 else x.fired + 1 ≥ acfgNf x.lAcfg

/-- ISLAND_FIRING (R262, R263). -/
def execIslandFiring (r isl : Nat) (s : State) : Out :=
  .next (match s.island? r isl with
  | none => s
  | some u =>
    match u.turnTile, u.weights with
    | some t, some w =>
      let x := u.tile t
      let fresh := x.state == .empty
      if !s.islandActs u || u.firing.isSome || u.reload.isSome || u.reloadDue ||
          !(fresh || x.state == .accum && !x.ceased) then s
      else
        match s.steering u fresh with
        | none => s
        | some y =>
          match s.islandOperand u 0 with
          | .wait => s
          | .bad c => s.islandFault u t 0 c 0
          | .ok h sl tok =>
            if (y.map Token.psn).getD false then s.islandFault u t 0 .poison 0
            else
              let e := x.entryBy y
              let room := match s.destHandle u e with
                | some d => (s.freeSlot d).isSome
                | none => true
              if x.lastNext && e.v && !room then s else s.fireTile u t w h sl tok y (x.routeBy y)
    | _, _ => s)

/-- A firing ends (R263, R268): the A slot is freed, the weights count a use, and what a cease left uncomputed is
given back (R395). -/
def State.endFiring (s : State) (u : IslandUnit) (f : Firing) : State :=
  let x := u.tile f.tile
  let left := (List.range f.d).foldl (fun n d => n + pairsOn f.ma f.mb d) 0
  let s := s.refund u.region (6144 * f.k * left)
  let s := if acfgKeep x.lAcfg then s else s.consumeSlot u.region f.handle f.slot u.agent
  let s := s.modIsland u.region u.isl fun v =>
    { v with
      firing := none
      weights := v.weights.map fun w => { w with uses := w.uses + 1 }
      live := { v.live with firings := v.live.firings + 1 } }
  (s.modTile u.region u.isl f.tile fun x =>
    { x with fired := x.fired + 1, state := if x.fired + 1 ≥ acfgNf x.lAcfg then .final else .accum }).fired u.inst

/-- A diagonal of a firing, the publication decision after it (R264, R278), and the firing's end. Where a freeze is due the firing
stops there (R276). -/
def State.diagonal (s : State) (u : IslandUnit) (f : Firing) : State :=
  let r := u.region
  let isl := u.isl
  let t := f.tile
  let b := ((u.weights.bind fun w => w.dec[t]?).map BDec.b).getD []
  let s := (s.modTile r isl t fun x => x.addDiagonal f b).modIsland r isl fun v => { v with diagAt := some s.clk }
  let s := s.modTile r isl t fun x =>
    { x with diagDone := x.diagDone + 1, bexp := x.bound f, complete := f.d == 0 }
  match s.island? r isl with
  | none => s
  | some u =>
    let x := u.tile t
    let last := x.fired + 1 ≥ acfgNf x.lAcfg
    if x.ceased then
      let s := s.endFiring u f
      if last then s.chooseFinal r isl t else s
    else if f.d = 0 then
      let s := s.endFiring u f
      if last then s.chooseFinal r isl t else s
    else
      let point := last && (x.diagDone % (f.ps + 1) == 0 || x.owed)
      let s := if point then
          match s.pubSlot u t with
          | some (h, k) => s.publish u t h k x.diagDone x.bexp false false
          | none => s.modTile r isl t fun x => { x with owed := true }
        else s
      s.modIsland r isl fun v =>
        { v with firing := some { f with
            d := f.d - 1, due := s.clk + diagClk f.ma f.mb (f.d - 1) f.k
            split := ((s.inst? u.inst).map s.freezeDue).getD false } }

/-- The cost of an island's fill, 2,000 pJ (R394), in fJ. -/
def fillCost : Nat := 2000000

/-- A firing that a freeze split goes on once no freeze is due (R276, R395): the fill is paid again, and its diagonal begins after
it. -/
def State.refill (s : State) (u : IslandUnit) (f : Firing) : State :=
  if !s.affords u.region fillCost then s
  else (s.debit u.region fillCost).modIsland u.region u.isl fun v =>
    { v with firing := some { f with split := false, due := s.clk + 8 + diagClk f.ma f.mb f.d f.k } }

/-- DIAGONAL_END (R263, R264): not before the clk that R79 gives (DEDUCED, log entry 49). -/
def execDiagonalEnd (r isl : Nat) (s : State) : Out :=
  .next (match s.island? r isl with
  | none => s
  | some u =>
    match u.firing with
    | none => s
    | some f =>
      if !s.islandActs u then s
      else if f.split then if ((s.inst? u.inst).map s.freezeDue).getD false then s else s.refill u f
      else if !f.filled || s.clk < f.due then s else s.diagonal u f)

/-- SKIPPED_FIRING (R268): the A token of a firing that a cease took away. -/
def execSkippedFiring (r isl : Nat) (s : State) : Out :=
  .next (match s.island? r isl with
  | none => s
  | some u =>
    match u.turnTile with
    | none => s
    | some t =>
      let x := u.tile t
      if !s.islandActs u || x.state != .accum || !x.ceased then s
      else
        match s.islandOperand u 0 with
        | .wait => s
        | .bad c => s.islandFault u t 0 c 0
        | .ok h sl tok =>
          let s := s.orderSlot u h sl tok
          let s := if acfgKeep x.lAcfg then s else s.consumeSlot r h.num sl u.agent
          let s := s.modIsland r isl fun v => v.pop 0
          let last := x.fired + 1 ≥ acfgNf x.lAcfg
          let s := (s.modTile r isl t fun x =>
            { x with
              fired := x.fired + 1, diagDone := 1, bexp := 0x80, complete := false
              state := if last then .final else .accum }).fired u.inst
          if last then s.chooseFinal r isl t else s)

/-! ### Publication and drain (R264, R265, R269) -/

/-- PUBLICATION (R264, R269): the final version owed in FINAL, as soon as it can be made. -/
def execPublication (r isl t : Nat) (s : State) : Out :=
  .next (match s.island? r isl with
  | none => s
  | some u =>
    let x := u.tile t
    if s.islandActs u && x.state == .final && x.owed && (s.pubSlot u t).isSome then s.chooseFinal r isl t else s)

/-- The cost of a drained row, 40 pJ (R394), in fJ. -/
def rowCost : Nat := 40000

/-- The drain of row `p.row` begins or goes on: FO and RND are those of the drain's start (R81, R264). -/
def Tile.drainOf (x : Tile) (p : Snap) : Snap :=
  if p.row = 0 ∧ p.col = 0 then { p with fo := pregFo x.preg, rnd := pregRnd x.preg } else p

/-- Elements `i` to `j - 1` of a row written at their places behind the write pointer of the slot, their DSAT taken. -/
def State.drainSome (s : State) (r isl t : Nat) (p : Snap) (es : List Drained) (i j : Nat) : State :=
  match s.handle? r p.handle with
  | none => s
  | some h =>
    let z := elemBits p.fo
    let part := (es.drop i).take (j - i)
    let bs := Word.toBytes (part.length * z / 8) (ofLanes z (part.map Drained.bits))
    (s.writeSpad (h.key p.slot + (h.slot p.slot).wptr + i * z / 8) bs).modTile r isl t fun x =>
      { x with dsat := x.dsat || part.any Drained.dsat }

/-- Whether an island's drains go on: it acts, or its instance is complete and waits for them (R330). -/
def State.islandDrains (s : State) (u : IslandUnit) : Bool :=
  s.islandActs u || !s.stopped && !u.faulted && !u.contain && ((s.inst? u.inst).map Inst.state) == some .complete

/-- DRAIN_ROW (R264): one row from the clk after the last on. A subnormal element raises SUBNORMAL_ASSIST with the elements before
it written, and the assist that ends there writes its IEEE result and resumes the drain (R61, R279); one that holds poison raises
POISON (R368, R369). -/
def execDrainRow (r isl t : Nat) (s : State) : Out :=
  .next (match s.island? r isl with
  | none => s
  | some u =>
    let x := u.tile t
    match x.snap with
    | none => s
    | some p =>
      let p := x.drainOf p
      let e := x.entry
      if !s.islandDrains u || !p.busy || p.row ≥ e.nr || s.clk ≤ p.rowAt then s
      else if p.col = 0 ∧ !s.affords r rowCost then s
      else
        let s := if p.col = 0 then s.debit r rowCost else s
        let es := p.rowElems (e.row0 + p.row)
        let spoiled := fun k => p.spoiled.contains (64 * (e.row0 + p.row) + k)
        match (List.range 64).find? fun k => p.col ≤ k && (spoiled k || (es.map Drained.subnormal).getD k false) with
        | some k =>
          if spoiled k then (s.drainSome r isl t p es (p.col - 1) k).islandFault u t 2 .poison 0
          else
          ((s.drainSome r isl t p es (p.col - 1) k).modTile r isl t fun x => { x with snap := some { p with col := k + 1 } }).islandFault
            u t 2 .subnormalAssist 0
        | none =>
          let z := elemBits p.fo
          let bs := Word.toBytes (64 * z / 8) (ofLanes z (es.map Drained.bits))
          let s := s.deliver r p.handle p.slot (bs.map fun b => (b, false))
          s.modTile r isl t fun x =>
            { x with
              dsat := x.dsat || es.any Drained.dsat
              snap := some { p with row := p.row + 1, rowAt := s.clk, col := 0 } })

/-- A version token emitted on its entry's port (R265), the drain before every access of a firing that consumes it (R130); a final
one ends the accumulation (R261). -/
def State.versionOut (s : State) (u : IslandUnit) (t : Nat) (payload : Word64) (ver : BitVec 32) : State :=
  let x := u.tile t
  let h := s.hbOf u.agent
  let tok : Token :=
    { payload := payload.zeroExtend 128, side := sideOf ver x.seqacc false 0 0, rels := h.rels, vc := h.vc, drain := h.vc }
  let s := s.islandPut u x.entry.port tok
  (s.modTile u.region u.isl t fun x =>
    { x with
      lastver := ver, repeats := false
      state := if ver.getLsbD 5 then .empty else x.state }).fired u.inst

/-- VERSION_TOKEN (R265): the drained slot becomes FULL, and its token leaves once its port has a free entry. -/
def execVersionToken (r isl t : Nat) (s : State) : Out :=
  .next (match s.island? r isl with
  | none => s
  | some u =>
    let x := u.tile t
    match x.snap with
    | none => s
    | some p =>
      if !s.islandDrains u || !p.busy || p.row < x.entry.nr || s.clk ≤ p.rowAt then s
      else
        let s := match s.handle? r p.handle with
          | some h => if (h.slot p.slot).state = .filling then s.slotTo r p.handle p.slot .full else s
          | none => s
        if !u.room x.entry.port then s
        else
          let s := s.modTile r isl t fun x => { x with snap := some { p with busy := false } }
          s.versionOut u t (pack [(12, t), (8, p.slot), (0, p.handle)]) p.ver)

/-- FINAL_REPEAT_TOKEN (R269): once no drain is in progress, the last token again, with F and X set. -/
def execFinalRepeatToken (r isl t : Nat) (s : State) : Out :=
  .next (match s.island? r isl with
  | none => s
  | some u =>
    let x := u.tile t
    if s.islandActs u && x.state == .final && x.repeats && x.snapFree && u.room x.entry.port then
      s.versionOut u t (x.published.getD 0) (x.lastver ||| 0x60)
    else s)

/-! ### Ceases (R266 to R269) -/

/-- A cease in flight, by its place in the list. -/
def State.ceaseAt (s : State) (i : Nat) : Option (CeaseTok × ArcSt) :=
  (s.ceases[i]?).bind fun c => (s.arc? c.inst c.arc).map fun a => (c, a)

/-- A cease taken. -/
def State.dropCease (s : State) (i : Nat) : State := { s with ceases := s.ceases.eraseIdx i }

/-- CEASE_AT_ISLAND (R268, R269): it applies to the accumulation whose SEQ it carries. One that would arrive behind a diagonal that
has ended in this clk arrives in a later one, so that R278's order of the two never comes up (DESIGN CHOICE, log entry 65). -/
def execCeaseAtIsland (i : Nat) (s : State) : Out :=
  .next (match s.ceaseAt i with
  | none => s
  | some (c, a) =>
    match s.islands.find? fun u => !a.pc && u.inst == a.inst && u.node == a.pnode with
    | none => s
    | some u =>
      if !s.running c.inst || u.diagAt == some s.clk then s
      else
        let s := s.dropCease i
        let mine := fun t => (u.tile t).state != .empty && (u.tile t).seqacc == c.seq && !(u.tile t).ceased
        if c.poison then s.islandFault u 0 0 .poison 0
        else
          match [0, 1].find? mine with
          | none => s
          | some t =>
            let s := s.modTile u.region u.isl t fun x => { x with ceased := true }
            let x := u.tile t
            if x.state = .final ∧ x.owed then s.chooseFinal u.region u.isl t else s)

/-- CEASE_AT_FACET (R266): forwarded on every versioned input arc; a second of the same SEQ is discarded. -/
def execCeaseAtFacet (i : Nat) (s : State) : Out :=
  .next (match s.ceaseAt i with
  | none => s
  | some (c, a) =>
    match if a.pc then none else s.facet? a.inst a.pnode 0 0 with
    | none => s
    | some u =>
      if !s.running c.inst then s
      else
        let s := s.dropCease i
        if u.ceases.contains c.seq then s
        else
          let ins := (List.range 6).filterMap fun k => match s.arcInto a.inst false a.pnode k with
            | some b => if b.vs then some (CeaseTok.mk b.inst b.idx c.seq c.poison) else none
            | none => none
          let s := s.modFacet u.inst u.node u.clone u.pos fun v => { v with ceases := v.ceases ++ [c.seq] }
          { s with ceases := s.ceases ++ ins })

/-- CEASE_DISCARD (R266): at a streamer, a chord engine or a conductor port. -/
def execCeaseDiscard (i : Nat) (s : State) : Out :=
  .next (match s.ceaseAt i with
  | none => s
  | some (c, a) => if s.running c.inst ∧ (a.pc ∨ (s.engine? a.inst a.pnode).isSome = true) then s.dropCease i else s)

/-! ### Settling (R274, R275) -/

/-- Whether an entry is a versioned token that some consumer has not accepted. -/
def OutEntry.openVersion (e : OutEntry) : Bool := e.mask != 0 && e.tok.ver != 0

/-- Whether a level is settled (R274). -/
def State.isSettled (s : State) (i : Inst) (level : Nat) : Bool :=
  let within_ := fun node => (i.image.levelsOf node).contains level
  let us := s.facets.filter fun u => u.inst == i.id && within_ u.node
  let isls := s.islands.filter fun u => u.inst == i.id && within_ u.node
  let engs := s.engines.filter fun e => e.inst == i.id && within_ e.node
  let mgs := s.merges.filter fun m => m.inst == i.id && within_ m.node
  let arcs := s.arcs.filter fun a => a.inst == i.id && !a.cc && within_ a.cnode
  let versioned := fun (t : Token) => t.ver != 0
  (isls.all IslandUnit.empty) &&
  (us.all fun u => u.outs.all fun l => l.all fun e => !e.openVersion) &&
  (isls.all fun u => u.outs.all fun l => l.all fun e => !e.openVersion) &&
  (engs.all fun e => e.outs.all fun x => !x.openVersion) &&
  (mgs.all fun m => (m.outq.all fun x => !x.openVersion) && m.held.all fun p => !versioned p.2) &&
  (us.all fun u => u.ins.all fun l => l.all fun t => !versioned t) &&
  (isls.all fun u => u.ins.all fun l => l.all fun t => !versioned t) &&
  (engs.all fun e => e.ins.all fun t => !versioned t) &&
  (arcs.all fun a => a.ring.all fun t => !versioned t) &&
  (i.openVers.all fun p => !within_ p.1)

/-- A SETTLED event on its way out of the islands that report it: it waits while a port SET is full. -/
def State.sendSettled (s : State) (us : List IslandUnit) (t : Token) : State :=
  us.foldl (fun s u =>
    if u.setWait.isSome || !s.hasArc u.inst u.node 4 then s
    else if u.room 4 then s.islandPut u 4 t
    else s.modIsland u.region u.isl fun v => { v with setWait := some t }) s

/-- Waiting SETTLED events leave where port SET has room. -/
def State.flushSettled (s : State) : State :=
  s.islands.foldl (fun s u => match u.setWait with
    | some t => if s.running u.inst ∧ u.room 4 = true then (s.islandPut u 4 t).modIsland u.region u.isl fun v => { v with setWait := none } else s
    | none => s) s

/-- SETTLED (R275): the verdict of a level has turned true, with a version emitted within it since the last (DEDUCED,
log entry 52). -/
def execSettled (inst level : Nat) (s : State) : Out :=
  .next (match s.inst? inst with
  | none => s
  | some i =>
    if !s.running inst || i.settledNow.contains level || level ≥ i.image.levels.length || !s.isSettled i level then s
    else
      let s := s.modInst inst fun i => { i with settledNow := i.settledNow ++ [level] }
      let us := s.islands.filter fun u => u.inst == inst && u.settle.getLsbD 15 && Word.field u.settle 11 0 == level
      if !i.versSince.contains level then s
      else if us.any fun u => u.setWait.isSome then s
      else
        let n := lookup i.settledCount 0 level + 1
        let t : Token := { payload := BitVec.ofNat 128 (level + i.layver.toNat * 4294967296), side := sideOf 0 n false 0 0 }
        (s.sendSettled us t).modInst inst fun i =>
          { i with
            settledCount := assign i.settledCount level n
            versSince := i.versSince.filter fun l => l != level })

/-- Levels whose verdict no longer holds (R275). -/
def State.unsettle (s : State) : State :=
  { s with insts := s.insts.map fun i => { i with settledNow := i.settledNow.filter (s.isSettled i) } }

end Sys2Proof.Machine
end

