-- ==== Sys2Proof/Machine/Chord.lean ====
section
/-!
DEFINITION. Landing zones and chord puts (R298 to R302, R352 to R357): route entries, reservations, puts and
releases, at the sender and at the receiver, with the instructions and device steps that make them.
-/
namespace Sys2Proof

/-- The region of the slot that a chord flit names (R346). -/
def Flit.region (f : Flit) : Nat := Word.field f.addr 7 0

/-- Its handle. -/
def Flit.handle (f : Flit) : Nat := Word.field f.addr 15 8

/-- Its slot. -/
def Flit.slot (f : Flit) : Nat := Word.field f.addr 19 16

/-- The byte offset of a chord flit. -/
def Flit.off (f : Flit) : Nat := Word.field f.addr 63 32

/-- The number of a flit's sender among all devices: a device of the domain, or, from 256 on, a scale-out peer (R347). -/
def Flit.sender (f : Flit) : Nat := f.src.toNat + if f.net = .scaleOut then 256 else 0

/-- The bytes of a packet with the poison of their units. -/
def Flit.bytes (f : Flit) : List (Byte × Bool) :=
  (List.range f.payload.length).map fun k => (f.payload.getD k 0, f.psn.getLsbD (k / 16))

end Sys2Proof

namespace Sys2Proof.Machine

/-! ### Route entries and ports (R352, R353, R355) -/

/-- The entry of an absent route table (R352). -/
def routeDefault : Word64 := 0x80000000FFFFFFFF

/-- Every port of a kind, as a route entry. -/
def routeAny (k : PortKind) : Word64 := if k = .scaleUp then routeDefault else Word.setField routeDefault 62 62 1

/-- Whether a route entry keeps the conditions of R353. -/
def routeOk (e : Word64) : Bool :=
  Word.bit e 63 && Word.field e 61 56 == 0 && Word.field e 50 32 == 0 && Word.field e 31 0 != 0 &&
  Word.bit e (Word.field e 55 51)

/-- Route entry `k` of an instance, read from memory as the issue's own access (R353). -/
def State.readRoute (s : State) (x : Actor) (inst k : Nat) : Acc Word64 :=
  match (s.inst? inst).bind fun i => i.image.routeVa with
  | none => .ok s routeDefault
  | some va =>
    (s.readBlock x (va + BitVec.ofNat 64 (16 + 8 * k)) 8 false).bind fun s bs =>
      let e := BitVec.ofNat 64 (Word.ofBytes bs)
      if routeOk e then .ok s e else .bad .reservedField none

/-- Route entry `k` as a release that the device itself sends reads it (R353): `none` where it breaks a condition, so that nothing is
sent; where it cannot be read at once, the entry of the reservation stands (DESIGN CHOICE, log entry 13). -/
def State.routeAnew (s : State) (inst : Nat) (ctx : BitVec 12) (k : Nat) (held : Word64) : State × Option Word64 :=
  match (s.inst? inst).bind fun i => i.image.routeVa with
  | none => (s, some routeDefault)
  | some va =>
    match s.loadVa ctx (va + BitVec.ofNat 64 (16 + 8 * k)).toNat 8 with
    | .ok (s, bs, false) =>
      let e := BitVec.ofNat 64 (Word.ofBytes bs)
      (s, if routeOk e then some e else none)
    | _ => (s, some held)

/-- The kind of port of a route entry. -/
def routeKind (e : Word64) : PortKind := if Word.bit e 62 then .scaleOut else .scaleUp

/-- Port FIRST of an entry where it is up, else the lowest-numbered port of ALLOW that is (R355). -/
def State.firstPort (s : State) (e : Word64) : Option Nat :=
  let up := fun p => Word.bit e p && s.portUp (routeKind e) p
  let f := Word.field e 55 51
  if up f then some f else (List.range 32).find? up

/-- The next port of ALLOW after `p`, wrapping round, that is up (R355). -/
def State.nextPort (s : State) (e : Word64) (p : Nat) : Option Nat :=
  ((List.range 32).map fun k => (p + 1 + k) % 32).find? fun q => Word.bit e q && s.portUp (routeKind e) q

/-- Whether a chord target can be reached at all (R348). -/
def State.reachable (s : State) (e target : Word64) : Bool :=
  let dev := Word.field target 7 0
  match routeKind e with
  | .scaleUp => lookup s.regs.domrt (0 : BitVec 32) dev != 0
  | .scaleOut => Word.bit (lookup s.regs.sopeer 0 dev) 63

/-- The chord engine of a region (R354). -/
def engineOf (r : Nat) : Nat := 16 * dieOf r + r % 48 % 16

/-! ### Flits (R346) -/

/-- A chord flit: ADDR names a slot of a region and a byte offset. -/
def State.chordFlit (s : State) (typ dst : Nat) (ctx : BitVec 12) (tx : Nat) (region handle slot off : Nat)
    (ztag : BitVec 32) (attr psn : Nat) (bs : List Byte) : Flit :=
  { typ := typ, src := s.devId, dst := BitVec.ofNat 8 dst, ctx := ctx, txid := BitVec.ofNat 16 tx
    addr := pack [(32, off), (16, slot), (8, handle), (0, region)], ztag := ztag, attr := BitVec.ofNat 32 attr
    psn := BitVec.ofNat 16 psn, payload := bs }

/-- A flit to the slot that a target word names. -/
def State.toTarget (s : State) (typ : Nat) (target : Word64) (ctx : BitVec 12) (tx off : Nat) (ztag : BitVec 32)
    (attr psn : Nat) (bs : List Byte) : Flit :=
  s.chordFlit typ (Word.field target 7 0) ctx tx (Word.field target 15 8) (Word.field target 23 16)
    (Word.field target 27 24) off ztag attr psn bs

/-- An answer to a flit leaves over the network that it came on: by the scale-up port of DOMRT toward its sender, or by the lowest
scale-out port that is up (R348, R355; DESIGN CHOICE, log entry 13). Where there is none it waits for one. -/
def State.answerBack (s : State) (g : Flit) : State :=
  match if g.net = .scaleUp then s.domainPort g.dst.toNat else (List.range 32).find? (s.portUp .scaleOut) with
  | some p => s.send g.net p g
  | none => { s with replies := s.replies ++ [g] }

/-- The answer to a chord flit. -/
def State.reply (s : State) (f : Flit) (typ off : Nat) (ztag : BitVec 32) (attr : Nat) : State :=
  s.answerBack { s.chordFlit typ f.src.toNat f.ctx f.txid.toNat f.region f.handle f.slot off ztag attr 0 [] with net := f.net }

/-- The answers that wait for a port go out where there is one. -/
def State.flushReplies (s : State) : State := s.replies.foldl State.answerBack { s with replies := [] }

/-- A flit from device `dev` has arrived (R356). -/
def State.hear (s : State) (dev : Nat) : State := { s with heard := assign s.heard dev s.clk }

/-! ### Peer records (R298, R301) -/

/-- The peer record of a slot. -/
def Handle.record (h : Handle) (sl : Nat) : PeerRec := h.recs.getD sl {}

/-- `s` with a record changed by `f`. -/
def State.modRec (s : State) (r n sl : Nat) (f : PeerRec → PeerRec) : State :=
  s.modHandle r n fun h => { h with recs := h.recs.modify sl f }

/-- A chord status word (R301). -/
def chordStatus (acked revcnt cause state : Nat) : Word64 := pack [(32, acked), (16, revcnt), (4, cause), (0, state)]

/-- REVCNT of a status word. -/
def revCnt (w : Word64) : Nat := Word.field w 23 16

/-- A packet of a record was dropped as revoked (R299, R301). -/
def PeerRec.revoked (p : PeerRec) : PeerRec :=
  { p with status := Word.setField p.status 23 16 (min 255 (revCnt p.status + 1)) }

/-- The answer word of a reservation (R298). -/
def answerWord (ztag : BitVec 32) (rbytes result : Nat) : Word64 := pack [(32, ztag.toNat), (13, rbytes), (0, result)]

/-! ### Reservations (R298) -/

/-- How far a reservation has come. -/
inductive Reserve where
  | answer (s : State) (w : Word64)
  | wait (s : State)
  | bad (cause : Cause) (addr : Option Word64)
  | poison (a n : Nat)
  deriving Repr

/-- `s` once the issuer of a reservation has its answer: a request given up as UNREACHABLE is kept for a grant that still comes. -/
def State.answerTaken (s : State) (v : Resv) : State :=
  { s with resvs := s.resvs.filterMap fun y =>
      if y.tx = v.tx then (if y.late && y.port.isSome then some { y with issuer := .engine 0 } else none) else some y }

/-- A grant that came after a freeze had abandoned its RESERVE, and that the record still shows: the repeated RESERVE returns it
(R302). -/
def State.grantKept (s : State) (h : Handle) (sl : Nat) : Option (Resv × Word64) :=
  s.resvs.findSome? fun v =>
    match v.answer with
    | some w =>
      if v.issuer == .hub && v.region == h.region && v.handle == h.num && v.slot == sl && (h.record sl).valid &&
          Word.field w 63 32 == (h.record sl).ztag.toNat then some (v, w) else none
    | none => none

/-- The request of a reservation; ATTR holds the number of its chord engine, which decides a tie (R286; DESIGN CHOICE, log entry
13). -/
def State.resvFlit (s : State) (v : Resv) : Flit :=
  s.toTarget 9 v.target (((s.inst? v.inst).map Inst.ctx).getD 0) v.tx 0 0 (engineOf v.region) 0 []

/-- The reservations of a conductor below system level as a freeze abandons them: an answer not yet taken is dropped, a request still
open is kept for its grant (R302). -/
def State.abandonResvs (s : State) (inst : Nat) : State :=
  let left := fun (v : Resv) => v.inst == inst && match v.issuer with
    | .conductor r => (s.cond? r).any fun c => !c.pl
    | _ => false
  { s with resvs := s.resvs.filterMap fun (v : Resv) =>
      if !left v then some v
      else match v.answer with
        | none => some { v with issuer := .hub }
        | some w => if Word.field w 2 0 = 0 then some { v with issuer := .hub } else none }

/-- A reservation by `x` through handle `n`, with the target word checked (R298, R353). It is a release point of its issuer
(R129): the route is read and the request sent once the issuer's earlier stores are acknowledged (R97). -/
def State.reserve (s : State) (x : Actor) (issuer : Issuer) (h : Handle) (target : Word64) : Reserve :=
  let sl := Word.field target 35 32
  let mine := fun (v : Resv) => v.issuer == issuer && v.region == h.region && v.handle == h.num && v.slot == sl
  match s.resvs.find? mine with
  | some v =>
    match v.answer with
    | some w => .answer ((s.answerTaken v).orderAfter x.agent v.vc) w
    | none => .wait s
  | none =>
    match s.grantKept h sl with
    | some (v, w) => .answer ((s.answerTaken v).orderAfter x.agent v.vc) w
    | none =>
    if (h.record sl).valid then .answer s (answerWord 0 0 1)
    else if s.heldBack (s.behindNow x.agent) then .wait s
    else
      match s.readRoute x h.inst (Word.field target 39 36) with
      | .bad c a => .bad c a
      | .poison a n => .poison a n
      | .race _ a => .bad .race (some a)
      | .ask s => .wait s
      | .ok s e =>
        if !s.reachable e target then .answer s (answerWord 0 0 3)
        else
          match s.inst? h.inst with
          | none => .answer s (answerWord 0 0 3)
          | some i =>
            let port := s.firstPort e
            let v : Resv :=
              { tx := s.nextTx, inst := h.inst, region := h.region, handle := h.num, slot := sl, issuer := issuer
                target := target, route := e, timeout := i.lztimeout, counted := i.counted, port := port
                vc := (s.hbOf x.agent).vc }
            let s := s.commandPoint x.agent x.region
            let s := { s with nextTx := s.nextTx + 1, resvs := s.resvs ++ [v] }
            match port with
            | some p => .wait (s.send (routeKind e) p (s.resvFlit v))
            | none => .wait s

/-- Whether a target word has a nonzero bit outside its fields (R298). -/
def targetBad (t : Word64) : Bool := Word.field t 31 28 != 0 || Word.field t 63 40 != 0

/-- LZRES (R298). -/
def evalLzres (c : Fire) : FRes :=
  c.withHandle fun h =>
    let b := c.b .whole
    let t := b.extractLsb' 0 64
    if b.toNat / 2 ^ 64 ≠ 0 ∨ targetBad t ∨ Word.field t 35 32 ≥ h.slots.length then faultWith .reservedField
    else
      match c.s.reserve c.actor c.actor.issuer h t with
      | .answer s w => .ok s { val := some (low64 w), cond := Word.field w 2 0 == 0 }
      | .wait s => .wait s
      | .bad k a => .fault { cause := k, faddr := a.getD 0 }
      | .poison a n => .fault { cause := .poison, found := some (a, n) }

/-- LZRES: one firing. -/
def execLzres (w : FWord) (s : State) : Out := firing (.lzres w) evalLzres s

/-! ### Puts (R299, R354, R355) -/

/-- The end of an attempt to give a put to a chord engine. -/
inductive PutIssue where
  | status (s : State) (n : Nat)
  | full (s : State)
  | bad (cause : Cause) (addr : Option Word64)
  | poison (a n : Nat)
  deriving Repr

/-- A put ends (R299, R300): its record shows DONE and the cause; the local slot of an LZSEND is FULL again, with what happened
before the command (R129); a chord engine node reports it. -/
def State.endPut (s : State) (eng : Nat) (p : Put) (cause : Nat) : State :=
  let s := s.setChord eng { s.chord eng with puts := (s.chord eng).puts.filter fun q => q.id != p.id }
  let w := match s.handle? p.region p.handle with
    | some h => chordStatus p.acked (revCnt (h.record p.slot).status) cause 2
    | none => chordStatus p.acked 0 cause 2
  let s := s.modRec p.region p.handle p.slot fun y => { y with status := w }
  let s := if p.lzsend then
      match s.handle? p.region p.handle with
      | some h =>
        if (h.slot p.slot).state = .draining then
          (s.slotTo p.region p.handle p.slot .full).modSlot p.region p.handle p.slot fun y =>
            { y with vc := VClock.join y.vc p.vc }
        else s
      | none => s
    else s
  let s := s.fired p.inst
  match p.issuer with
  | .node inst node => s.engineDone inst node w
  | _ => s

/-- A put changed. -/
def State.modPut (s : State) (eng id : Nat) (f : Put → Put) : State :=
  s.setChord eng { s.chord eng with puts := (s.chord eng).puts.map fun p => if p.id = id then f p else p }

/-- A put by `x` of `fin - start` bytes from `src` to the record of slot `sl` of `h`, on engine `eng` (R299)
(DEDUCED, log entry 56). It is a release point of its issuer, and begins once the issuer's earlier stores are acknowledged
(R97, R129). -/
def State.put (s : State) (x : Actor) (issuer : Issuer) (eng : Nat) (h : Handle) (sl : Nat) (lzsend : Bool)
    (src start fin : Nat) : PutIssue :=
  let rec_ := h.record sl
  if start % 16 ≠ 0 ∨ fin < start ∨ (rec_.valid = true ∧ fin > rec_.rbytes) then .bad .reservedField none
  else if Word.field rec_.status 1 0 = 1 then .status s 1
  else if !rec_.valid ∨ (lzsend ∧ (h.slot sl).state ≠ .full) then .status s 2
  else if ((s.chord eng).puts.filter fun p => s.running p.inst).length ≥ 40 then .full s
  else
    match s.readRoute x h.inst (Word.field rec_.target 39 36) with
    | .bad c a => .bad c a
    | .poison a n => .poison a n
    | .race _ a => .bad .race (some a)
    | .ask s => .full s
    | .ok s e =>
      match s.inst? h.inst with
      | none => .status s 2
      | some i =>
        let port := s.firstPort e
        let p : Put :=
          { id := s.nextPut, issuer := issuer, inst := h.inst, ctx := x.ctx, region := h.region, handle := h.num
            slot := sl, lzsend := lzsend, src := src, start := start, fin := fin, next := start, acked := start
            port := port, kind := routeKind e, route := e, target := rec_.target, ztag := rec_.ztag
            timeout := i.lztimeout, keepAt := s.clk, vc := (s.hbOf x.agent).vc, behind := s.behindNow x.agent
            quietAt := if port.isNone then some 0 else none
            failAt := if port.isNone then some i.counted else none }
        let s := { s with nextPut := s.nextPut + 1 }.commandPoint x.agent x.region
        let s := s.modRec h.region h.num sl fun y =>
          { y with status := chordStatus start (revCnt y.status) 0 1 }
        let s := if lzsend then (s.slotTo h.region h.num sl .draining).met h.region h.num sl else s
        let s := s.setChord eng { s.chord eng with puts := (s.chord eng).puts ++ [p] }
        if !s.reachable e rec_.target then .status (s.endPut eng p 1) 0
        else if fin = start then .status (s.endPut eng p 0) 0
        else .status s 0

/-- The operand of LZSEND (R299): the slot in bits 3:0 and the offset, a multiple of 16, in bits 63:32; `none` where it is
refused. -/
def lzsendOperand (b : Word128) (slots : Nat) : Option (Nat × Nat) :=
  let sl := Word.field b 3 0
  if Word.field b 31 4 ≠ 0 ∨ b.toNat / 2 ^ 64 ≠ 0 ∨ Word.field b 35 32 ≠ 0 ∨ sl ≥ slots then none else some (sl, Word.field b 63 32)

/-- LZSEND (R299). -/
def evalLzsend (c : Fire) : FRes :=
  c.withHandle fun h =>
    match lzsendOperand (c.b .whole) h.slots.length with
    | none => faultWith .reservedField
    | some (sl, off) =>
      match c.s.put c.actor c.actor.issuer (engineOf c.u.region) h sl true 0 off h.bytes with
      | .status s n => .ok s { val := some (BitVec.ofNat 128 n), cond := n == 0 }
      | .full s => .wait s
      | .bad k a => .fault { cause := k, faddr := a.getD 0 }
      | .poison a n => .fault { cause := .poison, found := some (a, n) }

/-- LZSEND: one firing. -/
def execLzsend (w : FWord) (s : State) : Out := firing (.lzsend w) evalLzsend s

/-- CHORD (R299): a put of any bytes, from a descriptor at xa. -/
def execChord (d a b : Reg) (s : State) : Out :=
  conductor s fun r c =>
    let xb := c.get b
    let n := Word.field xb 7 0
    let sl := Word.field xb 11 8
    if Word.field xb 63 12 ≠ 0 then trapWith .reservedField
    else
      match s.handleFor r n (s.ctxOf r) with
      | none => trapWith .access
      | some h =>
        if sl ≥ h.slots.length then trapWith .reservedField
        else
          (s.condLoad r c (c.get a) 16).cond fun s' bs =>
            let src := fieldAt bs 0 8
            let start := fieldAt bs 8 4
            let len := fieldAt bs 12 4
            if len % 16 ≠ 0 ∨ start % 16 ≠ 0 then trapWith .reservedField
            else
              match s'.put (s'.condActor r c) (.conductor r) (engineOf r) h sl false src start (start + len) with
              | .status s n => .done (s.setX r d (BitVec.ofNat 64 n))
              | .full z => .wait (s.sent z)
              | .bad k a => .trap { cause := k, faddr := a }
              | .poison a n => .trap { cause := .poison, found := some (a, n) }

/-- CHORD_NODE_PUT (R291): the put token at the head of a chord engine node's port, which acts as LZSEND and
waits while LZSEND would return 1 (DEDUCED, log entry 48). -/
def execChordNodePut (inst node : Nat) (s : State) : Out :=
  .next (match s.engine? inst node, s.inst? inst with
  | some e, some i =>
    match e.ins with
    | [] => s
    | t :: rest =>
      if !e.isChord || e.faulted || e.finished || t.kind ≠ 0 || !s.running inst then s
      else
        let x := { engineActor e.region inst i.ctx (.node inst node) e.arrived with agent := .engine inst node }
        let s := (s.observe (.engine inst node) t.rels).orderAfter (.engine inst node) t.before
        let b := t.payload &&& 0xFFFFFFFFFFFFFFFF
        if t.psn then s.engineFault e .poison 0
        else
          match s.handleFor e.region (Word.field t.payload 79 72) i.ctx with
          | none => s.engineFault e .access 0
          | some h =>
            if Word.field t.payload 71 64 ≠ 0 ∨ Word.field t.payload 127 80 ≠ 0 then s.engineFault e .reservedField 0
            else
              match lzsendOperand b h.slots.length with
              | none => s.engineFault e .reservedField 0
              | some (sl, off) =>
                let took := s.modEngine inst node fun v => { v with ins := rest, arrived := [], pending := v.pending + 1 }
                match took.put x (.node inst node) e.unit h sl true 0 off h.bytes with
                | .bad k a => s.engineFault e k (a.getD 0)
                | .poison a n => (s.engineFault e .poison 0).meets (some (a, n))
                | .full s' => s.asked s'
                | .status _ 1 => s
                | .status _ 2 => s.modEngine inst node fun v => { v with ins := rest, arrived := [] }
                | .status s _ => s
  | _, _ => s)

/-- Counted clocks of an instance (R58). -/
def State.countedOf (s : State) (inst : Nat) : Nat := ((s.inst? inst).map Inst.counted).getD 0

/-- Whether a put has a packet to send now. -/
def State.canSend (s : State) (p : Put) : Bool :=
  s.running p.inst && !s.heldBack p.behind && p.quietAt.isNone && p.next < p.fin && match p.port with
    | some q => s.portUp p.kind q
    | none => false

/-- The cost of a packet of `n` bytes, 1 pJ per byte (R394), in fJ. -/
def packetCost (n : Nat) : Nat := 1000 * n

/-- The poison mask of a packet: one bit for each 16-byte unit (R346). -/
def psnMask (bs : List (Byte × Bool)) : Nat :=
  ((List.range 8).filter fun k => ((bs.drop (16 * k)).take 16).any Prod.snd).foldl (fun m k => m + 2 ^ k) 0

/-- PUT_PACKET_SEND (R354, R355): the next packet of the engine, its eight running puts taken in turn. -/
def execPutPacketSend (eng : Nat) (s : State) : Out :=
  .next (
  let ce := s.chord eng
  let run := (ce.puts.filter fun p => s.running p.inst).take 8
  let next := (run.filter fun p => ce.turn < p.id) ++ run.filter fun p => p.id ≤ ce.turn
  match next.find? s.canSend with
  | none => s
  | some p =>
    let n := min 128 (p.fin - p.next)
    if !s.affords p.region (packetCost n) then s
    else
      let paid := s.debit p.region (packetCost n)
      let x := engineActor p.region p.inst p.ctx (.engine eng) p.arrived
      let src := if p.lzsend then
          match s.handle? p.region p.handle with
          | some h => (paid, [], s.slotBytes h p.slot p.next n, none)
          | none => (paid, [], [], none)
        else paid.collect x 0 10 ((p.src + (p.next - p.start)) % 2 ^ 64) n p.units []
      match src with
      | (s', _, _, some none) => s.asked s'
      | (s, _, _, some (some (c, a))) => (s.endPut eng p 4).commandFault p.region p.handle p.slot p.issuer c a
      | (s, us, bs, none) =>
        let f := s.toTarget 7 p.target p.ctx p.id p.next p.ztag 0 (psnMask bs) (bs.map Prod.fst)
        let s := match p.port with
          | some q => s.send p.kind q f
          | none => s
        let s := (s.setChord eng { s.chord eng with turn := p.id }).stepOf p.issuer
        (s.modPut eng p.id fun p =>
          { p with next := p.next + n, keepAt := s.clk, arrived := [], units := us.drop (us.length - 1) }).fired p.inst)

/-- The put that a packet's answer belongs to. -/
def State.putOf (s : State) (tx : BitVec 16) : Option (Nat × Put) :=
  s.chords.findSome? fun c => (c.2.puts.find? fun p => BitVec.ofNat 16 p.id == tx).map fun p => (c.1, p)

/-- A packet to the slot of a record, under its tag, was dropped as revoked: the count rises, also once the record has been
released (R299). -/
def PeerRec.dropped (f : Flit) (y : PeerRec) : PeerRec :=
  let k : Nat := Word.field y.target 27 0
  if y.ztag == f.ztag && routeKind y.route == f.net && k == f.src.toNat + 256 * Word.field f.addr 19 0 then y.revoked else y

/-- PUTACK (R299): the packet's bytes are acknowledged, or the put ends as the receiver's test says. -/
def execPutack (f : Flit) (s : State) : Out :=
  .next (
  let s := s.hear f.sender
  let s := if f.attr = 4 then
      { s with handles := s.handles.map fun (h : Handle) => { h with recs := h.recs.map (PeerRec.dropped f) } }
    else s
  match s.putOf f.txid with
  | none => s
  | some (eng, p) =>
    if f.attr = 4 then s.endPut eng p 2
    else if f.attr ≠ 0 then s.endPut eng p 3
    else
      let top := min p.fin (f.off + 128)
      let acked := if f.off ≤ p.acked then max p.acked top else p.acked
      let p' := { p with acked := acked }
      if acked ≥ p.fin then s.endPut eng p' 0
      else
        (s.modPut eng p.id fun _ => p').modRec p.region p.handle p.slot fun y =>
          { y with status := chordStatus acked (revCnt y.status) 0 1 })

/-- Whether LZTIMEOUT has passed since the last allowed port of a put went down (R356, R358). -/
def Put.expired (p : Put) (counted : Nat) : Bool :=
  match p.failAt with
  | some t => t + 1000 * p.timeout ≤ counted
  | none => false

/-- Whether a port went down in this very clk (R358). -/
def State.downNow (s : State) (k : PortKind) (p : Nat) : Bool :=
  (s.port k p).state == 4 && (s.port k p).downAt == s.clk && 0 < s.clk

/-- The next port of ALLOW after `p` as the clk's choice saw it: one declared down in this clk may still be the one chosen (R358). -/
def State.nextChosen (s : State) (e : Word64) (p : Nat) : Option Nat :=
  ((List.range 32).map fun k => (p + 1 + k) % 32).find? fun q =>
    Word.bit e q && (s.portUp (routeKind e) q || (q != p && s.downNow (routeKind e) q))

/-- The quiet period of a reservation or of a release with transaction number `tx` ends (R355): it is sent again on the next allowed
port. -/
def State.moveRequest (s : State) (tx : Nat) : State :=
  let s := match s.resvs.find? fun v => v.tx == tx && v.answer.isNone && !v.late with
    | some v => match v.quietAt, v.port.bind (s.nextPort v.route) with
      | some t, some q =>
        if !s.running v.inst || s.countedOf v.inst < t + 5000 then s
        else { s with resvs := s.resvs.map fun (y : Resv) => if y.tx = tx then { y with port := some q, quietAt := none } else y }.send
          (routeKind v.route) q (s.resvFlit v)
      | _, _ => s
    | none => s
  match s.txns.find? fun t => t.tx == tx && t.flit.typ == 11 with
  | some t => match t.quietAt, t.route.bind fun e => t.port.bind (s.nextPort e) with
    | some c, some q =>
      if s.clk < c + 5000 then s
      else { s with txns := s.txns.map fun (y : Txn) => if y.tx = tx then { y with port := some q, quietAt := none } else y }.send
        (routeKind (t.route.getD 0)) q t.flit
    | _, _ => s
  | none => s

/-- QUIET_PERIOD_END (R355, R357, R358): 5 µs of counted clocks after its port went down, a put goes on from ACKED on
the next allowed port that is up; where that one went down in this clk, the put is quiet anew. A reservation or release under that
number goes out again too (DESIGN CHOICE, log entry 32). -/
def execQuietPeriodEnd (eng id : Nat) (s : State) : Out :=
  .next (
  let s := if s.stopped then s else s.moveRequest id
  match (s.chord eng).puts.find? fun p => p.id == id with
  | none => s
  | some p =>
    match p.quietAt with
    | none => s
    | some t =>
      let now := s.countedOf p.inst
      if !s.running p.inst || (p.port.isSome && now < t + 5000) || p.expired now then s
      else
        match (match p.port with
          | some q => s.nextChosen p.route q
          | none => s.firstPort p.route) with
        | none => s
        | some q => s.modPut eng id fun p =>
          if s.portUp p.kind q then { p with port := some q, next := p.acked, quietAt := none, failAt := none }
          else { p with port := some q, next := p.acked, quietAt := some now })

/-- LINK_FAIL (R300, R356): LZTIMEOUT after the last allowed port went down. -/
def execLinkFail (eng id : Nat) (s : State) : Out :=
  .next (match (s.chord eng).puts.find? fun p => p.id == id with
  | none => s
  | some p =>
    if s.running p.inst && p.expired (s.countedOf p.inst) then s.endPut eng p 1 else s)

/-- The puts of the device toward the receiver of a put. -/
def State.toReceiver (s : State) (p : Put) : List Put :=
  (s.chords.flatMap fun c => c.2.puts).filter fun q => q.kind == p.kind && Word.field q.target 7 0 == Word.field p.target 7 0

/-- KEEP (R356): a put in SENDING shows itself on its port where the sender has had no packet to send to its receiver, and has sent
nothing to it, for 1 µs. -/
def execKeep (eng id : Nat) (s : State) : Out :=
  .next (match (s.chord eng).puts.find? fun p => p.id == id with
  | none => s
  | some p =>
    match p.port with
    | some q =>
      if s.stopped || (s.toReceiver p).any (fun x => s.canSend x || s.clk < x.keepAt + 1000) || !s.portUp p.kind q then s
      else
        (s.send p.kind q (s.toTarget 14 p.target p.ctx p.id 0 p.ztag 0 0 [])).modPut eng id fun p =>
          { p with keepAt := s.clk }
    | none => s)

/-! ### The receiver (R298, R299, R302) -/

/-- ZTAG of a slot: the owner's context and GEN. -/
def Handle.ztag (h : Handle) (sl : Nat) : BitVec 32 := h.ctx ++ (h.slot sl).gen

/-- The handle that a chord flit names: by the region given at reservation (R299). -/
def State.landing (s : State) (f : Flit) : Option Handle :=
  match s.handles.find? fun h => h.num == f.handle && h.was.contains f.region && h.ztag f.slot == f.ztag with
  | some h => some h
  | none => s.handle? f.region f.handle

/-- Whether the sender of a flit holds a slot's reservation. -/
def HSlot.heldBy (x : HSlot) (f : Flit) : Bool := x.holder == some (f.sender, f.ctx)

/-- Whether a slot was granted in this clk to a device with a higher id than the sender of `f`, or to a higher chord engine of the
same, so that the request of `f` would have won had it been met first (R286). -/
def HSlot.granted (x : HSlot) (clk : Nat) (f : Flit) : Bool :=
  x.state == .reserved && x.metAt == some clk && match x.holder with
    | some (dev, _) => f.sender < dev || (f.sender == dev && f.attr.toNat < x.grant.1)
    | none => false

/-- Whether a request is the one that holds the slot already, sent again after its port failed (R355; DEDUCED, log entry 86). -/
def HSlot.repeats (x : HSlot) (f : Flit) : Bool :=
  x.state == .reserved && x.heldBy f && x.grant.2 == f.txid

/-- RESERVATION_REQUEST (R298): DENIED, BUSY or GRANTED; RBYTES travels as the answer's byte offset (log entry
13). -/
def execReservationRequest (f : Flit) (s : State) : Out :=
  .next (
  let s := s.hear f.sender
  match s.handle? f.region f.handle with
  | none => s.reply f 10 0 0 2
  | some h =>
    if !h.rw ∨ h.peer ≠ f.ctx ∨ f.slot ≥ h.slots.length then s.reply f 10 0 0 2
    else if (h.slot f.slot).repeats f then s.reply f 10 h.bytes (h.ztag f.slot) 0
    else if (h.slot f.slot).granted s.clk f then s.nextClk (.reservationRequest f)
    else if !s.isFree (h.slot f.slot) then s.reply f 10 0 0 3
    else
      let s := (s.slotTo h.region h.num f.slot .reserved).modSlot h.region h.num f.slot fun x =>
        { x with holder := some (f.sender, f.ctx), grant := (f.attr.toNat, f.txid), metAt := some s.clk }
      s.reply f 10 h.bytes (h.ztag f.slot) 0)

/-- A release sent to a target under a tag (R298, R302), with the LZTIMEOUT of its instance, or its reset value of 50 µs where none is
left; `killed` marks the kill of the sender's context. -/
def State.sendRelease (s : State) (e target : Word64) (inst : Nat) (ctx : BitVec 12) (ztag : BitVec 32) (killed : Bool) :
    State :=
  let f := s.toTarget 11 target ctx s.nextTx 0 ztag killed.toNat 0 []
  let port := if s.reachable e target then s.firstPort e else none
  let s := { s with
    nextTx := s.nextTx + 1
    txns := s.txns ++
      [{ tx := s.nextTx, issuer := .engine 0, inst := inst, ctx := ctx, flit := f, port := port, issued := s.clk
         returns := false, route := some e, lz := some (((s.inst? inst).map Inst.lztimeout).getD 50) }] }
  match port with
  | some p => s.send (routeKind e) p f
  | none => s

/-- RESERVATION_ANSWER (R298): the record is filled; a grant that no reservation awaits any more is released. -/
def execReservationAnswer (f : Flit) (s : State) : Out :=
  .next (
  let s := s.hear f.sender
  let result := if f.attr = 0 then 0 else if f.attr = 3 then 1 else 2
  match s.resvs.find? fun v => BitVec.ofNat 16 v.tx == f.txid && (v.answer.isNone || v.late) with
  | some v =>
    if v.late then
      -- given up before: a grant is released at once
      let s := { s with resvs := s.resvs.filterMap fun y =>
        if y.tx = v.tx then (if y.issuer == .engine 0 then none else some { y with late := false }) else some y }
      if result ≠ 0 then s
      else match s.routeAnew v.inst f.ctx (Word.field v.target 39 36) v.route with
        | (s, some e) => s.sendRelease e v.target v.inst f.ctx f.ztag false
        | (s, none) => s
    else if v.issuer = .hub ∧ result ≠ 0 then { s with resvs := s.resvs.filter fun y => y.tx != v.tx }
    else
    let w := if result = 0 then answerWord f.ztag f.off 0 else answerWord 0 0 result
    let s := { s with resvs := s.resvs.map fun (y : Resv) => if y.tx = v.tx then { y with answer := some w } else y }
    if result = 0 then
      s.modRec v.region v.handle v.slot fun y =>
        { y with valid := true, target := v.target, ztag := f.ztag, rbytes := f.off, route := v.route, status := 0 }
    else s
  | none =>
    if result = 0 then
      s.sendRelease (routeAny f.net) (pack [(24, f.slot), (16, f.handle), (8, f.region), (0, f.src.toNat)]) 0 f.ctx f.ztag false
    else s)

/-- RESERVATION_TIMEOUT (R298): no answer within LZTIMEOUT gives UNREACHABLE. -/
def execReservationTimeout (tx : Nat) (s : State) : Out :=
  .next (match s.resvs.find? fun v => v.tx == tx with
  | none => s
  | some v =>
    if v.answer.isNone && v.counted + 1000 * v.timeout ≤ s.countedOf v.inst then
      { s with resvs := s.resvs.map fun (y : Resv) =>
          if y.tx = tx then
            { y with answer := some (answerWord 0 0 3), late := true, issuer := if y.issuer = .hub then .engine 0 else y.issuer }
          else y }
    else s)

/-- A packet's answer leaves by the port the packet came on (R355). -/
def State.ackPut (s : State) (f : Flit) (k : PortKind) (p code : Nat) : State :=
  s.send k p (s.chordFlit 8 f.src.toNat f.ctx f.txid.toNat f.region f.handle f.slot f.off f.ztag code 0 [])

/-- A slot becomes ABORTED LZTIMEOUT of the receiving instance after the failure was seen (R300, R356). -/
def State.abortDue (s : State) (h : Handle) (sl : Nat) : State :=
  match s.inst? h.inst, (h.slot sl).seenFail with
  | some i, some t =>
    if s.running h.inst && (h.slot sl).state == .filling && t + 1000 * i.lztimeout ≤ i.counted then s.abort h.region h.num sl else s
  | _, _ => s

/-- PUT_PACKET (R299): the tests in order; while the receiving instance is frozen the packet is held, and met again
later. -/
def execPutPacket (f : Flit) (k : PortKind) (p : Nat) (s : State) : Out :=
  .next (
  let s' := s.hear f.sender
  match s'.landing f with
  | none => s'.ackPut f k p 4
  | some h =>
    -- a slot whose LZTIMEOUT is over in this clk is ABORTED first (R358)
    let s' := s'.abortDue h f.slot
    let x := ((s'.handle? h.region h.num).getD h).slot f.slot
    if !s'.running h.inst then s'.nextClk (.putPacket f k p)
    else if f.slot ≥ h.slots.length ∨ h.ztag f.slot ≠ f.ztag then s'.ackPut f k p 4
    else if !(x.heldBy f && (x.state == .reserved || x.state == .filling)) then s'.ackPut f k p 5
    else if f.off > x.wptr then s'.ackPut f k p 5
    else
      let s := (s'.slotTo h.region h.num f.slot .filling).modSlot h.region h.num f.slot fun x =>
        { x with lastPort := some (k, p), seenFail := none, metAt := some s'.clk }
      let new := (f.bytes.drop (x.wptr - f.off)).take (h.bytes - x.wptr)
      (if new.isEmpty then s else s.fill h.region h.num f.slot new).ackPut f k p 0)

/-- RELEASE_REQUEST (R302): in the clk of a packet or a grant the release would have come first (R286): it counts as arriving in
the next. A slot held by the sender under its tag becomes FREE; at the kill of the sender's
context it becomes ABORTED with a new GEN. -/
def execReleaseRequest (f : Flit) (s : State) : Out :=
  .next (
  let s := s.hear f.sender
  let late := match s.landing f with
    | some h => (h.slot f.slot).heldBy f && h.ztag f.slot == f.ztag && (h.slot f.slot).metAt == some s.clk
    | none => false
  if late then s.nextClk (.releaseRequest f) else
  let s := s.reply f 12 0 f.ztag 0
  match s.landing f with
  | none => s
  | some h =>
    let x := h.slot f.slot
    if !x.heldBy f ∨ h.ztag f.slot ≠ f.ztag then s
    else if f.attr = 1 then
      if x.state = .reserved ∨ x.state = .filling then
        (s.abort h.region h.num f.slot).modSlot h.region h.num f.slot fun y => { y with gen := y.gen + 1 }
      else s
    else if x.state = .reserved ∨ x.state = .filling ∨ x.state = .aborted then s.slotTo h.region h.num f.slot .free
    else s)

/-- FAILURE_SEEN (R356): the port of the slot's last packet has been declared down since, or its sender has been silent for 3 µs. -/
def execFailureSeen (r h sl : Nat) (s : State) : Out :=
  .next (match s.handle? r h with
  | none => s
  | some y =>
    let x := y.slot sl
    let down := match x.lastPort with
      | some (k, p) => !s.portUp k p || (0 < (s.port k p).downAt && x.metAt.getD 0 ≤ (s.port k p).downAt)
      | none => false
    let silent := match x.holder with
      | some (dev, _) => lookup s.heard 0 dev + 3000 ≤ s.clk
      | none => false
    if x.state = .filling ∧ x.lastPort.isSome = true ∧ x.seenFail.isNone = true ∧ (down || silent) = true then
      s.modSlot r h sl fun x => { x with seenFail := some (s.countedOf y.inst) }
    else s)

/-- SLOT_ABORT (R300, R356): LZTIMEOUT of the receiving instance after the failure was seen. -/
def execSlotAbort (r h sl : Nat) (s : State) : Out :=
  .next (match s.handle? r h with
  | none => s
  | some y => s.abortDue y sl)

/-! ### Reading and resetting (R301, R302) -/

/-- LZSTAT (R301). -/
def evalLzstat (c : Fire) : FRes :=
  c.withSlot fun h k =>
    let y := h.record k
    let t := Word.field y.target 27 0 + (if y.valid then 2 ^ 31 else 0)
    .ok c.s
      { val := some (BitVec.ofNat 128 (y.status.toNat + 2 ^ 64 * t + 2 ^ 96 * y.ztag.toNat))
        cond := Word.field y.status 1 0 == 2 }

/-- LZSTAT: one firing. -/
def execLzstat (w : FWord) (s : State) : Out := firing (.lzstat w) evalLzstat s

/-- An ABORTED slot resumed or cleared (R301); `none` where its state is another. -/
def State.lzReset (s : State) (h : Handle) (k : Nat) (clear : Bool) : Option State :=
  if (h.slot k).state ≠ .aborted then none
  else if clear then
    some ((s.slotTo h.region h.num k .reserved).modSlot h.region h.num k fun x =>
      { x with wptr := 0, poison := false, seenFail := none, metAt := some s.clk })
  else
    some ((s.slotTo h.region h.num k .filling).modSlot h.region h.num k fun x => { x with seenFail := none, metAt := some s.clk })

/-- LZRESET (R301): bit 8 of B selects clear. -/
def evalLzreset (c : Fire) : FRes :=
  c.withHandle fun h =>
    let b := c.b .whole
    let k := Word.field b 3 0
    if Word.field b 7 4 ≠ 0 ∨ Word.field b 127 9 ≠ 0 ∨ k ≥ h.slots.length then faultWith .reservedField
    else if !h.rw then faultWith .access
    else
      match c.s.lzReset h k (b.getLsbD 8) with
      | some s => .ok s { cond := true }
      | none => .ok c.s { cond := false }

/-- LZRESET: one firing. -/
def execLzreset (w : FWord) (s : State) : Out := firing (.lzreset w) evalLzreset s

/-- An LZCTL operation on a handle in xa (R302). -/
def lzctl (a : Reg) (s : State) (f : Nat → Conductor → Handle → CondRes) : Out :=
  conductor s fun r c =>
    let xa := c.get a
    if Word.field xa 63 8 ≠ 0 then trapWith .reservedField
    else
      match s.handleFor r xa.toNat (s.ctxOf r) with
      | none => trapWith .access
      | some h => f r c h

/-- One whose xb is a slot below the handle's count. -/
def lzctlSlot (a b : Reg) (s : State) (f : Nat → Handle → Nat → CondRes) : Out :=
  lzctl a s fun r c h =>
    let xb := c.get b
    if Word.field xb 63 4 ≠ 0 ∨ xb.toNat ≥ h.slots.length then trapWith .reservedField else f r h xb.toNat

/-- LZCTL.RESERVE (R302). -/
def execLzctlReserve (d a b : Reg) (s : State) : Out :=
  lzctl a s fun r c h =>
    let t := c.get b
    if targetBad t ∨ Word.field t 35 32 ≥ h.slots.length then trapWith .reservedField
    else
      match s.reserve (s.condActor r c) (.conductor r) h t with
      | .answer s w => .done (s.setX r d w)
      | .wait s => .wait s
      | .bad k a => .trap { cause := k, faddr := a }
      | .poison a n => .trap { cause := .poison, found := some (a, n) }

/-- LZCTL.RELEASE (R302). -/
def execLzctlRelease (d a b : Reg) (s : State) : Out :=
  lzctlSlot a b s fun r h k =>
    let y := h.record k
    if !y.valid then .done (s.setX r d 1)
    else
      match s.cond? r with
      | none => .done s
      | some c =>
        if s.heldBack (s.behindNow (.conductor r)) then .wait s else
        (s.readRoute (s.condActor r c) h.inst (Word.field y.target 39 36)).cond fun s e =>
          let s := (s.commandPoint (.conductor r) r).sendRelease e y.target h.inst h.ctx y.ztag false
          .done ((s.modRec r h.num k fun z => { z with valid := false }).setX r d 0)

/-- LZCTL.STATUS (R302). -/
def execLzctlStatus (d a b : Reg) (s : State) : Out :=
  lzctlSlot a b s fun r h k => .done (s.setX r d (h.record k).status)

/-- LZCTL.RESUME and CLEAR (R302). -/
def lzctlReset (clear : Bool) (d a b : Reg) (s : State) : Out :=
  lzctlSlot a b s fun r h k =>
    if !h.rw then trapWith .access
    else
      match s.lzReset h k clear with
      | some s => .done (s.setX r d 0)
      | none => .done (s.setX r d 1)

/-- LZCTL.RESUME (R302). -/
def execLzctlResume (d a b : Reg) (s : State) : Out := lzctlReset false d a b s

/-- LZCTL.CLEAR (R302). -/
def execLzctlClear (d a b : Reg) (s : State) : Out := lzctlReset true d a b s

end Sys2Proof.Machine
end

