-- ==== Sys2Proof/Machine/Ready.lean ====
section
/-!
DEFINITION. Which slot a facet fires: readiness (R35, with the further tests of R173 to R175, R179 and R297), the
cost of each class (R170, R394) and the choice (R36, R49).
-/
namespace Sys2Proof.Machine

/-! ### Costs (R170, R394), in fJ -/

/-- The cost of a facet opcode. -/
def opcodeCost (op : Nat) : Nat :=
  if op < 0x10 then 4000
  else if op < 0x28 then 10000
  else if op < 0x34 then 18000
  else if op < 0x48 then 10000
  else if op < 0x4C then 18000
  else if op < 0x70 then 10000
  else if op < 0xA0 then
    if 0xB ≤ op % 16 ∧ op % 16 ≤ 0xE then 40000 else if op < 0x80 then 30000 else 20000
  else if op < 0xB0 then 12000
  else if op = 0xB8 ∨ op = 0xBA ∨ op < 0xB4 then 25000
  else if op < 0xBC ∨ op = 0xBF then 60000
  else if op < 0xE0 then 4000
  else if op = 0xE0 then 30000
  else 18000

/-- The cost of one facet's firing of an instruction. -/
def instrCost (i : Instr) : Nat :=
  match Encode.facetParts i with
  | some (op, _) => opcodeCost op
  | none => 0

/-! ### The tests of R35 -/

/-- Test 1. -/
def FacetUnit.predsMatch (u : FacetUnit) (w : FWord) : Bool := (u.preds &&& w.pm) == (w.pv &&& w.pm)

/-- Test 2. -/
def FacetUnit.tagMatch (u : FacetUnit) (w : FWord) : Bool :=
  !w.tgEn || match u.head w.tgCh.val with
    | some t => t.tag == w.tgTag
    | none => false

/-- Whether the channel an operand names has a head of one of these kinds. -/
def FacetUnit.headIs (u : FacetUnit) (o : Operand) (kinds : List Nat) : Bool :=
  match o.channel with
  | some (k, _) => match u.headKind k.val with
    | some n => kinds.contains n
    | none => false
  | none => true

/-- Test 3, and the inputs of MERGE (R174) and MERGEU (R175). -/
def FacetUnit.inputsReady (u : FacetUnit) (i : Instr) : Bool :=
  let w := i.word
  match i with
  | .merge _ => u.headIs w.a [0, 1] && u.headIs w.b [0, 1] && (u.headIs w.a [0] || u.headIs w.b [0])
  | .mergeu _ => u.headIs w.a [0] || u.headIs w.b [0]
  | i => i.sources.all fun o => u.headIs o [0]

/-- The control token of STEER, STEERX, MERGE and MERGEU. -/
def FacetUnit.controlReady (u : FacetUnit) (i : Instr) : Bool :=
  if (steerWord i).isSome || (mergeuWord i).isSome then u.ctlHead i.word.c.code else true

/-- Test 4. -/
def FacetUnit.sourcesPresent (u : FacetUnit) (i : Instr) : Bool :=
  (u.consumed i.sources).all fun n => u.pres.getLsbD n.val

/-- Whether control output `k` has a free entry. -/
def FacetUnit.ctlRoom (u : FacetUnit) (k : Nat) : Bool := (u.couts.getD k []).length < 4

/-- The output that a STEER selects: D, or its partner where the control token is 1 (R173). -/
def FacetUnit.steered (u : FacetUnit) (w : FWord) : Nat :=
  let bit := match (u.cins.getD w.c.code []).head? with
    | some t => t.payload.getLsbD 0
    | none => false
  if bit then partner (outNum w.d) else outNum w.d

/-- Test 5, and beside it the outputs of STEER, STEERX (R173) and HALT (R179). -/
def FacetUnit.outputsReady (u : FacetUnit) (i : Instr) : Bool :=
  let w := i.word
  match i with
  | .steer _ => u.room (outNum w.d) && u.room (u.steered w)
  | .steerx _ => u.room (outNum w.d) && u.room (partner (outNum w.d))
  | .halt _ => u.outputs.all u.room && u.ctlOutputs.all u.ctlRoom
  | .ctl _ => u.ctlRoom w.c.code
  | _ => match w.d with
    | .out o => u.room o.val
    | _ => true

/-- Test 6. -/
def FacetUnit.destReady (u : FacetUnit) (i : Instr) : Bool :=
  match i.word.d with
  | .reg n => !u.chreg.getLsbD n.val || !u.pres.getLsbD n.val || (u.consumed i.sources).contains n
  | _ => true

/-- Test 7: the handle conditions of R297 and R299. A form that faults is ready, and faults. -/
def Fire.handleReady (c : Fire) (i : Instr) : Bool :=
  let waits := fun (r : FRes) => match r with
    | .wait _ => true
    | _ => false
  match i with
  | .htake _ => !waits (evalHtake c)
  | .hfree _ => !waits (evalHfree c)
  | .wpwait _ => !waits (evalWpwait c)
  | .lzsend _ => ((c.s.chord (engineOf c.u.region)).puts.filter fun p => c.s.running p.inst).length < 40
  | _ => true

/-- Test 9. -/
def neverReady (i : Instr) : Bool :=
  match i with
  | .nop w => w.puAct == 0
  | _ => false

/-- A member as it would evaluate an instruction now. -/
def State.fireOf (s : State) (lead u : FacetUnit) (i : Instr) (slot : Nat) : Fire :=
  { rd := s, s := s, u := u, lead := lead, w := i.word, slot := slot, assisted := false }

/-- Tests 3 to 7 at one member (R49). -/
def State.memberReady (s : State) (lead u : FacetUnit) (i : Instr) (slot : Nat) : Bool :=
  u.inputsReady i && u.controlReady i && u.sourcesPresent i && u.outputsReady i && u.destReady i &&
    (s.fireOf lead u i slot).handleReady i

/-- Whether a slot of a chain's leader passes every test of R35 but test 8, on the tokens that had arrived before this clk
(R204). -/
def State.slotHolds (s : State) (u : FacetUnit) (slot : Nat) : Bool :=
  match u.instr slot with
  | none => false
  | some i =>
    let w := i.word
    !neverReady i && u.predsMatch w && (u.asOf s.clk).tagMatch w &&
      (s.chainOf u).all fun v => s.memberReady u (v.asOf s.clk) i slot

/-- The cost of a slot's firing, once for the chain (R394). -/
def FacetUnit.slotCost (u : FacetUnit) (slot : Nat) : Nat := ((u.instr slot).map instrCost).getD 0 * u.chain

/-- Whether a chain's leader may choose a slot: every test of R35. -/
def State.slotReady (s : State) (u : FacetUnit) (slot : Nat) : Bool :=
  s.slotHolds u slot && s.affords u.region (u.slotCost slot)

/-- Whether no slot of a unit's chain could fire, but for energy. -/
def State.quiet (s : State) (u : FacetUnit) : Bool :=
  match s.facet? u.inst u.node u.clone 0 with
  | some lead => (List.range 16).all fun k => !s.slotHolds lead k
  | none => true

/-! ### Where a facet may switch (R312) -/

/-- Whether a clone is at rest: no firing of it is held. -/
def FacetUnit.atRest (u : FacetUnit) : Bool :=
  u.chainFire.isNone && u.assist.isNone && u.brk.isNone && u.faulted.isNone && !u.contain

/-- The declared inputs of a facet that arcs feed: data inputs 0 to 3, control inputs 4 and 5. -/
def State.fedInputs (s : State) (u : FacetUnit) : List Nat :=
  (List.range 6).filter fun k => u.indecl.getLsbD k && s.fedPort u.inst u.node k

/-- The tokens of input `k`. -/
def FacetUnit.input (u : FacetUnit) (k : Nat) : List Token := if k < 4 then u.ins.getD k [] else u.cins.getD (k - 4) []

/-- Whether SWITCH stands at the head of input `k`. -/
def FacetUnit.atSwitch (u : FacetUnit) (k : Nat) : Bool := ((u.input k).head?.map Token.kind) == some 3

/-- Whether a facet may switch: at a firing boundary, with SWITCH at every input that an arc feeds, and room for its own. -/
def State.mayswitch (s : State) (u : FacetUnit) : Bool :=
  (u.finished || u.halted) ||
    (u.atRest && (s.fedInputs u).all u.atSwitch && u.outputs.all u.room && u.ctlOutputs.all u.ctlRoom)

/-- Whether a node's switch is due at one of its units: it fires nothing more under its old configuration. -/
def State.switchDue (s : State) (u : FacetUnit) : Bool :=
  match (s.inst? u.inst).bind fun i => i.ctl.wave with
  | some w => w.affected.contains u.node && !w.switched.contains (u.node, 0) && (s.chainOf u).all s.mayswitch
  | none => false

/-! ### The choice -/

/-- What a facet does in its turn. -/
inductive Choice where
  | nothing
  | fire (u : FacetUnit) (slot : Nat) (mode : FireMode) (cost : Nat)

/-- Whether a unit takes turns: its instance runs, and it leads a chain that has neither finished nor halted and is
not contained. -/
def State.takesTurns (s : State) (u : FacetUnit) : Bool :=
  u.pos == 0 && s.running u.inst && !u.halted && !u.finished && !u.contain && u.faulted.isNone

/-- The choice of one unit: a held firing first (the assist's completion of R61, a debugged slot of R375, one whose
access is outstanding), then the lowest ready slot (R36). -/
def State.choose1 (s : State) (u : FacetUnit) : Choice :=
  if !s.takesTurns u || s.switchDue u then .nothing
  else
    match u.assist, u.chainFire, u.brk with
    | some k, _, _ => .fire u k .assisted 0
    | none, some (k, n), b =>
      if n < u.chain then .nothing
      else if u.chain > 1 then .nothing
      else .fire u k (if b.isSome then .pastBreak else .normal) 0
    | none, none, some k =>
      if u.passBreak then .fire u k .pastBreak 0 else .nothing
    | none, none, none =>
      match (List.range 16).find? (s.slotReady u) with
      | some k => .fire u k .normal (u.slotCost k)
      | none => .nothing

/-- A facet's units in node order. -/
def insertByNode (u : FacetUnit) : List FacetUnit → List FacetUnit
  | [] => [u]
  | v :: vs => if u.node ≤ v.node then u :: v :: vs else v :: insertByNode u vs

/-- The choice of a facet: of folded nodes, the lower id holds the lower slots (R311) (DEDUCED, log entry 54). -/
def State.facetChoice (s : State) (r rank : Nat) : Choice :=
  let us := (s.facetsAt r rank).foldr insertByNode []
  us.foldl (fun c u => match c with
    | .nothing => s.choose1 u
    | c => c) .nothing

/-- The instruction word that a choice executes, and the state that executes it: its cost is debited once, at the
choice (R37, R395). -/
def State.chosen (s : State) (r rank : Nat) : Option (Instr × State) :=
  match s.facetChoice r rank with
  | .nothing => none
  | .fire u k mode cost =>
    (u.instr k).map fun i =>
      (i, { s.debit r cost with cur := { region := r, rank := rank, node := u.node, slot := k, mode := mode } })

end Sys2Proof.Machine
end

