-- ==== Sys2Proof/Machine/Chain.lean ====
section
/-!
DEFINITION. The steps of a facet that no slot choice begins: a chain's members (R49, R50), a BREAK resumed (R194,
R375), and two of the memory system: a page-table walk (R93) and a tracked access that expires (R120).
-/
namespace Sys2Proof.Machine

/-- The meaning of each facet instruction at one member. -/
def facetEval (i : Instr) : Eval :=
  match i with
  | .nop _ => evalNop
  | .mov _ => evalMov
  | .movi _ => evalMovi
  | .movis _ => evalMovis
  | .sel _ => evalSel
  | .drop _ => evalDrop
  | .steer _ => evalSteer
  | .steerx _ => evalSteerx
  | .merge _ => evalMerge
  | .mergeu _ => evalMergeu
  | .emitn _ => evalEmitn
  | .ctl _ => evalCtl
  | .cease _ => evalCease
  | .vers _ => evalVers
  | .vfin _ => evalVfin
  | .halt _ => evalHalt
  | .facetAdd sz _ => evalFacetAdd sz
  | .facetSub sz _ => evalFacetSub sz
  | .addss sz _ => evalAddss sz
  | .addsz sz _ => evalAddsz sz
  | .subss sz _ => evalSubss sz
  | .subsz sz _ => evalSubsz sz
  | .facetMul sz _ => evalFacetMul sz
  | .facetMulhs sz _ => evalFacetMulhs sz
  | .facetMulhz sz _ => evalFacetMulhz sz
  | .facetMins sz _ => evalFacetMins sz
  | .facetMinz sz _ => evalFacetMinz sz
  | .facetMaxs sz _ => evalFacetMaxs sz
  | .facetMaxz sz _ => evalFacetMaxz sz
  | .abs sz _ => evalAbs sz
  | .mac sz _ => evalMac sz
  | .facetClz sz _ => evalFacetClz sz
  | .facetAnd _ => evalFacetAnd
  | .facetOr _ => evalFacetOr
  | .facetXor _ => evalFacetXor
  | .facetAndn _ => evalFacetAndn
  | .facetShl sz _ => evalFacetShl sz
  | .facetShrz sz _ => evalFacetShrz sz
  | .facetShrs sz _ => evalFacetShrs sz
  | .cmpeq sz _ => evalCmpeq sz
  | .cmplts sz _ => evalCmplts sz
  | .cmpltz sz _ => evalCmpltz sz
  | .test sz _ => evalTest sz
  | .fadd fm _ => evalFadd fm
  | .fsub fm _ => evalFsub fm
  | .fmul fm _ => evalFmul fm
  | .ffma fm _ => evalFfma fm
  | .fmin fm _ => evalFmin fm
  | .fmax fm _ => evalFmax fm
  | .fneg fm _ => evalFneg fm
  | .fabs fm _ => evalFabs fm
  | .fcmpeq fm _ => evalFcmpeq fm
  | .fcmplt fm _ => evalFcmplt fm
  | .fcmple fm _ => evalFcmple fm
  | .frcp fm _ => evalFrcp fm
  | .frsq fm _ => evalFrsq fm
  | .fexp2 fm _ => evalFexp2 fm
  | .flog2 fm _ => evalFlog2 fm
  | .fscale fm _ => evalFscale fm
  | .cvtn nf _ => evalCvtn nf
  | .cvtw nf _ => evalCvtw nf
  | .cvtfi _ => evalCvtfi
  | .cvtif _ => evalCvtif
  | .shuf _ => evalShuf
  | .bcast _ => evalBcast
  | .extr _ => evalExtr
  | .lsumW _ => evalLsumW
  | .lsumF32 _ => evalLsumF32
  | .lmaxF32 _ => evalLmaxF32
  | .lds _ => evalLds
  | .sts _ => evalSts
  | .ldsw _ => evalLdsw
  | .stsw _ => evalStsw
  | .ldg _ => evalLdg
  | .ldgb _ => evalLdgb
  | .stg _ => evalStg
  | .stge _ => evalStge
  | .pref _ => evalPref
  | .atoms _ => evalAtoms
  | .atomg _ => evalAtomg
  | .cass _ => evalCass
  | .casg _ => evalCasg
  | .fence _ => evalFence
  | .acq _ => evalAcq
  | .rel _ => evalRel
  | .hstat _ => evalHstat
  | .htake _ => evalHtake
  | .hfree _ => evalHfree
  | .wptr _ => evalWptr
  | .wpwait _ => evalWpwait
  | .treq _ => evalTreq
  | .accrd _ => evalAccrd
  | .tempty _ => evalTempty
  | .lzres _ => evalLzres
  | .lzsend _ => evalLzsend
  | .lzstat _ => evalLzstat
  | .lzreset _ => evalLzreset
  | .trap _ => evalTrap
  | .brk _ => evalBrk
  | .rdcnt _ => evalRdcnt
  | .rdst _ => evalRdst
  | .setpv _ => evalSetpv
  | .getp _ => evalGetp
  | .beat _ => evalBeat
  | .layv _ => evalLayv
  | .seq _ => evalSeq
  | .settag _ => evalSettag
  | .dot4Tf8 _ => evalDot4Tf8
  | .sort4W _ => evalSort4W
  | _ => fun c => .ok c.s {}

/-- Whether a member of a chain may fire the chosen slot now: its handle condition holds (R49). -/
def State.memberMay (s : State) (lead v : FacetUnit) (slot : Nat) : Bool :=
  match v.instr slot with
  | none => false
  | some i => (s.fireOf lead v i slot).handleReady i

/-- The whole firing of a chain, once its last member has fired (R50). -/
def State.fireChain (s : State) (lead : FacetUnit) (slot : Nat) : State :=
  match lead.instr slot with
  | none => s
  | some i => fireAll i (facetEval i) slot false (s.chainOf lead) s

/-- The member `v` of a chain whose turn has come fires: the last one's firing commits the chain's. -/
def State.memberFires (s : State) (v : FacetUnit) : Option State :=
  match s.facet? v.inst v.node v.clone 0 with
  | none => none
  | some u =>
    match u.chainFire with
    | none => none
    | some (slot, n) =>
      if u.chain ≤ 1 || !s.running u.inst || v.pos != min n (u.chain - 1) || !s.memberMay u v slot then none
      else if n + 1 < u.chain then
        some ((s.modFacet u.inst u.node u.clone 0 fun x => { x with chainFire := some (slot, n + 1) }).modFacet v.inst v.node v.clone v.pos
          fun x => { x with firedAt := some s.clk })
      else some (s.fireChain u slot)

/-- What a facet does outside its turn is its one firing of the clk (R19), in the order of the ranks (R121). -/
def State.actsOnce (s : State) (r rank : Nat) (f : FacetUnit → Option State) : State :=
  if !s.mayAct r rank then s
  else match (s.facetsAt r rank).findSome? f with
    | some s' => s'.didAct r rank
    | none => s

/-- CHAIN_MEMBER_FIRING (R49, R50): the next member fires, or waits on its handle condition and holds those after it;
the last member's firing commits the chain's. -/
def execChainMemberFiring (r rank : Nat) (s : State) : Out := .next (s.actsOnce r rank s.memberFires)

/-- A held firing resumed after a BREAK (R194, R375): a BRK completes as a NOP with its predicate update; a slot whose
debug-trap bit raised it fires in full. -/
def State.resumeBreak (s : State) (u : FacetUnit) (slot : Nat) : State :=
  match u.instr slot with
  | none => s
  | some i =>
    match i with
    | .brk _ => fireAll i evalNop slot false (s.chainOf u) s
    | _ => s.modFacet u.inst u.node u.clone u.pos fun v => { v with passBreak := true }

/-- BREAK_RESUME (R194, R375). -/
def execBreakResume (r rank : Nat) (s : State) : Out :=
  .next (s.actsOnce r rank fun u =>
    match u.brk with
    | some slot => if u.pos == 0 && s.running u.inst && !u.passBreak && u.chainFire.isNone then some (s.resumeBreak u slot) else none
    | none => none)

/-- TABLE_WALK (R93): a walk in progress at a die's translation unit ends, the one that stands first; the first that waits takes its
place. -/
def execTableWalk (die : Nat) (s : State) : Out :=
  .next (match (s.walksAt die).head? with
  | none => s
  | some w => { s with walksWaiting := s.walksWaiting.erase w }.doWalk w)

/-- TRACKED_ENTRY_EXPIRE (R120): 256 clk after its access completed. -/
def execTrackedEntryExpire (r : Nat) (s : State) : Out :=
  .next { s with tracked := s.tracked.eraseP fun p => p.1 == r && !s.isTracked p.2 }

end Sys2Proof.Machine
end

