-- ==== Sys2Proof/Machine/Image.lean ====
section
/-!
DEFINITION. Graph images: how they are read, and the checks of R155 in their order (R48, R53 to R55, R57, R148 to
R154, R249, R250, R280, R291, R352, R386).
-/
namespace Sys2Proof.Machine

/-! ### Reading an image -/

/-- How the loader reads bytes of the context's memory. -/
abbrev Reader := State → Nat → Nat → Acc (List Byte)

/-- A conductor's loader reads as an engine of its region, poison being a fault (R285). -/
def readerOf (x : Actor) : Reader := fun s va n =>
  match s.gather x 0 (n / 16 + 2) va n with
  | .all s bs => if bs.any Prod.snd then .bad .poison (some (BitVec.ofNat 64 va)) else .ok s (bs.map Prod.fst)
  | .stopped _ _ c a => .bad c (some a)
  | .ask s => .ask s

/-- The runtime's loader, for a packet: its walks are part of the access. -/
def runtimeReader (x : Actor) : Reader := fun s va n =>
  (List.range ((va + n + 127) / 128 - va / 128)).foldl (fun (acc : Acc (List Byte)) k =>
    acc.bind fun s bs =>
      let a := max va ((va / 128 + k) * 128)
      let m := min (va + n) ((va / 128 + k + 1) * 128) - a
      (s.loadClean x a m).bind fun s b => .ok s (bs ++ b)) (.ok s [])

/-- Whether a virtual address of a context lies in the device's own HBM, the only memory that it caches (R84). -/
def State.ownMemory (s : State) (ctx : BitVec 12) (va : Nat) : Bool :=
  match (s.walk ctx va).bind fun l => s.place (pteAddr l.entry + va % l.size) with
  | some (.hbm _) => true
  | _ => false

/-- Bytes of a node block: a line that the configuration caches hold is not read again (R244). -/
def State.readCfg (s : State) (rd : Reader) (ctx : BitVec 12) (va n : Nat) : Acc (List Byte) :=
  let lo := va / 128 * 128
  let m := (va + n + 127) / 128 * 128 - lo
  (rd s lo m).bind fun s bs =>
    let lines := (List.range (m / 128)).map fun k =>
      let a := lo + 128 * k
      match s.cfgCache.find? fun t => t.ctx == ctx && t.va == a with
      | some t => t
      | none => { ctx := ctx, va := a, bytes := (bs.drop (128 * k)).take 128 }
    let keep := s.cfgCache.filter fun t => !lines.contains t
    .ok { s with cfgCache := keep ++ lines.filter fun t => s.ownMemory ctx t.va } (((lines.flatMap TextLine.bytes).drop (va - lo)).take n)

/-- An image as its bytes; what stands behind a header or a node table that is refused is not read. -/
structure Raw where
  base : Nat
  header : List Byte
  levels : List Byte := []
  nodes : List Byte := []
  arcs : List Byte := []
  code : List Byte := []
  table : List Byte := []
  handles : List Byte := []
  route : List Byte := []
  blocks : List (List Byte) := []

/-- The fields of the header (R149). -/
def Raw.size (x : Raw) : Nat := fieldAt x.header 0x08 4
def Raw.nnodes (x : Raw) : Nat := fieldAt x.header 0x0C 2
def Raw.nlevels (x : Raw) : Nat := fieldAt x.header 0x0E 2
def Raw.narcs (x : Raw) : Nat := fieldAt x.header 0x10 4
def Raw.nodeOff (x : Raw) : Nat := fieldAt x.header 0x14 4
def Raw.arcOff (x : Raw) : Nat := fieldAt x.header 0x18 4
def Raw.levOff (x : Raw) : Nat := fieldAt x.header 0x1C 4
def Raw.codeOff (x : Raw) : Nat := fieldAt x.header 0x20 4
def Raw.codeSize (x : Raw) : Nat := fieldAt x.header 0x24 4
def Raw.entry (x : Raw) : Nat := fieldAt x.header 0x28 4
def Raw.dataOff (x : Raw) : Nat := fieldAt x.header 0x2C 4
def Raw.dataSize (x : Raw) : Nat := fieldAt x.header 0x30 4
def Raw.spillSize (x : Raw) : Nat := fieldAt x.header 0x34 4
def Raw.enc (x : Raw) : Bool := fieldAt x.header 0x38 4 % 2 == 1
def Raw.nhandles (x : Raw) : Nat := fieldAt x.table 0 2

/-- Whether bytes are all zero. -/
def allZero (bs : List Byte) : Bool := bs.all fun b => b == 0

/-- Whether spans lie within `size` and none overlaps another (R149). -/
def spansOk (size : Nat) : List (Nat × Nat) → Bool
  | [] => true
  | x :: xs =>
    x.1 + x.2 ≤ size && (xs.all fun y => x.2 == 0 || y.2 == 0 || x.1 + x.2 ≤ y.1 || y.1 + y.2 ≤ x.1) && spansOk size xs

/-- The sections that a header names. -/
def Raw.spans (x : Raw) : List (Nat × Nat) :=
  [(0, 0x80), (x.levOff, 4 * x.nlevels), (x.nodeOff, 16 * x.nnodes), (x.arcOff, 8 * x.narcs), (x.codeOff, x.codeSize),
    (x.dataOff, x.dataSize)]

/-- Check 1: the header (R149, R386); `keyed` says whether the context has a slot key. -/
def Raw.headerOk (x : Raw) (keyed : Bool) : Bool :=
  let h := x.header
  x.base % 4096 == 0 && fieldAt h 0 4 == 0x49475243 && fieldAt h 4 2 == 1 && fieldAt h 0x38 4 ≤ 1 &&
  fieldAt h 0x3C 4 == 0 && allZero ((h.drop 0x60).take 32) &&
  1 ≤ x.nnodes && x.nnodes ≤ 4096 && 1 ≤ x.nlevels && x.nlevels ≤ 4096 && x.narcs ≤ 16384 &&
  x.codeSize % 4 == 0 && x.spillSize % 65536 == 0 && x.entry % 4 == 0 &&
  (if x.codeSize = 0 then x.entry == 0 else x.entry < x.codeSize) &&
  ([x.nodeOff, x.arcOff, x.levOff, x.codeOff, x.dataOff].all fun o => o % 16 == 0) && spansOk x.size x.spans &&
  (!x.enc || (keyed && x.codeSize % 128 == 0))

/-- Check 2: generation and stepping (R149). -/
def Raw.stepOk (x : Raw) (st : Stepping) : Bool :=
  let gen := fieldAt x.header 6 1
  let step := fieldAt x.header 7 1
  (gen == 1 || gen == 2) && (step == 0xFF || step == steppingCode st)

/-- Level entry `k` (R150). -/
def Raw.level (x : Raw) (k : Nat) : Nat := fieldAt x.levels (4 * k) 4

/-- Whether a level entry keeps R150. -/
def Raw.levelOk (x : Raw) (k : Nat) : Bool :=
  let e := x.level k
  let depth := e / 4096 % 8
  let parent := e % 4096
  e / 2 ^ 15 == 0 && depth ≤ 4 && parent < x.nlevels &&
  if k = 0 then e == 0 else depth == x.level parent / 4096 % 8 + 1

/-- A field of node entry `k` (R151). -/
def Raw.nodeField (x : Raw) (k o n : Nat) : Nat := fieldAt x.nodes (16 * k + o) n

/-- Where node `k`'s block stands, and its size. -/
def Raw.span (x : Raw) (k : Nat) : Nat × Nat := (x.nodeField k 0 4, x.nodeField k 4 4)

/-- Whether a node entry keeps R151. -/
def Raw.nodeOk (x : Raw) (k : Nat) : Bool :=
  let kind := x.nodeField k 8 1
  let size := (x.span k).2
  kind ≤ 3 && x.nodeField k 9 1 == 0 && x.nodeField k 0x0E 2 == 0 && x.nodeField k 0x0A 2 < x.nlevels &&
  (x.span k).1 % 16 == 0 &&
  match kind with
  | 0 => 0x200 ≤ size && size ≤ 0x200 + 32 * 48
  | 1 => size == 0x80
  | _ => size == 0x40

/-- Whether the block of node `k` lies apart from every section and from the blocks before it: a node block counts as a section, and no
two entries share one (R149; DESIGN CHOICE, log entry 89). -/
def Raw.blockOk (x : Raw) (k : Nat) : Bool :=
  let b := x.span k
  let apart := fun (y : Nat × Nat) => y.2 == 0 || b.1 + b.2 ≤ y.1 || y.1 + y.2 ≤ b.1
  b.1 + b.2 ≤ x.size && x.spans.all apart && (List.range k).all fun j => apart (x.span j)

/-- Whether the level table and the node table may stand. -/
def Raw.tablesOk (x : Raw) : Bool :=
  ((List.range x.nlevels).all x.levelOk) && (List.range x.nnodes).all fun k => x.nodeOk k && x.blockOk k

/-- Whether an arc of the arc table is spillable (R54): where none is, SPILLSIZE is 0 (R149). -/
def Raw.spills (x : Raw) : Bool :=
  (List.range (x.arcs.length / 8)).any fun k => (BitVec.ofNat 64 (fieldAt x.arcs (8 * k) 8)).getLsbD 33

/-- Whether the handle table's header keeps R280. -/
def Raw.tableOk (x : Raw) : Bool :=
  x.dataSize == 0 ||
    (x.dataSize ≥ 16 && x.nhandles ≤ 256 && allZero (x.table.drop 2) && 16 + 32 * x.nhandles ≤ x.dataSize)

/-- Node blocks read in order. -/
def readBlocks (rd : Reader) (ctx : BitVec 12) (base : Nat) : List (Nat × Nat) → State → List (List Byte) →
    Acc (List (List Byte))
  | [], s, acc => .ok s acc.reverse
  | x :: xs, s, acc => (s.readCfg rd ctx (base + x.1) x.2).bind fun s bs => readBlocks rd ctx base xs s (bs :: acc)

/-- The bytes of an image that the loader reads. -/
def State.readImage (s : State) (rd : Reader) (ctx : BitVec 12) (keyed : Bool) (base : Nat) : Acc Raw :=
  (rd s base 128).bind fun s h =>
  let x : Raw := { base := base, header := h }
  if !(x.headerOk keyed && x.stepOk s.stepping) then .ok s x
  else
    (rd s (base + x.levOff) (4 * x.nlevels)).bind fun s lv =>
    (rd s (base + x.nodeOff) (16 * x.nnodes)).bind fun s nd =>
    (rd s (base + x.arcOff) (8 * x.narcs)).bind fun s ar =>
    (rd s (base + x.codeOff) x.codeSize).bind fun s cd =>
    (rd s (base + x.dataOff) (if x.dataSize ≥ 16 then 16 else 0)).bind fun s tb =>
    let x := { x with levels := lv, nodes := nd, arcs := ar, code := cd, table := tb }
    if !x.tablesOk || !x.tableOk then .ok s x
    else
      let ro := 16 + 32 * x.nhandles
      (rd s (base + x.dataOff + 16) (32 * x.nhandles)).bind fun s hs =>
      (rd s (base + x.dataOff + ro) (if ro + 144 ≤ x.dataSize then 4 else 0)).bind fun s rt =>
      (readBlocks rd ctx base ((List.range x.nnodes).map x.span) s []).bind fun s bs =>
      .ok s { x with handles := hs, route := rt, blocks := bs }

/-! ### The image that bytes stand for -/

/-- The key of a context's slot, if it names a filled one (R385). -/
def State.slotKey (s : State) (ctx : BitVec 12) : Option (BitVec 512) :=
  (s.context? ctx).bind fun c =>
    if c.key.getLsbD 31 then (s.keys.find? fun k => k.slot == c.key.toNat % 256).map KeySlot.key else none

/-- A data unit decrypted, block by block (R386). -/
def unitPlain (key : BitVec 512) (off : Nat) (bs : List Byte) : List Byte :=
  (List.range 8).flatMap fun j => Config.xts key off j ((bs.drop (16 * j)).take 16)

/-- A node block with its SLOTS field decrypted (R386). -/
def decrypted (key : Option (BitVec 512)) (off : Nat) (bs : List Byte) : List Byte :=
  match key with
  | some k => unitPlain k off (bs.take 128) ++ bs.drop 128
  | none => bs

/-- A code section decrypted unit by unit (R386). -/
def decryptedCode (key : Option (BitVec 512)) (off : Nat) (bs : List Byte) : List Byte :=
  match key with
  | some k => (List.range (bs.length / 128)).flatMap fun n =>
      unitPlain k (off + 128 * n) ((bs.drop (128 * n)).take 128)
  | none => bs

/-- Entries of `n` bytes. -/
def entriesOf (n : Nat) (bs : List Byte) : List (List Byte) :=
  (List.range (bs.length / n)).map fun k => (bs.drop (n * k)).take n

/-- The image. -/
def Raw.image (x : Raw) (key : Option (BitVec 512)) : Image :=
  let key := if x.enc then key else none
  { base := BitVec.ofNat 64 x.base
    nodes := (List.range x.nnodes).map fun k =>
      { kind := x.nodeField k 8 1, sub := x.nodeField k 0x0A 2, hint := x.nodeField k 0x0C 2
        bytes := if x.nodeField k 8 1 = 0 then decrypted key (x.span k).1 (x.blocks.getD k []) else x.blocks.getD k [] }
    arcs := (entriesOf 8 x.arcs).map fun bs => BitVec.ofNat 64 (Word.ofBytes bs)
    levels := (entriesOf 4 x.levels).map fun bs => BitVec.ofNat 32 (Word.ofBytes bs)
    handles := entriesOf 32 x.handles
    codeOff := x.codeOff, codeSize := x.codeSize, entry := x.entry, spillSize := x.spillSize
    routeVa := if Word.ofBytes x.route = 0x4C425452 then
        some (BitVec.ofNat 64 (x.base + x.dataOff + 16 + 32 * x.nhandles)) else none
    digest := BitVec.ofNat 256 (fieldAt x.header 0x40 32), enc := x.enc }

/-! ### Node blocks (R152, R153, R250, R291) -/

/-- A field of a node block. -/
def NodeBlk.field (n : NodeBlk) (o k : Nat) : Nat := fieldAt n.bytes o k

/-- The slot words of a facet node block. -/
def NodeBlk.slot (n : NodeBlk) (k : Nat) : BitVec 64 := BitVec.ofNat 64 (n.field (8 * k) 8)

/-- The chain length (R152). -/
def NodeBlk.chain (n : NodeBlk) : Nat := n.field 0x198 1 / 8 % 16 + 1

/-- Declared inputs and outputs (R152). -/
def NodeBlk.indecl (n : NodeBlk) : BitVec 8 := BitVec.ofNat 8 (n.field 0x195 1)
def NodeBlk.outdecl (n : NodeBlk) : BitVec 8 := BitVec.ofNat 8 (n.field 0x196 1)

/-- The initial token records (R153). -/
def NodeBlk.records (n : NodeBlk) : List (List Byte) :=
  (List.range (n.field 0x19E 2)).map fun k => (n.bytes.drop (0x200 + 32 * k)).take 32

/-- The place and the side band of a record. -/
def recPlace (r : List Byte) : Nat := fieldAt r 0x18 1
def recSide (r : List Byte) : Nat := fieldAt r 0x10 8

/-- Whether an initial token record keeps R153. -/
def recordOk (r : List Byte) : Bool :=
  let side := recSide r
  side % 4 ≤ 1 && side / 16 % 2 ^ 12 == 0 && recPlace r ≤ 11 && allZero (r.drop 0x19) &&
  (recPlace r < 8 || fieldAt r 0 16 ≤ 1)

/-- Whether a facet node block keeps R152 and R153, its slots apart. The merge kind in MISC is held against no slot, and no
instruction reads it: whether a merge is ordered goes by the opcode, MERGE or MERGEU (DEDUCED, log entry 72). -/
def NodeBlk.facetOk (n : NodeBlk) : Bool :=
  let cls := n.field 0x199 1
  n.field 0x19E 2 ≤ 48 && n.bytes.length == 0x200 + 32 * n.field 0x19E 2 && allZero ((n.bytes.drop 0x1A0).take 96) &&
  n.indecl.toNat < 64 && n.outdecl.toNat < 64 && ((List.range 4).all fun k => n.field 0x197 1 / 4 ^ k % 4 != 3) &&
  n.field 0x198 1 < 128 && cls < 128 && cls / 4 % 16 ≤ 7 && (cls % 4 == 1 || n.field 0x19A 2 == 0) &&
  n.field 0x19C 1 < 4 && n.records.all recordOk &&
  (List.range 12).all fun p => (n.records.filter fun r => recPlace r == p).length ≤ 4 * n.chain

/-- The descriptor words and precision register of tile `t` in an island block (R250). -/
def NodeBlk.desc (n : NodeBlk) (t w : Nat) : Word64 := BitVec.ofNat 64 (n.field (0x28 * t + 8 * w) 8)
def NodeBlk.preg (n : NodeBlk) (t : Nat) : Word64 := BitVec.ofNat 64 (n.field (0x50 + 8 * t) 8)
def NodeBlk.settle (n : NodeBlk) : Nat := n.field 0x60 2

/-- Whether an island node block keeps R250 to R256. -/
def NodeBlk.islandOk (n : NodeBlk) (nlevels : Nat) : Bool :=
  let word := fun t w => n.desc t w &&& ~~~(wordMask w) == 0 && !wordRefused w (n.desc t w)
  ((List.range 5).all (word 0)) && ((List.range 5).all (word 1)) && n.desc 1 2 == 0 &&
  !pregRefused (n.preg 0) && !pregRefused (n.preg 1) &&
  n.settle / 4096 % 8 == 0 && n.settle % 4096 < nlevels && allZero (n.bytes.drop 0x62)

/-- Whether a streamer or chord engine block keeps R291. -/
def NodeBlk.engineOk (n : NodeBlk) : Bool :=
  let u := n.field 0 1
  (u == 0xFF || u < if n.kind = 2 then 2 else 64) && allZero (n.bytes.drop 1)

/-- Whether a slot's opcode is an instruction of the stepping (R145, R148). -/
def opcodeOk (st : Stepping) (w : BitVec 64) : Bool :=
  let op := Word.field w 42 35
  (op < 0xE0 || st == .B1) && match Decode.facet w with
    | .ok _ => true
    | .error .field => true
    | .error _ => false

/-! ### Channels and arcs (R34, R53, R154) -/

/-- The channels that an instruction names, as masks of INDECL and OUTDECL: bits 3:0 data, 5:4 control. -/
def namedIns (i : Instr) : List Nat :=
  let w := i.word
  (i.sources.filterMap fun o => o.channel.map fun c => c.1.val) ++ (if w.tgEn then [w.tgCh.val] else []) ++
  (if (steerWord i).isSome || (mergeuWord i).isSome then [4 + w.c.code] else [])

/-- The outputs that an instruction names; a STEER names its partner too (R173), SEQ and SETTAG theirs (R199). -/
def namedOuts (i : Instr) : List Nat :=
  let w := i.word
  (match w.d with
    | .out o => [o.val]
    | _ => []) ++
  match i with
  | .steer w => [partner (outNum w.d)]
  | .steerx w => [partner (outNum w.d)]
  | .ctl w => [4 + w.c.code]
  | .seq w => [w.a.code - 48]
  | .settag w => [w.a.code - 48]
  | _ => []

/-- The instruction of slot `k` of a block. -/
def NodeBlk.instr (n : NodeBlk) (k : Nat) : Option Instr :=
  match Decode.facet (n.slot k) with
  | .ok i => some i
  | .error _ => none

/-- An arc word as an arc. -/
def asArc (w : Word64) : ArcSt := { inst := 0, idx := 0, word := w }

/-- The consumer ends that are arrival targets: conductor or not, node or port, channel (R280). -/
def Image.arrivals (im : Image) : List (Bool × Nat × Nat) :=
  im.handles.filterMap fun e =>
    match fieldAt e 0x0E 1 with
    | 1 => some (true, fieldAt e 0x10 2, 0)
    | 2 => some (false, fieldAt e 0x10 2, fieldAt e 0x0F 1)
    | _ => none

/-- The consumer ends of the arc table. -/
def Image.consumers (im : Image) : List (Bool × Nat × Nat) :=
  im.arcs.map fun w => ((asArc w).cc, (asArc w).cnode, (asArc w).cport)

/-- The producer ends of the arc table. -/
def Image.producers (im : Image) : List (Bool × Nat × Nat) :=
  im.arcs.map fun w => ((asArc w).pc, (asArc w).pnode, (asArc w).pport)

/-- The kind of a node of the image. -/
def Image.kindOf (im : Image) (n : Nat) : Option Nat := (im.nodes[n]?).map NodeBlk.kind

/-- Whether an end is a data end or a control end; `none` where no such port exists (R154, R249, R291). -/
def Image.portKind (im : Image) (cond : Bool) (node port : Nat) (producer : Bool) : Option Bool :=
  if cond then some false
  else
    match im.kindOf node with
    | some 0 => if port < 4 then some false else if port < 6 then some true else none
    | some 1 => if port < (if producer then 5 else 3) then some false else none
    | some _ => if port = 0 then some false else none
    | none => none

/-- Whether an arc must be marked versioned (R53). -/
def Image.mustVersion (im : Image) (a : ArcSt) : Bool :=
  !a.pc && match im.nodes[a.pnode]? with
    | some n => match n.kind with
      | 0 => (List.range 16).any fun k => (n.slot k).getLsbD 3
      | 1 => a.pport < 4
      | _ => false
    | none => false

/-- How many of a list equal `x`. -/
def countOf {α : Type} [BEq α] (l : List α) (x : α) : Nat := (l.filter fun y => y == x).length

/-- Whether arc `k` keeps R34, R53 and R154. -/
def Image.arcOk (im : Image) (w : Word64) : Bool :=
  let a := asArc w
  let p := im.portKind a.pc a.pnode a.pport true
  let c := im.portKind a.cc a.cnode a.cport false
  Word.field w 63 53 == 0 && p.isSome && p == c && a.vs == im.mustVersion a &&
  countOf (im.consumers ++ im.arrivals) (a.cc, a.cnode, a.cport) == 1 &&
  countOf im.producers (a.pc, a.pnode, a.pport) ≤ 4

/-- Whether an arc between nodes holds an initial token, at its input place or at its output place (R57). -/
def Image.initial (im : Image) (a : ArcSt) : Bool :=
  let at_ := fun (n p : Nat) => match im.nodes[n]? with
    | some b => b.kind == 0 && b.records.any fun r => recPlace r == p
    | none => false
  at_ a.cnode (if a.cport < 4 then a.cport else a.cport + 4) || at_ a.pnode (if a.pport < 4 then a.pport + 4 else a.pport + 6)

/-- The nodes left after those with no arc from a node left are taken away, `fuel` times. -/
def peel (edges : List (Nat × Nat)) : Nat → List Nat → List Nat
  | 0, ns => ns
  | k + 1, ns =>
    let ms := ns.filter fun n => edges.any fun e => e.2 == n && ns.contains e.1
    if ms.length = ns.length then ns else peel edges k ms

/-- Whether every cycle holds an initial token (R57). -/
def Image.cyclesOk (im : Image) : Bool :=
  let edges := ((im.arcs.map asArc).filter fun a => !a.pc && !a.cc && !im.initial a).map fun a => (a.pnode, a.cnode)
  (peel edges im.nodes.length (List.range im.nodes.length)).isEmpty

/-- The versioned input channel, in mode REFIRE or FIRST, that a node's class refuses (R53). -/
def Image.stateClass (im : Image) (k : Nat) : Option Nat :=
  match im.nodes[k]? with
  | none => none
  | some n =>
    if n.kind ≠ 0 ∨ n.field 0x199 1 % 4 = 0 then none
    else (List.range 4).find? fun c =>
      n.field 0x197 1 / 4 ^ c % 4 < 2 && im.arcs.any fun w =>
        let a := asArc w
        !a.cc && a.cnode == k && a.cport == c && a.vs

/-! ### Handles (R280) -/

/-- Whether a handle entry keeps R280. -/
def Image.handleOk (im : Image) (e : List Byte) : Bool :=
  let slots := fieldAt e 1 1 % 16 + 1
  let bytes := fieldAt e 8 4
  let arr := fieldAt e 0x0E 1
  let tgt := fieldAt e 0x10 2
  fieldAt e 1 1 < 32 && fieldAt e 2 1 < 64 && fieldAt e 3 1 < 14 && fieldAt e 4 4 % 16 == 0 && fieldAt e 4 4 < 2 ^ 18 &&
  bytes % 16 == 0 && 16 ≤ bytes && bytes ≤ 262144 && fieldAt e 4 4 + slots * ((bytes + 127) / 128 * 128) ≤ 262144 &&
  arr ≤ 2 && (if arr = 2 then fieldAt e 0x0F 1 < 4 else fieldAt e 0x0F 1 == 0) &&
  (arr != 1 || tgt ≤ 4095) && (arr != 2 || im.kindOf tgt == some 0) && fieldAt e 0x12 2 < 4096 &&
  allZero (e.drop 0x14)

/-- Whether two entries give one handle number to one region. -/
def handleClash (x y : List Byte) : Bool :=
  let p := fieldAt x 0x0C 2
  let q := fieldAt y 0x0C 2
  fieldAt x 0 1 == fieldAt y 0 1 && (p == q || p == 0xFFFF || q == 0xFFFF)

/-- Whether the handle table keeps R280. -/
def Image.handlesOk (im : Image) : Bool :=
  im.handles.all im.handleOk &&
  (List.range im.handles.length).all fun j => (List.range j).all fun i =>
    !handleClash (im.handles.getD i []) (im.handles.getD j [])

/-! ### Placement (R15, R48, R280) -/

/-- The rank at a position of the snake path (R48). -/
def snakeRank (p : Nat) : Nat := p / 8 * 8 + if p / 8 % 2 = 0 then p % 8 else 7 - p % 8

/-- Where a node stands: its node, its region, and its leader's position on the snake path, its island, its streamer
or its chord engine. -/
structure Spotted where
  node : Nat
  region : Nat
  unit : Nat
  deriving DecidableEq, Repr, Inhabited

/-- The bytes of an L1 size (R152). -/
def l1Bytes (misc : Nat) : Nat :=
  match misc % 4 with
  | 0 => 0
  | 1 => 0x8000
  | 2 => 0x10000
  | _ => 0x20000

/-- Whether an L1 leaves the handle buffers of a rank free (R280). -/
def l1Fits (hs : List Handle) (region rank misc : Nat) : Bool :=
  hs.all fun h => h.region != region || h.rank != rank || h.offset + h.slots.length * h.sbytes + l1Bytes misc ≤ 0x40000

/-- Whether a unit of a region can take a node: its kind, region, rank or island, and MISC. -/
abbrev Room := Nat → Nat → Nat → Nat → Bool

/-- Units that have failed for good take no node (R365, R366); an L1 leaves the handle buffers free. -/
def State.room (s : State) (hs : List Handle) : Room := fun kind r unit misc =>
  let x := (s.store.repair.find? fun x => x.region == r).getD { region := r }
  match kind with
  | 0 => l1Fits hs r unit misc && !x.dead.contains unit
  | 1 => !x.deadIslands.contains unit
  | _ => true

/-- The positions of the snake path that a placed facet node holds. -/
def Image.heldBy (im : Image) (x : Spotted) : List (Nat × Nat) :=
  match im.nodes[x.node]? with
  | some n => if n.kind = 0 then (List.range n.chain).map fun k => (x.region, x.unit + k) else []
  | none => []

/-- The first place for a node in a region, the nodes before it placed as `done` says. -/
def Image.spot (im : Image) (ok : Room) (done : List Spotted) (k : Nat) (n : NodeBlk) (r : Nat) :
    Option Spotted :=
  match n.kind with
  | 0 =>
    let held := done.flatMap im.heldBy
    ((List.range (65 - n.chain)).find? fun p => (List.range n.chain).all fun j =>
      !held.contains (r, p + j) && ok 0 r (snakeRank (p + j)) (n.field 0x198 1)).map fun p => ⟨k, r, p⟩
  | 1 => ((List.range 4).find? fun i => ok 1 r i 0 && done.all fun y =>
      !(y.region == r && y.unit == i && im.kindOf y.node == some 1)).map fun i => ⟨k, r, i⟩
  | 2 => some ⟨k, r, if n.field 0 1 < 2 then n.field 0 1 else 0⟩
  | _ => some ⟨k, r, if n.field 0 1 < 64 then n.field 0 1 else 16 * dieOf r + r % 48 % 16⟩

/-- Each node at the first place that is free, its hinted region tried first (DESIGN CHOICE, log entry 10), or the first node
that finds none. -/
def Image.placeFrom (im : Image) (ok : Room) (regions : List Nat) : List (Nat × NodeBlk) → List Spotted →
    Except Nat (List Spotted)
  | [], done => .ok done
  | (k, n) :: rest, done =>
    let order := match regions[n.hint]? with
      | some r => r :: regions
      | none => regions
    match (if n.kind = 3 then regions.take 1 else order).findSome? (im.spot ok done k n) with
    | some x => im.placeFrom ok regions rest (done ++ [x])
    | none => .error k

/-- The placement of an image on the regions of an instance, or a node that finds no place. -/
def Image.place (im : Image) (ok : Room) (regions : List Nat) : Except Nat (List Spotted) :=
  im.placeFrom ok regions ((List.range im.nodes.length).zip im.nodes) []

/-! ### The checks (R155) -/

/-- A check that failed: its cause, and the node and slot it concerns. -/
structure Refused where
  cause : Cause
  node : Option (Nat × Nat) := none
  deriving DecidableEq, Repr, Inhabited

/-- Refused unless `ok`. -/
def need (ok : Bool) (c : Cause) : Option Refused := if ok then none else some { cause := c }

/-- Check 3: the level table, then the node table entry by entry, then the handle table (R150, R151, R280). -/
def Raw.tableCheck (x : Raw) (im : Image) : Option Refused :=
  (need ((List.range x.nlevels).all x.levelOk) .config).orElse fun _ =>
  (((List.range x.nnodes).find? fun k => !(x.nodeOk k && x.blockOk k)).map fun k => { cause := .config, node := some (k, 0) }).orElse fun _ =>
  need (x.tableOk && im.handlesOk) .config

/-- The placement within check 4 (R48). -/
def Image.placeCheck (im : Image) (ok : Room) (regions : List Nat) : Option Refused :=
  match im.place ok regions with
  | .ok _ => none
  | .error k => some { cause := .config, node := some (k, 0) }

/-- The first of a node's slots that breaks `ok`. -/
def Image.slotCheck (im : Image) (ok : BitVec 64 → Bool) (c : Cause) : Option Refused :=
  (List.range im.nodes.length).findSome? fun k =>
    match im.nodes[k]? with
    | some n =>
      if n.kind ≠ 0 then none
      else ((List.range 16).find? fun j => !ok (n.slot j)).map fun j => { cause := c, node := some (k, j) }
    | none => none

/-- Check 4: the node blocks and the opcodes of their slots. -/
def Image.blockCheck (im : Image) (st : Stepping) : Option Refused :=
  (List.range im.nodes.length).findSome? fun k =>
    match im.nodes[k]? with
    | none => none
    | some n =>
      let ok := match n.kind with
        | 0 => n.facetOk
        | 1 => n.islandOk im.levels.length
        | _ => n.engineOk
      if !ok then some { cause := .config, node := some (k, 0) }
      else if n.kind ≠ 0 then none
      else ((List.range 16).find? fun j => !opcodeOk st (n.slot j)).map fun j => { cause := .config, node := some (k, j) }

/-- Check 5: the fields of the slot words (R141). -/
def fieldsOk (w : BitVec 64) : Bool :=
  match Decode.facet w with
  | .error .field => false
  | _ => true

/-- Check 6: channels named are declared, and channels declared end arcs. -/
def Image.channelCheck (im : Image) : Option Refused :=
  (List.range im.nodes.length).findSome? fun k =>
    match im.nodes[k]? with
    | none => none
    | some n =>
      if n.kind ≠ 0 then none
      else
        let named := fun j => match n.instr j with
          | some i => ((namedIns i).all n.indecl.getLsbD) && (namedOuts i).all n.outdecl.getLsbD
          | none => true
        match (List.range 16).find? fun j => !named j with
        | some j => some { cause := .config, node := some (k, j) }
        | none =>
          let ends := im.consumers ++ im.arrivals
          let ok := ((List.range 6).all fun c => !n.indecl.getLsbD c || ends.contains (false, k, c)) &&
            (List.range 6).all fun c => !n.outdecl.getLsbD c || im.producers.contains (false, k, c)
          if ok then none else some { cause := .config, node := some (k, 0) }

/-- Check 7: the arcs, arrival targets and the islands' port A (R249) (DEDUCED, log entry 53): an island without an arc there is named. -/
def Image.arcCheck (im : Image) : Option Refused :=
  let lone := (List.range im.nodes.length).find? fun k =>
    im.kindOf k == some 1 && !im.consumers.contains (false, k, 0)
  let targets := im.arrivals.all fun x => countOf (im.consumers ++ im.arrivals) x == 1
  (need (im.arcs.all im.arcOk && targets) .config).orElse fun _ => lone.map fun k => { cause := .config, node := some (k, 0) }

/-- Check 9: state classes against versioned inputs (R53). -/
def Image.classCheck (im : Image) : Option Refused :=
  (List.range im.nodes.length).findSome? fun k => (im.stateClass k).map fun c => { cause := .stateClass, node := some (k, c) }

/-- Check 10: no experimental opcode in the code section (R148). -/
def codeOk (code : List Byte) : Bool :=
  (entriesOf 4 code).all fun bs => let op := Word.ofBytes bs / 2 ^ 26; op < 0x0C || 0x0F < op

/-- The pages of a spill area pinned (R55), with check 11: the area holds the rings, and each of its pages is mapped, writable
and resident. -/
def State.pinSpill (s : State) (ctx : BitVec 12) (im : Image) (spill : Word64) : Option (State × List HeldPage) :=
  let bytes := ((im.arcs.map asArc).filter ArcSt.sp).foldl (fun n a => n + 32 * a.spcap) 0
  if im.spillSize < bytes ∨ 2 ^ 56 < spill.toNat + im.spillSize then none
  else s.pinPages ctx false spill.toNat (im.spillSize / 65536)

/-- Every check of R155, in order, on the bytes that were read. -/
def State.refusedImage (s : State) (ctx : BitVec 12) (hs : Image → List Handle) (regions : List Nat) (x : Raw)
    (spill : Word64) : Option Refused :=
  let key := s.slotKey ctx
  let im := x.image key
  let code := decryptedCode (if x.enc then key else none) x.codeOff x.code
  (need (x.headerOk key.isSome && (x.spillSize == 0 || x.spills)) .config).orElse fun _ =>
  (need (x.stepOk s.stepping) .config).orElse fun _ =>
  (x.tableCheck im).orElse fun _ =>
  (im.blockCheck s.stepping).orElse fun _ =>
  (im.placeCheck (s.room (hs im)) regions).orElse fun _ =>
  (im.slotCheck fieldsOk .reservedField).orElse fun _ =>
  im.channelCheck.orElse fun _ =>
  im.arcCheck.orElse fun _ =>
  (need im.cyclesOk .config).orElse fun _ =>
  im.classCheck.orElse fun _ =>
  (need (codeOk code) .config).orElse fun _ =>
  need (s.pinSpill ctx im spill).isSome .config

end Sys2Proof.Machine
end

