-- ==== Sys2Proof/Machine/Loader.lean ====
section
/-!
DEFINITION. Loading a configuration (R33, R153, R167, R209, R233, R250, R281, R291, R400): the units of its nodes
with their initial tokens, its arcs and rings, the ports of the lead conductor; CFGLD and CFGGO (R232, R233).
-/
namespace Sys2Proof.Machine

/-! ### Handles of an image (R280, R281) -/

/-- Where the generation of a slot is kept while its handle is not configured. -/
def genKey (region handle slot : Nat) : Nat := region * 4096 + handle * 16 + slot

/-- A handle of a table entry in one region: every slot FREE, its generation as the slot last had it (R283). -/
def State.handleOf (s : State) (inst : Nat) (ctx : BitVec 12) (region : Nat) (e : List Byte) : Handle :=
  let n := fieldAt e 1 1 % 16 + 1
  { region := region, num := fieldAt e 0 1, inst := inst, ctx := ctx, rw := fieldAt e 1 1 / 16 % 2 == 1
    rank := fieldAt e 2 1, fmt := fieldAt e 3 1, offset := fieldAt e 4 4, bytes := fieldAt e 8 4
    arr := fieldAt e 0x0E 1, ach := fieldAt e 0x0F 1, atgt := fieldAt e 0x10 2, peer := BitVec.ofNat 12 (fieldAt e 0x12 2)
    slots := (List.range n).map fun k => { gen := lookup s.gens 0 (genKey region (fieldAt e 0 1) k) }
    recs := List.replicate n {}, was := [region] }

/-- The handles of an image on the regions of a placement. -/
def State.handlesOn (s : State) (inst : Nat) (ctx : BitVec 12) (regions : List Nat) (im : Image) : List Handle :=
  im.handles.flatMap fun e =>
    let p := fieldAt e 0x0C 2
    let on := if p = 0xFFFF then regions else (regions[p]?).toList
    on.map fun r => s.handleOf inst ctx r e

/-! ### Facets (R33, R152, R153, R167, R400) -/

/-- The initial tokens of place `p` at member `pos` of a chain of `n`, in record order. -/
def NodeBlk.initial (b : NodeBlk) (p pos n : Nat) : List Token :=
  let rs := b.records.filter fun r => recPlace r == p
  (((List.range rs.length).zip rs).filter fun x => x.1 % n == pos).map fun x =>
    { payload := BitVec.ofNat 128 (fieldAt x.2 0 16), side := BitVec.ofNat 64 (recSide x.2) }

/-- What a facet takes from its block at a load and at a switch alike (R234). -/
def FacetUnit.configure (u : FacetUnit) (b : NodeBlk) : FacetUnit :=
  { u with
    slots := (List.range 16).map b.slot, konst := BitVec.ofNat 128 (b.field 0x80 16), indecl := b.indecl
    outdecl := b.outdecl, vmode := BitVec.ofNat 8 (b.field 0x197 1), misc := BitVec.ofNat 8 (b.field 0x198 1)
    cls := BitVec.ofNat 8 (b.field 0x199 1), combmask := BitVec.ofNat 16 (b.field 0x19A 2)
    key := BitVec.ofNat 8 (b.field 0x19C 1), hbase := BitVec.ofNat 8 (b.field 0x19D 1)
    chreg := BitVec.ofNat 16 (b.field 0x192 2), l1 := [] }

/-- Member `pos` of a facet node as it loads. -/
def NodeBlk.facet (b : NodeBlk) (inst node region base pos : Nat) (mask : Nat → BitVec 4) : FacetUnit :=
  let toks := fun p => b.initial p pos b.chain
  let outs := fun p q => (toks p).map fun t => OutEntry.mk t (mask q)
  let u : FacetUnit :=
    { inst := inst, node := node, pos := pos, chain := b.chain, region := region, rank := snakeRank (base + pos)
      preds := BitVec.ofNat 8 (b.field 0x194 1), regs := (List.range 16).map fun k => BitVec.ofNat 128 (b.field (0x90 + 16 * k) 16)
      pres := BitVec.ofNat 16 (b.field 0x190 2), ins := (List.range 4).map toks
      outs := (List.range 4).map fun k => outs (4 + k) k, cins := [toks 8, toks 9], couts := [outs 10 4, outs 11 5] }
  u.configure b

/-! ### Islands and engines (R43, R250, R291) -/

/-- What an island takes from its block at a load and at a switch alike (R250, R277). -/
def IslandUnit.configure (u : IslandUnit) (b : NodeBlk) : IslandUnit :=
  { u with
    tiles := (List.range 2).map fun t =>
      { u.tile t with
        acfg := b.desc t 0, awin := b.desc t 1, route3 := b.desc t 3, route4 := b.desc t 4, preg := b.preg t }
    bcfg := b.desc 0 2, settle := BitVec.ofNat 16 b.settle, weights := none, reload := none }

/-- An island node as it loads. -/
def NodeBlk.island (b : NodeBlk) (inst node region isl : Nat) : IslandUnit :=
  IslandUnit.configure { inst := inst, node := node, region := region, isl := isl } b

/-- A streamer or chord engine node as it loads: with no arc into port 0 it has finished, and emits END. -/
def NodeBlk.engine (b : NodeBlk) (inst node region unit : Nat) (fed : Bool) (mask : BitVec 4) : EngineNode :=
  { inst := inst, node := node, isChord := b.kind == 3, region := region, unit := unit, finished := !fed
    outs := if !fed && mask != 0 then [⟨endToken, mask⟩] else [] }

/-! ### Arcs (R54, R154) -/

/-- The arcs of an image, their rings one after another in arc order. -/
def arcsOf (inst : Nat) : List Word64 → Nat → Nat → List ArcSt
  | [], _, _ => []
  | w :: ws, idx, base =>
    let a : ArcSt := { inst := inst, idx := idx, word := w, ringBase := base }
    a :: arcsOf inst ws (idx + 1) (base + if a.sp then 32 * a.spcap else 0)

/-! ### The ports of the lead conductor (R227) -/

/-- A list without its later repeats. -/
def distinct : List Nat → List Nat
  | [] => []
  | x :: xs => if xs.contains x then distinct xs else x :: distinct xs

/-- The consumer and producer ports of a configuration; tokens held at a consumer port stay there, at one that the configuration
lacks too (R233). -/
def Conductor.report (c : Conductor) (arcs : List ArcSt) (hs : List Handle) : Conductor :=
  let ins := distinct ((arcs.filter ArcSt.cc).map ArcSt.cnode ++ (hs.filter fun h => h.arr == 1).map Handle.atgt)
  let outs := distinct ((arcs.filter ArcSt.pc).map ArcSt.pnode)
  let had := c.cports ++ c.stray
  { c with
    cports := ins.map fun p => (had.find? fun q => q.port == p).getD { port := p }
    stray := had.filter fun q => !ins.contains q.port && !q.toks.isEmpty
    pports := outs.map fun p => { port := p, entries := ((c.pports.find? fun q => q.port == p).map PPort.entries).getD [] } }

/-! ### A configuration started (R33, R209, R233) -/

/-- `s` without the units, arcs, merges, splitters and ceases of an instance. -/
def State.unloaded (s : State) (inst : Nat) : State :=
  { s with
    facets := s.facets.filter fun u => u.inst != inst
    islands := s.islands.filter fun u => u.inst != inst
    engines := s.engines.filter fun e => e.inst != inst
    arcs := s.arcs.filter fun a => a.inst != inst
    merges := s.merges.filter fun m => m.inst != inst
    splitters := s.splitters.filter fun x => x.inst != inst
    ceases := s.ceases.filter fun c => c.inst != inst }

/-- One placed node loaded; the high-water marks of its facets begin again (R333). -/
def State.loadNode (s : State) (inst : Nat) (im : Image) (x : Spotted) : State :=
  match im.nodes[x.node]? with
  | none => s
  | some b =>
    match b.kind with
    | 0 =>
      let us := (List.range b.chain).map fun k =>
        b.facet inst x.node x.region x.unit k (s.fullMask inst false x.node)
      { s with
        facets := s.facets ++ us
        spadHigh := s.spadHigh.filter fun y => !us.any fun u => y.1 == u.region * 64 + u.rank }
    | 1 => { s with islands := s.islands ++ [b.island inst x.node x.region x.unit] }
    | _ => { s with engines := s.engines ++
        [b.engine inst x.node x.region x.unit (s.fedPort inst x.node 0) (s.fullMask inst false x.node 0)] }

/-- A later configuration of an instance: the code section, the handles and the route table stay the launched
image's (R209, R280, R352). -/
def Image.underLaunch (im launched : Image) : Image :=
  { im with
    base := launched.base, handles := launched.handles, codeOff := launched.codeOff, codeSize := launched.codeSize
    entry := launched.entry, routeVa := launched.routeVa, enc := launched.enc }

/-- The configuration of an image started on the regions of an instance; `none` where it finds no place. The count of SETTLED events and
what they wait for begin anew with each configuration (R275; DESIGN CHOICE, log entry 93). -/
def State.startImage (s : State) (inst : Nat) (im : Image) (spill : Word64) : Option State :=
  (s.inst? inst).bind fun i =>
    let hs := s.handles.filter fun h => h.inst == inst
    (im.place (s.room hs) i.regions).toOption.map fun spots =>
      let s := s.unloaded inst
      let s := { s with
        arcs := s.arcs ++ arcsOf inst im.arcs 0 0
        digests := if s.digests.contains (i.part, im.digest) then s.digests else s.digests ++ [(i.part, im.digest)] }
      let s := spots.foldl (fun s x => s.loadNode inst im x) s
      let s := match s.leadRegion inst with
        | some r => s.modCond r fun c => c.report (s.arcs.filter fun a => a.inst == inst) hs
        | none => s
      s.modInst inst fun i =>
        { i with
          image := im, active := true, spillBase := spill
          settledCount := [], settledNow := [], versSince := [], openVers := [] }

/-! ### CFGLD (R155, R232) -/

/-- `s` with the spill pages of an image pinned for an instance (R55). -/
def State.holdSpill (s : State) (inst : Nat) (ctx : BitVec 12) (im : Image) (spill : Word64) : State :=
  match s.pinSpill ctx im spill with
  | some (s, ps) => s.modInst inst fun i => { i with pinned := i.pinned ++ ps }
  | none => s

/-- FINFO of a refused image: the node as written and the slot (R155, R226). -/
def refusalInfo (ver : BitVec 32) (x : Nat × Nat) : Word64 := pack [(32, ver.toNat), (16, x.2), (0, x.1)]

/-- CFGLD (R232). -/
def execCfgld (d a b : Reg) (s : State) : Out :=
  conductor s fun r c => leadOnly c <|
    match s.instOf r with
    | none => trapWith .config
    | some i =>
      match (List.range 4).find? fun k => i.stages.getD k none == none with
      | none => .done (s.setX r d 0xFFFFFFFFFFFFFFFF)
      | some k =>
        let spill := c.get b
        let hs := s.handles.filter fun h => h.inst == i.id
        let key := s.slotKey i.ctx
        if spill.toNat % 65536 ≠ 0 then trapWith .reservedField
        else
          (s.readImage (readerOf (s.condActor r c)) i.ctx key.isSome (c.get a).toNat).cond fun s x =>
            let zero := x.headerOk key.isSome && (x.spillSize == 0) != (spill == 0)
            if zero then trapWith .reservedField
            else
              match s.refusedImage i.ctx (fun _ => hs) i.regions x spill with
              | some f => .trap { cause := f.cause, finfo := f.node.map (refusalInfo i.layver) }
              | none =>
                if x.codeSize ≠ 0 then trapWith .config
                else .done (((s.holdSpill i.id i.ctx (x.image key) spill).modInst i.id fun i =>
                  { i with stages := i.stages.set k (some (x.image key, spill)) }).setX r d (BitVec.ofNat 64 k))

/-! ### CFGGO (R233) -/

/-- Whether a token buffer holds a token that some consumer has not accepted. -/
def held (es : List OutEntry) : Bool := es.any fun e => e.mask != 0

/-- Whether a facet holds a token (R58, R233). -/
def FacetUnit.holds (u : FacetUnit) : Bool :=
  (u.ins.any fun l => !l.isEmpty) || (u.cins.any fun l => !l.isEmpty) || u.outs.any held || u.couts.any held ||
  (u.pres &&& u.chreg) != 0

/-- Whether an island holds a token. -/
def IslandUnit.holds (u : IslandUnit) : Bool := (u.ins.any fun l => !l.isEmpty) || u.outs.any held || u.setWait.isSome

/-- Whether an engine node holds a token. -/
def EngineNode.holds (e : EngineNode) : Bool := !e.ins.isEmpty || held e.outs || !e.done.isEmpty

/-- Whether any token of an instance's configuration is held (R233). -/
def State.holdsTokens (s : State) (inst : Nat) : Bool :=
  (s.facets.any fun u => u.inst == inst && u.holds) || (s.islands.any fun u => u.inst == inst && u.holds) ||
  (s.engines.any fun e => e.inst == inst && e.holds) || (s.arcs.any fun a => a.inst == inst && !a.ring.isEmpty) ||
  s.merges.any fun m => m.inst == inst && (!m.held.isEmpty || held m.outq)

/-- Whether every node of an instance has finished or halted (R42, R43, R179). -/
def State.nodesDone (s : State) (inst : Nat) : Bool :=
  (s.facets.all fun u => u.inst != inst || u.finished || u.halted) &&
  (s.islands.all fun u => u.inst != inst || u.finished) && s.engines.all fun e => e.inst != inst || e.finished

/-- Whether the current configuration is still active (R233). -/
def State.configActive (s : State) (inst : Nat) : Bool := !s.nodesDone inst || s.holdsTokens inst

/-- The stage that xa names (R233, R234). -/
def stageOf (i : Inst) (xa : Word64) (f : Nat → Image → Word64 → CondRes) : CondRes :=
  if xa.toNat > 3 then trapWith .reservedField
  else
    match i.stages.getD xa.toNat none with
    | none => trapWith .config
    | some (im, spill) => f xa.toNat im spill

/-- CFGGO (R233). Where the staged nodes no longer find a place, a unit having failed since, xd is 1 and the stage is kept (DESIGN
CHOICE, log entry 92). -/
def execCfggo (d a : Reg) (s : State) : Out :=
  conductor s fun r c => leadOnly c <|
    match s.instOf r with
    | none => trapWith .config
    | some i =>
      stageOf i (c.get a) fun k im spill =>
        if s.configActive i.id then .done (s.setX r d 1)
        else
          match (s.modInst i.id fun i => { i with stages := i.stages.set k none }).startImage i.id (im.underLaunch i.image) spill with
          | some s => .done (s.setX r d 0)
          | none => .done (s.setX r d 1)

end Sys2Proof.Machine
end

