-- ==== Sys2Proof/Machine/Layout.lean ====
section
/-!
DEFINITION. The layout controller (R236 to R239, R303 to R308, R310, R316, R317): what it measures, what it wants to
change, and the instructions that steer and read it.
-/
namespace Sys2Proof.Machine

/-! ### Nodes, locks and pins (R236) -/

/-- The subgraph of a node. -/
def Inst.sub (i : Inst) (n : Nat) : Nat := ((i.image.nodes[n]?).map NodeBlk.sub).getD 0

/-- Whether a node lies within a locked subgraph. -/
def Inst.locked (i : Inst) (n : Nat) : Bool := i.ctl.locks.any fun l => within i.image.levels l (i.sub n)

/-- Whether a node's block pins it (R152). -/
def NodeBlk.pinned (b : NodeBlk) : Bool := b.kind == 0 && b.field 0x199 1 / 64 % 2 == 1

/-- Whether a node is pinned. -/
def Inst.isPinned (i : Inst) (n : Nat) : Bool :=
  i.ctl.pins.contains n || (!i.ctl.unpins.contains n && ((i.image.nodes[n]?).map NodeBlk.pinned).getD false)

/-- How many clones a node has. -/
def State.cloneCount (s : State) (inst n : Nat) : Nat := max 1 (s.clonesOf inst n).length

/-- The nodes that a change touches first: its lowest node id (R316). -/
def Change.node : Change → Nat
  | .switch _ => 0
  | .clone n _ => n
  | .fold a b => min a b
  | .unfold a => a
  | .move n _ _ _ => n
  | .repair ns => ns.headD 0

/-- The affected set of a change (R312). -/
def Change.affected (im : Image) : Change → List Nat
  | .switch _ => List.range im.nodes.length
  | .clone n _ => [n]
  | .fold _ b => [b]
  | .unfold a => [a]
  | .move n _ _ _ => [n]
  | .repair ns => ns

/-! ### Steering (R236, R237) -/

/-- A REWIRE form whose xa names a node, or a level. -/
def rewire (d a : Reg) (s : State) (level : Bool) (f : State → Nat → Inst → Nat → CondRes) : Out :=
  conductor s fun r c =>
    let n := Word.field (c.get a) 11 0
    match s.instOf r with
    | none => trapWith .reservedField
    | some i =>
      if n ≥ (if level then i.image.levels.length else i.image.nodes.length) then trapWith .reservedField
      else f (s.setX r d (BitVec.ofNat 64 i.layver.toNat)) r i n

/-- A form that uses no xb: a nonzero field B is ILLEGAL (R143, R236). -/
def rewirePlain (d a b : Reg) (s : State) (level : Bool) (f : State → Nat → Inst → Nat → CondRes) : Out :=
  if b ≠ 0 then conductor s fun _ _ => trapWith .illegal else rewire d a s level f

/-- `s` with the layout controller of an instance changed by `f`. -/
def State.modCtl (s : State) (inst : Nat) (f : LayoutCtl → LayoutCtl) : State :=
  s.modInst inst fun i => { i with ctl := f i.ctl }

/-- REWIRE.HINT (R236) (DEDUCED, log entry 57). -/
def execRewireHint (d a b : Reg) (s : State) : Out :=
  rewire d a s false fun s' r i n =>
    let k := match s.cond? r with
      | some c => Word.field (c.get b) 3 0
      | none => 0
    if k ≥ 9 then trapWith .reservedField
    else .done (s'.modCtl i.id fun c =>
      { c with hints := if k = 0 then c.hints.filter fun p => p.1 != n else assign c.hints n k })

/-- REWIRE.LOCK (R236): 1 while a wavefront touching the subgraph is in flight. -/
def execRewireLock (d a b : Reg) (s : State) : Out :=
  rewirePlain d a b s true fun s' r i l =>
    let busy := match i.ctl.wave with
      | some w => w.affected.any fun n => within i.image.levels l (i.sub n)
      | none => false
    .done ((s'.modCtl i.id fun c =>
      { c with locks := if c.locks.contains l then c.locks else c.locks ++ [l] }).setX r d (BitVec.ofNat 64 busy.toNat))

/-- REWIRE.UNLOCK (R236). -/
def execRewireUnlock (d a b : Reg) (s : State) : Out :=
  rewirePlain d a b s true fun s' _ i l => .done (s'.modCtl i.id fun c => { c with locks := c.locks.filter fun x => x != l })

/-- REWIRE.PIN (R236). -/
def execRewirePin (d a b : Reg) (s : State) : Out :=
  rewirePlain d a b s false fun s' _ i n =>
    .done (s'.modCtl i.id fun c =>
      { c with pins := if c.pins.contains n then c.pins else c.pins ++ [n], unpins := c.unpins.filter fun x => x != n })

/-- REWIRE.UNPIN (R236): a PIN bit of the node block is cleared too. -/
def execRewireUnpin (d a b : Reg) (s : State) : Out :=
  rewirePlain d a b s false fun s' _ i n =>
    .done (s'.modCtl i.id fun c =>
      { c with unpins := if c.unpins.contains n then c.unpins else c.unpins ++ [n], pins := c.pins.filter fun x => x != n })

/-- LAYVER (R237). -/
def execLayver (d : Reg) (s : State) : Out :=
  conductor s fun r _ => .done (s.setX r d (match s.instOf r with
    | some i => BitVec.ofNat 64 i.layver.toNat
    | none => 1))

/-! ### Queries (R238, R239) -/

/-- The clone that xa names: node and clone index, or a refusal. -/
def cloneNamed (i : Inst) (xa : Word64) : Option (Nat × Nat) :=
  let n := Word.field xa 11 0
  if Word.field xa 63 15 ≠ 0 ∨ n ≥ i.image.nodes.length then none else some (n, Word.field xa 14 12)

/-- Where a clone is placed: region, unit, and whether it shares its facet. -/
def State.standsAt (s : State) (inst n c : Nat) : Option (Nat × Nat × Bool) :=
  match s.facet? inst n c 0 with
  | some u => some (u.region, u.rank, (s.facetsAt u.region u.rank).length > 1)
  | none =>
    if c ≠ 0 then none
    else
      match s.islands.find? fun x => x.inst == inst && x.node == n with
      | some x => some (x.region, x.isl, false)
      | none => (s.engine? inst n).map fun e => (if e.isChord then 0xFF else e.region, e.unit, false)

/-- Every clone's place. -/
def State.standing (s : State) (i : Inst) : List Stood :=
  (List.range i.image.nodes.length).flatMap fun n => (List.range 8).filterMap fun c =>
    (s.standsAt i.id n c).map fun x => ⟨n, c, x.1, x.2.1, x.2.2⟩

/-- Where a clone stands at the layout version in force: while a wavefront is in flight, where it stood as that began (R238). -/
def State.whereIs (s : State) (i : Inst) (n c : Nat) : Option (Nat × Nat × Bool) :=
  match i.ctl.wave with
  | some w => (w.stood.find? fun x => x.node == n && x.clone == c).map fun x => (x.region, x.unit, x.fold)
  | none => s.standsAt i.id n c

/-- The clones of a node at that version. -/
def State.clonesAt (s : State) (i : Inst) (n : Nat) : Nat :=
  match i.ctl.wave with
  | some w => max 1 (w.stood.filter fun x => x.node == n).length
  | none => s.cloneCount i.id n

/-- The report of LAYQ (R238). -/
def State.layq (s : State) (i : Inst) (n c : Nat) : Word64 :=
  let kind := (i.image.kindOf n).getD 0
  let base := [(32, i.layver.toNat), (16, kind), (13, s.clonesAt i n - 1)]
  match s.whereIs i n c with
  | some (r, u, fold) =>
    pack (base ++ [(24, r), (18, u), (12, (i.isPinned n).toNat), (11, (i.locked n).toNat), (10, fold.toNat), (0, 1)])
  | none => pack base

/-- LAYQ (R238). -/
def execLayq (d a : Reg) (s : State) : Out :=
  conductor s fun r c =>
    match s.instOf r with
    | none => trapWith .reservedField
    | some i =>
      match cloneNamed i (c.get a) with
      | none => trapWith .reservedField
      | some (n, k) => .done (s.setX r d (s.layq i n k))

/-- The counters of a clone in the last completed window (R303). -/
def State.countersOf (s : State) (inst n c : Nat) : Option Counters :=
  match s.facet? inst n c 0 with
  | some u => some u.last
  | none =>
    if c ≠ 0 then none
    else
      match s.islands.find? fun x => x.inst == inst && x.node == n with
      | some x => some x.last
      | none => (s.engine? inst n).map EngineNode.last

/-- The counter that a selector of R195 names. -/
def Counters.sel (x : Counters) (k : Nat) : Nat :=
  match k with
  | 0 => x.firings
  | 1 => x.full
  | 2 => x.blocked
  | k => if k < 7 then x.ins.getD (k - 3) 0 else x.outs.getD (k - 7) 0

/-- RATE (R239). -/
def execRate (d a b : Reg) (s : State) : Out :=
  conductor s fun r c =>
    let xb := c.get b
    match s.instOf r with
    | none => trapWith .reservedField
    | some i =>
      match cloneNamed i (c.get a) with
      | none => trapWith .reservedField
      | some (n, k) =>
        if xb.toNat ≥ 12 then trapWith .reservedField
        else
          .done (s.setX r d (match s.countersOf i.id n k with
            | some x =>
              if i.winDone = 0 then 0
              else if xb = 11 then BitVec.ofNat 64 (i.winIndex - 1).toNat else BitVec.ofNat 64 (x.sel xb.toNat)
            | none => 0))

/-! ### Measurement (R303, R304) -/

/-- Whether every declared input of a facet is full, or its arc's ring holds a token. -/
def State.inputsFull (s : State) (u : FacetUnit) : Bool :=
  !u.inputs.isEmpty && u.inputs.all fun k =>
    (u.ins.getD k []).length ≥ 4 || match s.arcInto u.inst false u.node k with
      | some a => !a.ring.isEmpty
      | none => false

/-- Whether some declared output has no free entry. -/
def FacetUnit.blocked (u : FacetUnit) : Bool :=
  (u.outputs.any fun o => !u.room o) || u.ctlOutputs.any fun k => (u.couts.getD k []).length ≥ 4

/-- A clk counted. -/
def Counters.clock (x : Counters) (full blocked : Bool) : Counters :=
  { x with full := x.full + full.toNat, blocked := x.blocked + blocked.toNat }

/-- The counted clk of every unit of a running instance (R303, R304). -/
def State.measure (s : State) : State :=
  let port := fun (inst node p : Nat) => match s.arcInto inst false node p with
    | some a => !a.ring.isEmpty
    | none => false
  { s with
    facets := s.facets.map fun (u : FacetUnit) =>
      if u.pos = 0 ∧ s.running u.inst then { u with live := u.live.clock (s.inputsFull u) u.blocked } else u
    islands := s.islands.map fun (u : IslandUnit) =>
      let ins := (List.range 3).filter (s.fedPort u.inst u.node)
      let outs := (List.range 5).filter (s.hasArc u.inst u.node)
      let full := !ins.isEmpty && ins.all fun p => (u.ins.getD p []).length ≥ 4 || port u.inst u.node p
      if s.running u.inst then { u with live := u.live.clock full (outs.any fun p => !u.room p) } else u
    engines := s.engines.map fun (e : EngineNode) =>
      let full := s.fedPort e.inst e.node 0 && (e.ins.length ≥ 4 || port e.inst e.node 0)
      if s.running e.inst then { e with live := e.live.clock full (!s.engineRoom e) } else e }

/-- The tokens that passed on the arcs of a node in the window. Only arcs of the arc table are counted: an input that a handle's arrival
target feeds reads 0 (R195; DESIGN CHOICE, log entry 95). -/
def State.arcCounts (s : State) (inst node : Nat) (x : Counters) : Counters :=
  let into := fun k => match s.arcInto inst false node k with
    | some a => a.live
    | none => 0
  let out := fun k => (s.arcsFrom inst false node k).foldl (fun n a => n + a.live) 0
  { x with ins := (List.range 4).map into, outs := (List.range 4).map out }

/-! ### Verdicts (R305, R310, R311) -/

/-- A count of consecutive windows, raised or ended. -/
def tally (l : List (Nat × Nat)) (n : Nat) (ok : Bool) : List (Nat × Nat) :=
  if ok then assign l n (lookup l 0 n + 1) else l.filter fun p => p.1 != n

/-- The verdict counts of node `n` after a window of `w` clocks. -/
def State.judge (s : State) (inst w : Nat) (c : LayoutCtl) (n : Nat) : LayoutCtl :=
  let us := s.facets.filter fun u => u.inst == inst && u.node == n && u.pos == 0
  let fresh := us.any FacetUnit.restart
  let ok := fun (p : FacetUnit → Bool) => !us.isEmpty && !fresh && us.all p
  { c with
    hot := tally c.hot n (ok fun u => 4 * u.last.full ≥ 3 * w && 4 * u.last.blocked ≤ w)
    cold := tally c.cold n (ok fun u => 5 * u.last.firings < w)
    warm := tally c.warm n (ok fun u => 2 * u.last.firings ≥ w) }

/-- WINDOW_BOUNDARY (R304, R224): the counters roll over, the verdicts are made, and new window settings apply. -/
def execWindowBoundary (inst : Nat) (s : State) : Out :=
  .next (match s.inst? inst with
  | none => s
  | some i =>
    let w := 2 ^ i.ratewin
    if !s.running inst || i.counted < i.winStart + w then s
    else
      let roll := fun (node : Nat) (x : Counters) => s.arcCounts inst node x
      let s := { s with
        facets := s.facets.map fun (u : FacetUnit) =>
          if u.inst = inst then { u with last := roll u.node u.live, live := {} } else u
        islands := s.islands.map fun (u : IslandUnit) =>
          if u.inst = inst then { u with last := roll u.node u.live, live := {} } else u
        engines := s.engines.map fun (e : EngineNode) =>
          if e.inst = inst then { e with last := roll e.node e.live, live := {} } else e
        arcs := s.arcs.map fun (a : ArcSt) => if a.inst = inst then { a with last := a.live, live := 0 } else a }
      let s := s.modInst inst fun i =>
        { i with
          ctl := (List.range i.image.nodes.length).foldl (s.judge inst w) i.ctl
          winStart := i.winStart + w, winIndex := i.winIndex + 1, winDone := i.winDone + 1
          ratewin := i.ratewinNext, clonewin := i.clonewinNext, foldwin := i.foldwinNext }
      { s with facets := s.facets.map fun (u : FacetUnit) => if u.inst = inst then { u with restart := false } else u })

/-! ### What may be cloned (R305, R308) -/

/-- Whether a slot takes part at all: an unused one never fires. -/
def FacetUnit.live_ (u : FacetUnit) : List Instr := u.program.filter fun i => !neverReady i

/-- Whether a facet is balanced (R305): every slot that pops any declared input pops every one, and none peeks. -/
def FacetUnit.balanced (u : FacetUnit) : Bool :=
  !u.inputs.isEmpty && u.live_.all fun i =>
    let cs := i.sources.filterMap Operand.channel
    let pops := (cs.filter Prod.snd).map fun c => c.1.val
    (cs.all Prod.snd) && (pops.isEmpty || u.inputs.all pops.contains)

/-- Whether a node may be cloned, pins and locks apart (R305). -/
def FacetUnit.eligible (u : FacetUnit) : Bool := u.cls.toNat % 4 != 3 && u.balanced && u.chain == 1 && !u.steers

/-- The largest of 1, 2, 4 and 8 that is at most `n`. -/
def floorPower (n : Nat) : Nat := if n ≥ 8 then 8 else if n ≥ 4 then 4 else if n ≥ 2 then 2 else 1

/-- The ranks of a region that can take a facet with this MISC. -/
def State.freeRanks (s : State) (inst r misc : Nat) : List Nat :=
  let hs := s.handles.filter fun h => h.inst == inst
  (List.range 64).filter fun k => (s.facetsAt r k).isEmpty && s.room hs 0 r k misc

/-- Whether a partition is losing a region (R317). -/
def State.leavingRegion (s : State) (i : Inst) (r : Nat) : Bool :=
  match s.part? i.part with
  | some p => p.leaving.getLsbD (r / 4)
  | none => false

/-- The places for new clones: clone 0's region first, then the other regions of its die (R307). -/
def State.clonePlaces (s : State) (i : Inst) (u : FacetUnit) : List (Nat × Nat) :=
  let rs := u.region :: i.regions.filter fun r => r != u.region && dieOf r == dieOf u.region
  (rs.filter fun r => !s.leavingRegion i r).flatMap fun r => (s.freeRanks i.id r u.misc.toNat).map fun k => (r, k)

/-- The places for a node whose fold is undone (R311): the fold's region first, then the others of the placement. -/
def State.unfoldPlaces (s : State) (i : Inst) (u : FacetUnit) : List (Nat × Nat) :=
  let rs := u.region :: i.regions.filter fun r => r != u.region
  (rs.filter fun r => !s.leavingRegion i r).flatMap fun r => (s.freeRanks i.id r u.misc.toNat).map fun k => (r, k)

/-- The arcs into a node, and those out of it; an arrival target counts as an arc into it. -/
def State.switchNeeds (s : State) (inst n : Nat) : Nat × Nat :=
  let ins := s.arcs.filter fun (a : ArcSt) => a.inst == inst && !a.cc && a.cnode == n
  let outs := s.arcs.filter fun (a : ArcSt) => a.inst == inst && !a.pc && a.pnode == n
  let arr := s.handles.filter fun (h : Handle) => h.inst == inst && h.arr == 2 && h.atgt == n
  (ins.length + (distinct (arr.map Handle.ach)).length, outs.length)

/-- Whether the channel switch of a region has the splitters and merges for one more clone set (R308). -/
def State.switchRoom (s : State) (i : Inst) (r n : Nat) : Bool :=
  let sets := (List.range i.image.nodes.length).filter fun m =>
    s.cloneCount i.id m > 1 && match s.facet? i.id m 0 0 with
      | some u => u.region == r
      | none => false
  let total := fun (f : Nat × Nat → Nat) => (n :: sets.filter fun m => m != n).foldl (fun k m => k + f (s.switchNeeds i.id m)) 0
  total Prod.fst ≤ 32 && total Prod.snd ≤ 32

/-- What the controller finds for a node. -/
inductive Wanted where
  | nothing
  | blocked
  | change (c : Change)

/-- The clone target of a node (R306): a KEYED node's falls only once it has handled END. -/
def State.cloneTarget (i : Inst) (u : FacetUnit) (k : Nat) : Nat :=
  let n := u.node
  let t :=
    if i.isPinned n then 1
    else if !u.eligible then k
    else match i.ctl.hints.find? fun p => p.1 == n with
      | some p => p.2
      | none =>
        if lookup i.ctl.hot 0 n ≥ i.clonewin then min 8 (2 * k)
        else if k > 1 ∧ lookup i.ctl.cold 0 n ≥ i.foldwin then max 1 (k / 2)
        else k
  if u.cls.toNat % 4 = 2 then (if u.finished then floorPower t else max (floorPower t) k) else t

/-- What cloning asks of node `n` (R306, R308). -/
def State.cloneWanted (s : State) (i : Inst) (n : Nat) : Wanted :=
  match s.facet? i.id n 0 0 with
  | none => .nothing
  | some u =>
    let k := s.cloneCount i.id n
    let t := State.cloneTarget i u k
    if i.locked n || t == k || (u.finished || u.halted) && t > k then .nothing
    else if t < k then .change (.clone n t)
    else if k = 1 ∧ !s.switchRoom i u.region n then .blocked
    else
      let most := k + min (t - k) (s.clonePlaces i u).length
      let most := if u.cls.toNat % 4 = 2 then max (floorPower most) k else most
      if most = k then .blocked else .change (.clone n most)

/-! ### Folding (R310, R311) -/

/-- The register that an operand names. -/
def namedReg : Operand → Option Nat
  | .reg n => some n.val
  | _ => none

/-- How many registers a facet's slots read or write. -/
def FacetUnit.namedRegs (u : FacetUnit) : Nat :=
  ((List.range 16).filter fun r => u.live_.any fun i =>
    (i.word.d :: i.sources).any fun o => namedReg o == some r).length

/-- How many predicates a facet's slots name: a CTL names one (R178). -/
def FacetUnit.namedPreds (u : FacetUnit) : Nat :=
  ((List.range 8).filter fun p => u.live_.any fun i =>
    let w := i.word
    w.pm.getLsbD p || (w.puAct != 0 && w.puIdx.val == p) || match i with
      | .setpv _ => true
      | .getp _ => true
      | .ctl w => w.a.code == 48 + p
      | _ => false).length

/-- Whether a facet reads KONST. -/
def FacetUnit.readsKonst (u : FacetUnit) : Bool := u.live_.any fun i => i.sources.contains .konst

/-- Whether two nodes fit one facet (conditions 2 to 5 of R310). -/
def State.foldFits (s : State) (i : Inst) (u v : FacetUnit) : Bool :=
  let alone := fun (x : FacetUnit) =>
    s.cloneCount i.id x.node == 1 && x.chain == 1 && !i.isPinned x.node && !i.locked x.node &&
    (s.facetsAt x.region x.rank).length == 1
  let hs := s.handles.filter fun h => h.inst == i.id
  let big := max (u.misc.toNat % 4) (v.misc.toNat % 4)
  alone u && alone v && u.live_.length + v.live_.length ≤ 16 && u.namedRegs + v.namedRegs ≤ 16 &&
  u.namedPreds + v.namedPreds ≤ 8 && u.inputs.length + v.inputs.length ≤ 4 && u.outputs.length + v.outputs.length ≤ 4 &&
  ((List.range 2).filter fun k => u.indecl.getLsbD (4 + k)).length +
    ((List.range 2).filter fun k => v.indecl.getLsbD (4 + k)).length ≤ 2 &&
  u.ctlOutputs.length + v.ctlOutputs.length ≤ 2 && (!(u.readsKonst && v.readsKonst) || u.konst == v.konst) &&
  l1Fits hs u.region u.rank big

/-- The node that node `n` may be folded with: one of a higher id (R310). Folding is allowed, never required, so
whether it is done is a free choice (DESIGN CHOICE, log entry 6). -/
def State.foldWanted (s : State) (i : Inst) (n : Nat) : Wanted :=
  let cold := fun m => lookup i.ctl.cold 0 m ≥ i.foldwin
  match s.facet? i.id n 0 0 with
  | none => .nothing
  | some u =>
    if !cold n || Config.pick s.fresh % 2 == 0 then .nothing
    else
      match (List.range i.image.nodes.length).find? fun m => n < m && cold m &&
          match s.facet? i.id m 0 0 with
          | some v => s.foldFits i u v
          | none => false with
      | some m => .change (.fold n m)
      | none => .nothing

/-- Whether a fold that node `n` is part of is undone (R311): the node of the higher id moves away. -/
def State.unfoldWanted (s : State) (i : Inst) (n : Nat) : Wanted :=
  match s.facet? i.id n 0 0 with
  | none => .nothing
  | some u =>
    match (s.facetsAt u.region u.rank).filter fun v => v.inst == i.id && v.node != n with
    | [] => .nothing
    | v :: _ =>
      let m := max n v.node
      let asks := fun (x : FacetUnit) =>
        let k := x.node
        lookup i.ctl.warm 0 k ≥ i.clonewin || lookup i.ctl.hot 0 k ≥ i.clonewin || i.isPinned k ||
        (lookup i.ctl.hints 0 k ≥ 2 && x.cls.toNat % 4 != 3)
      if i.locked m || !(asks u || asks v) then .nothing
      else
        match s.unfoldPlaces i (if u.node = m then u else v) with
        | [] => .blocked
        | _ => .change (.unfold m)

/-! ### Emptying regions (R317) -/

/-- The facets of the remaining regions that a node in a leaving region may be folded onto. -/
def State.foldTarget (s : State) (i : Inst) (u : FacetUnit) : Option Nat :=
  (List.range i.image.nodes.length).find? fun m => m != u.node && match s.facet? i.id m 0 0 with
    | some v => !s.leavingRegion i v.region && s.foldFits i v u
    | none => false

/-- A run of free positions for a chain in a region (R48). -/
def State.freeRun (s : State) (inst r misc n : Nat) : Option Nat :=
  let free := s.freeRanks inst r misc
  (List.range (65 - n)).find? fun p => (List.range n).all fun j => free.contains (snakeRank (p + j))

/-- The clone of a facet node that stands in a leaving region, and how many clones the node has. -/
def State.leavingClone (s : State) (i : Inst) (n : Nat) : Option (FacetUnit × Nat) :=
  let us := s.facets.filter fun u => u.inst == i.id && u.node == n && u.pos == 0
  (us.find? fun u => s.leavingRegion i u.region).map fun u => (u, us.length)

/-- R317's first step: a clone set with clones there is uncloned. A KEYED node's is not while it runs (R306). -/
def State.uncloneAway (s : State) (i : Inst) (n : Nat) : Wanted :=
  match s.leavingClone i n with
  | some (u, k) => if k > 1 ∧ (u.cls.toNat % 4 ≠ 2 ∨ u.finished = true) then .change (.clone n 1) else .nothing
  | none => .nothing

/-- Its second step: a node there is folded onto a facet of a remaining region. -/
def State.foldAway (s : State) (i : Inst) (n : Nat) : Wanted :=
  match s.leavingClone i n with
  | some (u, k) =>
    match if k = 1 ∧ u.chain = 1 then s.foldTarget i u else none with
    | some m => .change (.fold m n)
    | none => .nothing
  | none => .nothing

/-- Its third step: what is left there moves. -/
def State.moveAway (s : State) (i : Inst) (n : Nat) : Wanted :=
  let stay := i.regions.filter fun r => !s.leavingRegion i r
  match s.leavingClone i n with
  | some (u, _) =>
    match stay.findSome? fun r => (s.freeRun i.id r u.misc.toNat u.chain).map fun p => (r, p) with
    | some (r, p) => .change (.move n u.clone r p)
    | none => .blocked
  | none =>
    match s.islands.find? fun x => x.inst == i.id && x.node == n && s.leavingRegion i x.region with
    | some _ =>
      let free := fun r => (List.range 4).find? fun k => (s.island? r k).isNone && s.room [] 1 r k 0
      match stay.findSome? fun r => (free r).map fun k => (r, k) with
      | some (r, k) => .change (.move n 0 r k)
      | none => .blocked
    | none =>
      match s.engines.find? fun e => e.inst == i.id && e.node == n && s.leavingRegion i e.region with
      | some e =>
        match stay with
        | r :: _ => .change (.move n 0 r (if e.isChord then engineOf r else e.unit))
        | [] => .blocked
      | none => .nothing

/-- Whether a finding asks for a change. -/
def Wanted.isChange : Wanted → Bool
  | .change _ => true
  | _ => false

/-- What a node placed in a leaving region needs (R317): every clone set there is undone, then every fold made, and then the rest
moved. In a locked subgraph no rewire starts (R236). -/
def State.shrinkWanted (s : State) (i : Inst) (n : Nat) : Wanted :=
  let any_ := fun (f : Nat → Wanted) => (List.range i.image.nodes.length).any fun m => !i.locked m && (f m).isChange
  let step := if any_ (s.uncloneAway i) then s.uncloneAway i n
    else if any_ (s.foldAway i) then s.foldAway i n
    else s.moveAway i n
  match step with
  | .nothing => .nothing
  | w => if i.locked n then .blocked else w

/-! ### The choice (R316) -/

/-- The first of several findings that asks for anything. -/
def firstWanted : List Wanted → Wanted
  | [] => .nothing
  | .nothing :: ws => firstWanted ws
  | w :: _ => w

/-- The changes wanted of the instance, node by node, the lowest id first. -/
def State.wanted (s : State) (i : Inst) : List Wanted :=
  (List.range i.image.nodes.length).map fun n =>
    firstWanted [s.shrinkWanted i n, s.unfoldWanted i n, s.cloneWanted i n, s.foldWanted i n]

/-- Whether a debugger holds the instance's layout (R315): a stepped conductor, or a breakpoint. -/
def State.debugged (s : State) (i : Inst) : Bool :=
  (s.conds.any fun c => c.inst == some i.id && (c.ss || (List.range 8).any fun n =>
    Word.bit (c.bkpta.getD n 0) 0 && Word.field (c.bkptc.getD n 0) 11 0 == i.ctx.toNat)) ||
  s.facets.any fun u => u.inst == i.id && (u.dbg != 0 || u.brk.isSome)

end Sys2Proof.Machine
end

