-- ==== Sys2Proof/Machine/Work.lean ====
section
/-!
DEFINITION. Queues, contexts and fault domains (R32, R322, R336, R337, R340, R380): STATUS and STATE as the device writes
them, fault records (R59, R337), the discard of an instance and the start of a kill.
-/
namespace Sys2Proof.Machine

/-! ### What the device writes in control blocks -/

/-- STATUS (R322). -/
def Queue.status (q : Queue) : Nat :=
  let cause := if q.state < 2 then 0 else (q.cause.map causeCode).getD 0
  q.errcnt * 65536 + cause * 256 + q.state

/-- A queue changed, with its STATUS written in its block. -/
def State.setQueue (s : State) (n : Nat) (f : Queue → Queue) : State :=
  let s := s.modQueue n f
  match s.queue? n with
  | some q => s.writeHbm (q.addr + 0x34) (Word.toBytes 4 q.status)
  | none => s

/-- STATE of a context, written in its block (R320). -/
def State.setCtxState (s : State) (id : BitVec 12) (v : Nat) : State :=
  let s := s.modCtx id fun c => { c with state := v }
  match s.context? id with
  | some c => s.writeHbm (c.addr + 0x12) (Word.toBytes 1 v)
  | none => s

/-- The function that a queue belongs to: VF f for partition f, the PF for partition 0 (R378). -/
def State.queueFn (s : State) (q : Queue) : Nat := ((s.context? q.ctx).map Context.part).getD 0

/-- The effective value of a field: the parent's where the block holds the inherit value (R32). -/
def inherit_ (inheritValue v parent : Nat) : Nat := if v = inheritValue then parent else v

/-- The effective priority, weight, fault domain and energy share of a context (R32). -/
def State.ctxEff (s : State) (c : Context) : Nat × Nat × Nat × Nat :=
  let p := (s.part? c.part).getD { id := c.part }
  (inherit_ 15 c.prio p.prio, inherit_ 0 c.weight p.weight, inherit_ 0 c.fdom p.fdom, inherit_ 0 c.eshare p.eshare)

/-- Those of a queue. -/
def State.queueEff (s : State) (q : Queue) : Nat × Nat × Nat × Nat :=
  let c := (s.context? q.ctx).getD { id := q.ctx }
  let (p, w, f, e) := s.ctxEff c
  (inherit_ 15 q.prio p, inherit_ 0 q.weight w, inherit_ 0 q.fdom f, inherit_ 0 q.eshare e)

/-- Whether an instance has started and not retired (R327), and is not being discarded. -/
def Inst.started (i : Inst) : Bool := i.state != .discarding

/-- The started instances of a queue. -/
def State.startedOf (s : State) (q : Nat) : List Inst := s.insts.filter fun i => i.queue == q && i.started

/-- Whether an instruction in progress completes before a freeze takes effect (R211). One of R211's other row, and one that neither
row names, is abandoned with no effect. -/
def completesFirst (i : Instr) : Bool :=
  match i with
  | .ldb _ _ _ | .ldh _ _ _ | .ldw _ _ _ | .ldd _ _ _ | .ldbz _ _ _ | .ldhz _ _ _ | .ldwz _ _ _ => true
  | .stb _ _ _ | .sth _ _ _ | .stw _ _ _ | .std _ _ _ => true
  | .amoAdd _ _ _ _ _ | .amoAnd _ _ _ _ _ | .amoOr _ _ _ _ _ | .amoXor _ _ _ _ _ | .amoMins _ _ _ _ _ => true
  | .amoMaxs _ _ _ _ _ | .amoMinz _ _ _ _ _ | .amoMaxz _ _ _ _ _ | .amoXchg _ _ _ _ _ | .amoCas _ _ _ _ _ => true
  | .amoFadd _ _ _ _ | .fenceFull _ | .fenceAcq _ | .fenceRel _ | .fenceTinv _ _ | .icinv _ _ => true
  | .l2ctlSetrb _ _ _ | .l2ctlSetrl _ _ _ | .l2ctlUnpin _ _ _ | .l2ctlWbinv _ _ | .switch _ _ | .launch _ _ _ => true
  | .rewireHint _ _ _ | .rewireLock _ _ _ | .rewireUnlock _ _ _ | .rewirePin _ _ _ | .rewireUnpin _ _ _ => true
  | _ => false

/-- A conductor as a freeze finds it (R211): at graph level an instruction in progress stays if it completes first, and is
otherwise abandoned. -/
def Conductor.abandon (c : Conductor) : Conductor :=
  let first := match Decode.conductor c.text with
    | .ok i => completesFirst i
    | .error _ => false
  if c.pl || (c.issued && first) then c else { c with issued := false, wfi := none }

/-- The conductors of an instance so. -/
def State.abandon (s : State) (inst : Nat) : State :=
  { s with conds := s.conds.map fun (c : Conductor) => if c.inst = some inst then c.abandon else c }

/-- Whether a conductor lets a save go on (R211): at graph level between instructions, or at system level in WFI. -/
def Conductor.letsSave (c : Conductor) : Bool := if c.pl then c.wfi.isSome else !c.issued

/-- An instance discarded: nothing of it goes on, and RETIRE ends it; its signal is made only where `signals`. -/
def State.discard (s : State) (inst : Nat) (signals : Bool) : State :=
  (s.abandon inst).modInst inst fun i => { i with state := .discarding, signals := signals }

/-- Pool entries discarded; the room that they leave counts from the next clk (R342). -/
def State.dropPool (s : State) (gone : PoolEntry → Bool) : State :=
  { s with
    pool := s.pool.filter fun e => !gone e
    poolGone := s.poolGone ++ (s.pool.filter gone).map PoolEntry.ctx }

/-- A queue goes into ERROR (R322, R336, R380): it runs nothing, so its started instances are discarded and its pool
entries go; the host is interrupted (DEDUCED, log entry 58). -/
def State.queueError (s : State) (n : Nat) (cause : Cause) : State :=
  match s.queue? n with
  | none => s
  | some q =>
    let s := (s.startedOf n).foldl (fun s i => s.discard i.id false) s
    let s := s.setQueue n fun q => { q with state := 3, cause := some cause, copy := none, biting := false }
    let s := s.dropPool fun e => e.queue == n
    let f := s.queueFn q
    let s := s.interrupt 0 5
    if f = 0 then s else s.interrupt f 6

/-! ### Discard and kill (R337, R340) -/

/-- The retention ranges of a context released (R104, R340). -/
def State.unpinCtx (s : State) (id : BitVec 12) : State :=
  (List.range 16).foldl (fun s n =>
    let rb := s.regs.l2rb.getD n 0
    if Word.bit rb 63 && Word.field rb 11 0 == id.toNat then s.unpin n else s) s

/-- A kill begins (R340): the instances are discarded without a save or a signal, the pool entries and copies go, the
windows close (R382), the queues go into ERROR with cause KILLED, and running checkpoint phases end (R376, R377). -/
def State.killContext (s : State) (id : BitVec 12) (cause : Cause) : State :=
  match s.context? id with
  | none => s
  | some c =>
    if c.state ≠ 0 then s
    else
      let lz := (s.insts.filter fun i => i.ctx == id).foldl (fun n i => max n i.lztimeout) 1
      let s := (s.setCtxState id 1).modCtx id fun c => { c with killCause := some cause, killAt := s.clk, lz := lz }
      let shut := fun (p : Nat × Word64) => if Word.field p.2 11 0 = id.toNat then (p.1, p.2 &&& 0x7FFFFFFFFFFFFFFF) else p
      let ended := (s.checks.filter fun k => k.ctx == id && k.status == 1).map fun _ => (0, 4)
      let s := (s.insts.filter fun i => i.ctx == id).foldl (fun s i => s.abandon i.id) s
      let s := s.dropPool fun e => e.ctx == id
      let s := { s with
        insts := s.insts.map fun (i : Inst) => if i.ctx = id then { i with state := .discarding, signals := false, killed := true } else i
        checks := s.checks.map fun (k : Checkpoint) => if k.ctx = id ∧ k.status = 1 then { k with status := 3 } else k
        interrupts := s.interrupts ++ ended
        regs := { s.regs with vfctx := s.regs.vfctx.map shut } }
      let s := (s.queues.filter fun q => q.ctx == id).foldl (fun s q => s.queueError q.num .killed) s
      s.unpinCtx id

/-- The owner of an uncorrectable error terminated (R369): a kill with cause POISON. -/
def State.terminate (s : State) (id : BitVec 12) : State :=
  match s.context? id with
  | some c =>
    if c.state ≠ 0 then s
    else (s.countErr (some c.part) fun e => { e with term := if e.term = 0xFF then e.term else e.term + 1 }).killContext id .poison
  | none => s

/-! ### Fault records (R59, R337) -/

/-- Words stored one after another at a context's virtual address. -/
def State.storeWords (s : State) (ctx : BitVec 12) (pins : List HeldPage) (va : Nat) : List Word64 → State
  | [] => s
  | w :: ws =>
    let s := match s.storeVa ctx va (Word.toBytes 8 w.toNat) false pins with
      | .ok s => s
      | .error _ => s
    s.storeWords ctx pins (va + 8) ws

/-- The first word of a fault record (R337). -/
def recordHead (f : NodeFault) (leftOut later : Nat) : Word64 :=
  pack [(48, min 65535 later), (32, min 65535 leftOut), (16, f.info.toNat), (0, causeCode f.cause)]

/-- The entries that a fault's own word gives its record (R47, R174, R314) (DEDUCED, log entry 47). -/
def NodeFault.entries (f : NodeFault) : List Word64 :=
  if f.cause = .predMismatch ∨ f.cause = .switchOrphan then [f.other] else []

/-- The fault record of an instance (R337), cut at FRECSZ. -/
def State.writeRecord (s : State) (i : Inst) (f : NodeFault) (entries : List Word64) : State :=
  match s.queue? i.queue with
  | none => s
  | some q =>
    let room := (q.frecsz - 32) / 8
    let other := if f.cause = .race then f.other else 0
    s.storeWords i.ctx q.pinned q.frec.toNat
      ([recordHead f (entries.length - room) i.later, f.finfo, f.faddr, other] ++ entries.take room)

/-- A fault acts on an instance at a domain (R337): only the first is recorded, and it alone acts. -/
def State.actAt (s : State) (inst : Nat) (f : NodeFault) (entries : List Word64) (domain : Nat) : State :=
  match s.inst? inst with
  | none => s
  | some i =>
    match i.fault with
    | some g =>
      let s := s.modInst inst fun i => { i with later := i.later + 1 }
      match s.queue? i.queue with
      | some q => s.storeWords i.ctx q.pinned q.frec.toNat [recordHead g i.leftOut (i.later + 1)]
      | none => s
    | none =>
      let room := match s.queue? i.queue with
        | some q => (q.frecsz - 32) / 8
        | none => 0
      let s := s.modInst inst fun i => { i with fault := some f, leftOut := entries.length - room }
      let s := s.writeRecord i f entries
      match domain with
      | 1 => (s.setQueue i.queue fun q => { q with errcnt := min 65535 (q.errcnt + 1) }).discard inst true
      | 2 => s.queueError i.queue f.cause
      | _ => if f.cause = .poison then s.terminate i.ctx else s.killContext i.ctx f.cause

/-- A fault acts on the instance's effective domain; consumed poison acts on its context (R369). -/
def State.actOn (s : State) (inst : Nat) (f : NodeFault) (entries : List Word64) : State :=
  match s.inst? inst with
  | none => s
  | some i => s.actAt inst f entries (if f.cause = .poison then 3 else i.fdom)

/-! ### Deadlock reports (R59) -/

/-- The slots of a unit that tests 3 to 7 alone hold back. -/
def State.blockedSlots (s : State) (u : FacetUnit) : List Nat :=
  (List.range 16).filter fun k => match u.instr k with
    | none => false
    | some i =>
      let w := i.word
      !neverReady i && u.predsMatch w && u.tagMatch w && s.affords u.region (instrCost i * u.chain) &&
        !(s.chainOf u).all fun v => s.memberReady u v i k

/-- The input channels and control inputs that blocked slots need and that hold no DATA. -/
def State.neededIns (s : State) (u : FacetUnit) (ks : List Nat) : List Nat :=
  (List.range 6).filter fun c => ks.any fun k => match u.instr k with
    | none => false
    | some i => (namedIns i).contains c && (s.chainOf u).any fun v =>
        if c < 4 then v.headKind c == none || v.headKind c == some 1 else (v.cins.getD (c - 4) []).isEmpty

/-- The handle that the lowest blocked slot waits for. -/
def State.neededHandle (s : State) (u : FacetUnit) (ks : List Nat) : Option Nat :=
  match ks with
  | [] => none
  | k :: _ =>
    (u.instr k).bind fun i => (s.chainOf u).findSome? fun v =>
      let c := s.fireOf u v i k
      if c.handleReady i then none else c.handle.map Handle.num

/-- A mask of the numbers in a list. -/
def maskOf (l : List Nat) : Nat := l.foldl (fun n k => n + 2 ^ k) 0

/-- Whether an arc into or out of a node is held at a full ring. -/
def State.spillHeld (s : State) (inst node : Nat) : Bool :=
  s.arcs.any fun a => a.inst == inst && a.sp && a.ring.length ≥ a.spcap &&
    ((!a.cc && a.cnode == node) || (!a.pc && a.pnode == node))

/-- HV and HANDLE. -/
def handleFields (h : Option Nat) : List (Nat × Nat) :=
  match h with
  | some n => [(28, n), (27, 1)]
  | none => []

/-- Whether a merge of a node holds tokens of a clone. -/
def State.mergeHolds (s : State) (u : FacetUnit) : Bool :=
  s.merges.any fun m => m.inst == u.inst && m.node == u.node &&
    ((m.held.any fun p => p.1 == u.clone) || (u.clone == 0 && held m.outq))

/-- The region and the unit of a clone in a report: at the layout version in force (R12). -/
def State.reported (s : State) (inst n c : Nat) (now : Nat × Nat) : Nat × Nat :=
  match (s.inst? inst).bind fun i => s.whereIs i n c with
  | some (r, u, _) => (r, u)
  | none => now

/-- The entry of a facet clone, if it has one. -/
def State.facetEntry (s : State) (u : FacetUnit) : Option Word64 :=
  let ks := if u.finished || u.halted then [] else s.blockedSlots u
  if ks.isEmpty && !((s.chainOf u).any FacetUnit.holds) && !s.mergeHolds u then none
  else
    let need := s.neededIns u ks
    let at_ := s.reported u.inst u.node u.clone (u.region, u.rank)
    let outb := u.outputs.filter fun o => (s.chainOf u).any fun v => !v.room o
    some (pack ([(52, u.node), (49, u.clone), (48, (s.spillHeld u.inst u.node).toNat), (44, maskOf (need.filter fun c => c < 4)),
      (40, maskOf outb), (38, maskOf ((need.filter fun c => 4 ≤ c).map fun c => c - 4)), (16, at_.1), (10, at_.2)] ++
      handleFields (s.neededHandle u ks)))

/-- The destination handle that an island waits on for a FREE slot. -/
def State.islandAwaits (s : State) (u : IslandUnit) : Option Nat :=
  [0, 1].findSome? fun t =>
    let x := u.tile t
    let y := s.steering u (x.state == .empty)
    let e := x.entryBy (y.getD none)
    let asks := (x.state == .final && x.owed) ||
      (u.turnTile == some t && x.lastNext && (u.head 0).map Token.kind == some 0 && y.isSome && u.weights.isSome && e.v)
    if !asks then none
    else (s.destHandle u e).bind fun h => if (s.freeSlot h).isNone then some h.num else none

/-- The entry of an island node (DEDUCED, log entry 60). -/
def State.islandEntry (s : State) (u : IslandUnit) : Option Word64 :=
  let bare := fun p => s.fedPort u.inst u.node p && ((u.head p).isNone || (u.head p).map Token.kind == some 1)
  let fresh := (u.turnTile.map fun t => (u.tile t).state == .empty).getD false
  let awaited := (if u.turnTile.isSome then [0] else []) ++ (if u.reloadDue then [1] else []) ++ (if fresh then [2] else [])
  let need := awaited.filter bare
  let hv := s.islandAwaits u
  if !u.holds && (u.finished || (need.isEmpty && hv.isNone)) then none
  else
    let at_ := s.reported u.inst u.node 0 (u.region, u.isl)
    let outb := (List.range 4).filter fun p => s.hasArc u.inst u.node p && !u.room p
    some (pack ([(52, u.node), (48, (s.spillHeld u.inst u.node).toNat), (44, maskOf need), (40, maskOf outb),
      (37, (s.hasArc u.inst u.node 4 && !u.room 4).toNat), (16, at_.1), (10, at_.2), (0, 1)] ++ handleFields hv))

/-- The entry of a streamer or chord engine node. -/
def State.engineEntry (s : State) (e : EngineNode) : Option Word64 :=
  let bare := s.fedPort e.inst e.node 0 && match e.ins with
    | [] => true
    | t :: _ => t.kind == 1
  let hv := match e.ins with
    | t :: _ => if t.kind == 0 then some (Word.field t.payload 79 72) else none
    | [] => none
  let at_ := s.reported e.inst e.node 0 (e.region, e.unit)
  if !e.holds && (e.finished || !bare) then none
  else
    some (pack ([(52, e.node), (48, (s.spillHeld e.inst e.node).toNat), (44, bare.toNat),
      (40, (s.hasArc e.inst e.node 0 && e.outs.length ≥ 4).toNat), (16, if e.isChord then 0xFF else at_.1), (10, if e.isChord then e.unit else at_.2),
      (0, if e.isChord then 3 else 2)] ++ handleFields hv))

/-- The entries of a report, by node and then by clone. -/
def State.deadlockEntries (s : State) (i : Inst) : List Word64 :=
  (List.range i.image.nodes.length).flatMap fun n =>
    ((List.range 8).filterMap fun c => (s.facet? i.id n c 0).bind s.facetEntry) ++
    ((s.islands.filter fun u => u.inst == i.id && u.node == n).filterMap s.islandEntry) ++
    (s.engine? i.id n).toList.filterMap s.engineEntry

end Sys2Proof.Machine
end

