-- ==== Sys2Proof/Machine/Queues.lean ====
section
/-!
DEFINITION. The hub scheduler (R240, R318 to R330, R336, R338): registration of the work tree, packets and events, which
queue holds a partition, and the dispatch of what it holds.
-/
namespace Sys2Proof.Machine

/-! ### Registration (R318 to R322, R383, R385) -/

/-- A command of HREG ends: DONE with reason 0, or REFUSED (R383). -/
def State.hregDone (s : State) (reason : Nat) : State :=
  { s with regs := { s.regs with
      hregBusy := false, hregState := if reason = 0 then 2 else 3, hregReason := reason } }

/-- A registration ends so; the host is interrupted (R380). -/
def State.hregEnd (s : State) (reason : Nat) : State := (s.hregDone reason).interrupt 0 1

/-- The 64 bytes of a control block in the device's own HBM. -/
def State.block (s : State) (addr : Word64) : Option (Nat × List Byte) :=
  if addr.toNat % 64 ≠ 0 then none
  else match s.place (addr.toNat % 2 ^ 52) with
    | some (.hbm a) => some (a, Memory.readN s.mem a 64)
    | _ => none

/-- A command of HREG on a block: refused with a reason, or the state it leaves. -/
def State.hregDo (s : State) (addr : Word64) (f : Nat → List Byte → Except Nat State) : Out :=
  .next (if !s.regs.hregBusy || s.stopped then s
  else match s.block addr with
    | none => s.hregEnd 1
    | some (a, b) => match f a b with
      | .ok s => s.hregEnd 0
      | .error r => s.hregEnd r)

/-- The quads of a partition and those it has not yet given up. -/
def Partition.owned (p : Partition) : BitVec 48 := p.quads ||| p.leaving

/-- Whether a quad of a set belongs to another partition. -/
def State.quadTaken (s : State) (id : Nat) (quads : BitVec 48) : Bool :=
  s.parts.any fun p => p.id != id && p.owned &&& quads != 0

/-- Whether a value is within bounds. -/
def between (lo v hi : Nat) : Bool := lo ≤ v && v ≤ hi

/-- Whether a partition block keeps R319. -/
def partitionOk (b : List Byte) : Bool :=
  fieldAt b 6 2 == 0 && fieldAt b 8 1 ≤ 63 && fieldAt b 9 1 ≤ 7 && fieldAt b 0xA 1 ≥ 1 && between 1 (fieldAt b 0xB 1) 3 &&
  fieldAt b 0xC 2 ≥ 1 && (fieldAt b 0xE 2 == 0 || between 100 (fieldAt b 0xE 2) 60000) && allZero (b.drop 0x10)

/-- The quads of a partition set: those it loses stay its own until they are empty (R338). -/
def Partition.requad (p : Partition) (quads : BitVec 48) : Partition :=
  { p with quads := quads, leaving := (p.leaving ||| p.quads) &&& ~~~quads }

/-- REGISTER_PARTITION (R318, R319). -/
def execRegisterPartition (addr : Word64) (s : State) : Out :=
  s.hregDo addr fun a b =>
    let id := fieldAt b 8 1
    let quads := BitVec.ofNat 48 (fieldAt b 0 8)
    if !partitionOk b then .error 1
    else if s.quadTaken id quads then .error 2
    else
      let p := (s.part? id).getD { id := id }
      let p := { p.requad quads with
        addr := a, prio := fieldAt b 9 1, weight := fieldAt b 0xA 1, fdom := fieldAt b 0xB 1, eshare := fieldAt b 0xC 2
        quantum := if fieldAt b 0xE 2 = 0 then 1000 else fieldAt b 0xE 2 }
      .ok { s with parts := (s.parts.filter fun q => q.id != id) ++ [p] }

/-- A priority, or the inherit value. -/
def prioOk (v : Nat) : Bool := v ≤ 7 || v == 15

/-- Whether a context block keeps R89 and R320. -/
def contextOk (b : List Byte) : Bool :=
  fieldAt b 0 8 % 2 ^ 20 == 0 && fieldAt b 0 8 < 2 ^ 52 && fieldAt b 8 2 < 4096 && prioOk (fieldAt b 0xB 1) &&
  fieldAt b 0xD 1 ≤ 3 && fieldAt b 0x10 2 ≤ 4096 && fieldAt b 0x13 1 == 0 && fieldAt b 0x14 4 / 256 % 2 ^ 23 == 0 &&
  allZero (b.drop 0x18)

/-- Whether the key slot that KEY names may serve a partition's context (R385). -/
def State.keyOk (s : State) (key part : Nat) : Bool :=
  key / 2 ^ 31 == 0 || s.keys.any fun k => k.slot == key % 256 && k.vf == part

/-- REGISTER_CONTEXT (R318, R320, R385): STATE is written ACTIVE. A context under kill is not registered again. -/
def execRegisterContext (addr : Word64) (s : State) : Out :=
  s.hregDo addr fun a b =>
    let id := BitVec.ofNat 12 (fieldAt b 8 2)
    let part := fieldAt b 0xA 1
    let key := fieldAt b 0x14 4
    if !contextOk b || ((s.context? id).map Context.state) == some 1 then .error 1
    else if (s.part? part).isNone then .error 3
    else if !s.keyOk key part then .error 5
    else
      let c : Context :=
        { id := id, addr := a, root := BitVec.ofNat 64 (fieldAt b 0 8), part := part, prio := fieldAt b 0xB 1
          weight := fieldAt b 0xC 1, fdom := fieldAt b 0xD 1, eshare := fieldAt b 0xE 2, quota := fieldAt b 0x10 2
          key := BitVec.ofNat 32 key }
      let s : State := { s with ctxs := (s.ctxs.filter fun k => k.id != id) ++ [c] }
      .ok (s.setCtxState id 0)

/-- Whether a queue block keeps R321, its pages apart. -/
def queueOk (b : List Byte) : Bool :=
  let n := fieldAt b 8 4
  fieldAt b 0 8 % 4096 == 0 && between 16 n 65536 && ((List.range 17).any fun k => n == 2 ^ k) && fieldAt b 0xC 2 < 4096 &&
  prioOk (fieldAt b 0xE 1) && fieldAt b 0x10 1 ≤ 3 && fieldAt b 0x11 1 == 0 && fieldAt b 0x14 4 ≤ 60000 &&
  fieldAt b 0x18 8 % 65536 == 0 && fieldAt b 0x20 8 % 65536 == 0 && fieldAt b 0x28 8 % 256 == 0 &&
  fieldAt b 0x30 4 % 256 == 0 && fieldAt b 0x30 4 ≥ 256 && allZero (b.drop 0x38)

/-- The pages that ranges of bytes touch pinned in a context (R55, R321), or `none` where one is not mapped, not writable, or not at
home in the device's HBM. -/
def State.pinRanges (s : State) (ctx : BitVec 12) : List (Nat × Nat) → Option (State × List HeldPage)
  | [] => some (s, [])
  | (va, n) :: rest =>
    if 2 ^ 56 < va + n then none
    else (s.pinPages ctx true (pageRun va n).1 (pageRun va n).2).bind fun x =>
      (x.1.pinRanges ctx rest).map fun y => (y.1, x.2 ++ y.2)

/-- REGISTER_QUEUE (R318, R321, R322): its pages are pinned, the queue is READY, and its STATUS is written. -/
def execRegisterQueue (addr : Word64) (n : Nat) (s : State) : Out :=
  s.hregDo addr fun a b =>
    let ctx := BitVec.ofNat 12 (fieldAt b 0xC 2)
    let nent := fieldAt b 8 4
    if !queueOk b || n ≥ 1024 then .error 1
    else if ((s.context? ctx).map Context.state) != some 0 then .error 3
    else match s.pinRanges ctx [(fieldAt b 0 8, 64 + 64 * nent), (fieldAt b 0x18 8, fieldAt b 0x20 8),
        (fieldAt b 0x28 8, fieldAt b 0x30 4)] with
    | none => .error 4
    | some (s, pages) =>
      let q : Queue :=
        { num := n, addr := a, base := BitVec.ofNat 64 (fieldAt b 0 8), nent := nent, ctx := ctx, prio := fieldAt b 0xE 1
          weight := fieldAt b 0xF 1, fdom := fieldAt b 0x10 1, eshare := fieldAt b 0x12 2
          wdog := if fieldAt b 0x14 4 = 0 then 2000 else fieldAt b 0x14 4, savebase := BitVec.ofNat 64 (fieldAt b 0x18 8)
          savesize := fieldAt b 0x20 8, frec := BitVec.ofNat 64 (fieldAt b 0x28 8), frecsz := fieldAt b 0x30 4
          pinned := pages }
      let s : State := { s with queues := (s.queues.filter fun q => q.num != n) ++ [q] }
      .ok (s.setQueue n fun q => { q with state := 1 })

/-- REREAD_QUADS (R338). -/
def execRereadQuads (addr : Word64) (s : State) : Out :=
  s.hregDo addr fun _ b =>
    let id := fieldAt b 8 1
    let quads := BitVec.ofNat 48 (fieldAt b 0 8)
    if fieldAt b 6 2 ≠ 0 then .error 1
    else if (s.part? id).isNone then .error 3
    else if s.quadTaken id quads then .error 2
    else .ok (s.modPart id fun p => p.requad quads)

/-- KILL (R340, R380, R383): the command is done once the kill has started; the host is interrupted when it completes. -/
def execKill (ctx : BitVec 12) (cause : Cause) (s : State) : Out :=
  .next (if !s.regs.hregBusy || s.stopped then s
  else match s.context? ctx with
    | none => s.hregDone 3
    | some _ => (s.killContext ctx cause).hregDone 0)

/-! ### Reading rings and events (R323 to R325) -/

/-- Bytes of a queue's ring as the hub sees them, by the pages that it pinned (R321). -/
def State.peek (s : State) (q : Queue) (va n : Nat) : Option (List Byte) :=
  match s.loadVa q.ctx va n q.pinned with
  | .ok (_, bs, bad) => if bad then none else some bs
  | .error _ => none

/-- The read index of a ring, the 64 bits at offset 8 of the queue base (R323). -/
def State.readIndex (s : State) (q : Queue) : Nat := ((s.peek q (q.base.toNat + 8) 8).map Word.ofBytes).getD 0

/-- Where the packet at the head of a ring lies: packet i at BASE + 64 + 64 × (i mod NENT), i the read index (R323). -/
def State.headVa (s : State) (q : Queue) : Nat := q.base.toNat + 64 + 64 * (s.readIndex q % q.nent)

/-- The packet at the head of a ring: present when TYPE is not 0 (R323). -/
def State.ringHead (s : State) (q : Queue) : Option (List Byte) :=
  match s.peek q (s.headVa q) 64 with
  | some b => if fieldAt b 0 1 = 0 then none else some b
  | none => none

/-- The oldest pool entry of a queue (R336). -/
def State.poolHead (s : State) (q : Nat) : Option PoolEntry := s.pool.find? fun e => e.queue == q

/-- What a queue dispatches next: its pool entries come before its next ring packet (R336). -/
def State.nextPacket (s : State) (q : Queue) : Option (List Byte) :=
  match s.poolHead q.num with
  | some e => some e.packet
  | none => s.ringHead q

/-- Where an event lies in HBM (R325); `none` for one that is misaligned or not there. -/
def State.eventAt (s : State) (ctx : BitVec 12) (va : Nat) (write : Bool) : Option Nat :=
  if va % 8 ≠ 0 ∨ va ≥ 2 ^ 56 then none
  else (s.walk ctx va).bind fun l =>
    if forbids l.entry { write := write, sys := true } then none
    else match s.place (pteAddr l.entry + va % l.size) with
      | some (.hbm a) => some a
      | _ => none

/-- The wait events of a packet: address and value. -/
def packetWaits (b : List Byte) : List (Nat × Nat) :=
  [(fieldAt b 0x18 8, fieldAt b 0x20 8), (fieldAt b 0x28 8, fieldAt b 0x30 8)].filter fun x => x.1 != 0

/-- SIGNAL of a packet. -/
def packetSignal (b : List Byte) : Nat := fieldAt b 0x38 8

/-- The pages of a packet's wait events, marked accessed before they are read (R92). -/
def State.touchWaits (s : State) (ctx : BitVec 12) (b : List Byte) : State :=
  (packetWaits b).foldl (fun s x => match s.eventAt ctx x.1 false with
    | some _ => match s.translateNow ctx x.1 { sys := true } with
      | .ok (s, _) => s
      | .error _ => s
    | none => s) s

/-- The wait events of a queue's next packet are read. -/
def State.readWaits (s : State) (n : Nat) : State :=
  match s.queue? n with
  | some q => match s.nextPacket q with
    | some b => s.touchWaits q.ctx b
    | none => s
  | none => s

/-- The hub reads the wait events of every queue of a partition, as the choice among them asks (R92, R327). -/
def State.readAllWaits (s : State) (part : Nat) : State :=
  (s.queues.filter fun q => q.state == 1 && ((s.context? q.ctx).map Context.part) == some part).foldl (fun s q => s.readWaits q.num) s

/-- Whether every wait of a packet holds (R325). -/
def State.waitsHold (s : State) (ctx : BitVec 12) (b : List Byte) : Bool :=
  (packetWaits b).all fun x => match s.eventAt ctx x.1 false with
    | some a => x.2 ≤ s.num a 8
    | none => false

/-- Whether a packet can be carried out as it is written (R324, R326), NREG apart. -/
def State.packetOk (s : State) (ctx : BitVec 12) (b : List Byte) : Bool :=
  let t := fieldAt b 0 1
  let bare := fieldAt b 2 2 == 0
  fieldAt b 1 1 ≤ 1 &&
  ((packetWaits b).all fun x => (s.eventAt ctx x.1 false).isSome) &&
  (packetSignal b == 0 || (s.eventAt ctx (packetSignal b) true).isSome) &&
  match t with
  | 1 => prioOk (fieldAt b 2 1) && fieldAt b 3 1 ≤ 7
  | 2 => bare && fieldAt b 4 4 % 16 == 0
  | 3 => bare && allZero ((b.drop 4).take 0x14)
  | 4 => bare && allZero ((b.drop 4).take 0x14) && fieldAt b 1 1 == 0 && packetSignal b == 0
  | _ => false

/-- What is known at an event or a packet that an acquire of device scope sees (R323, R325). -/
def State.knownAt (s : State) (a n : Nat) : VClock :=
  (carriersAt s.writeRels 0 (s.devId.toNat * 2 ^ 44 + a) n).foldl (fun v w => w.rels.foldl (fun v r => VClock.join v r.vc) v) {}

/-- What comes before a packet's effects: its waits, and its own writing. -/
def State.packetBefore (s : State) (q : Queue) (b : List Byte) : VClock :=
  let at_ := fun (va n : Nat) => match s.eventAt q.ctx va false with
    | some a => s.knownAt a n
    | none => {}
  let waits := (packetWaits b).foldl (fun v x => VClock.join v (at_ x.1 8)) {}
  match s.poolHead q.num with
  | some e => VClock.join waits e.vc
  | none => VClock.join waits (at_ (s.headVa q) 64)

/-- The hub as an agent. -/
def hubAgent : Agent := .engine 0 0

/-- A signal (R325): an atomic add of 1 behind a release of device scope, then the interrupt of FLAGS.INT. -/
def State.signal (s : State) (q : Queue) (b : List Byte) (before : VClock) : State :=
  let va := packetSignal b
  if va = 0 then s
  else
    match s.eventAt q.ctx va true with
    | none => s
    | some a =>
      let s := match s.storeVa q.ctx va (Word.toBytes 8 (s.num a 8 + 1)) with
        | .ok s => s
        | .error _ => s
      let r : RelPoint := { agent := hubAgent, region := 0, scope := .device, vc := before }
      let at_ := s.devId.toNat * 2 ^ 44 + a
      -- an atomic: who observes it observes the carriers before it (R118)
      let ws := writeOver s.writeRels { space := 0, addr := at_, len := 8, isWrite := true, atomicScope := some .device }
      let s := { s with writeRels := ws ++ [{ space := 0, addr := at_, len := 8, rels := [r] }] }
      if fieldAt b 1 1 % 2 = 1 then s.interrupt (s.queueFn q) (q.num % 56 + 8) else s

/-! ### Which queue holds a partition (R327, R328) -/

/-- The usable regions of a partition (R18, R319). -/
def State.usable (s : State) (p : Partition) : List Nat :=
  (List.range 192).filter fun r => p.quads.getLsbD (r / 4) && !s.store.quadsOut.contains (r / 4)

/-- Whether a packet that its queue would dispatch stands at the head: its waits hold, or it cannot be carried out. -/
def State.headReady (s : State) (q : Queue) : Bool :=
  match s.nextPacket q with
  | some b => !s.packetOk q.ctx b || s.waitsHold q.ctx b
  | none => false

/-- Whether a queue is ready (R327). -/
def State.queueReady (s : State) (q : Queue) : Bool :=
  q.state == 1 && (!(s.startedOf q.num).isEmpty || s.headReady q)

/-- The effective priority of a LAUNCH. -/
def State.launchPrio (s : State) (q : Queue) (b : List Byte) : Nat := inherit_ 15 (fieldAt b 2 1) (s.queueEff q).1

/-- The priority of a queue (R327): the highest of its started instances' and its head LAUNCH's. -/
def State.queuePrio (s : State) (q : Queue) : Nat :=
  let is := (s.startedOf q.num).map Inst.prio
  let ps := match s.nextPacket q with
    | some b => if fieldAt b 0 1 = 1 then s.launchPrio q b :: is else is
    | none => is
  match ps with
  | [] => (s.queueEff q).1
  | p :: ps => ps.foldl min p

/-- The ready queues of a partition, by number. -/
def State.readyQueues (s : State) (part : Nat) : List Queue :=
  (List.range 1024).filterMap fun n => match s.queue? n with
    | some q => if ((s.context? q.ctx).map Context.part) == some part && s.queueReady q then some q else none
    | none => none

/-- The queue that a free partition goes to (R327, R328). -/
def State.choice (s : State) (p : Partition) : Option Queue :=
  let qs := s.readyQueues p.id
  match qs.map s.queuePrio with
  | [] => none
  | x :: xs =>
    let best := xs.foldl min x
    let top := qs.filter fun q => s.queuePrio q == best
    match p.served.find? fun y => y.1 == best with
    | some (_, n) => (top.find? fun q => n < q.num).orElse fun _ => top.head?
    | none => top.head?

/-- The slice that a queue earns as it takes its partition (R328), in µs. -/
def State.slice_ (s : State) (p : Partition) (q : Queue) : Int := (s.queueEff q).2.1 * p.quantum

/-- A queue acts as the holder of its partition, taking it where it is free and the queue is the choice. -/
def State.takePartition (s : State) (n : Nat) : Option State :=
  (s.queue? n).bind fun q =>
    (((s.context? q.ctx).map Context.part).bind s.part?).bind fun p =>
      match p.holder with
      | some h => if h = n ∧ p.yielding = false ∧ q.state = 1 ∧ q.biting = false then some s else none
      | none =>
        if (s.choice p).map Queue.num = some n then
          let s := s.modPart p.id fun p =>
            { p with holder := some n, yielding := false, dispatched := s.clk, served := assign p.served (s.queuePrio q) n }
          some (s.modQueue n fun q => { q with deficit := q.deficit + s.slice_ p q })
        else none

/-- A partition given up by its holder. -/
def State.leavePartition (s : State) (p : Partition) : State :=
  let s := s.modPart p.id fun p => { p with holder := none, yielding := false }
  match p.holder.bind s.queue? with
  | some q => if s.queueReady q then s else s.modQueue q.num fun q => { q with deficit := min 0 q.deficit }
  | none => s

/-- Whether a queue has an instance that is on regions and not yet saved or ended. -/
def State.unsaved (s : State) (n : Nat) : Bool :=
  (s.startedOf n).any fun i => i.state != .saved && i.state != .complete

/-- A partition whose holder has stopped being ready, or has been saved whole, is free (R328). -/
def State.settlePart (s : State) (p : Partition) : State :=
  match p.holder with
  | none => s
  | some n =>
    let s := s.readWaits n
    let (ready, biting) := match s.queue? n with
      | some q => (s.queueReady q, q.biting)
      | none => (false, false)
    if biting then s
    else if (!ready || p.yielding) && !s.unsaved n then s.leavePartition p else s

/-- Every partition so. -/
def State.settleParts (s : State) : State := s.parts.foldl State.settlePart s

/-- Whether a store, an atomic or a drain of an instance awaits its acknowledgement, or has yet to be made (R330). -/
def State.ackDue (s : State) (i : Inst) : Bool :=
  (s.txns.any fun t => t.inst == i.id && t.flit.typ != 1 && t.flit.typ != 11) ||
  (i.state == .complete && s.islands.any fun u => u.inst == i.id && u.tiles.any fun x => (x.snap.map Snap.busy).getD false)

/-- Whether an instance may retire now (R330, R337): it is complete or discarded, and nothing of it is outstanding. Of a killed
context, every conductor stands where a freeze lets it stop (R211, R340). -/
def State.retirable (s : State) (i : Inst) : Bool :=
  (i.state == .complete || i.state == .discarding) && !s.ackDue i &&
  (!i.killed || (i.regions.filterMap s.cond?).all Conductor.letsSave)

/-- Whether a retirement is due for an instance of a queue: it comes before an expiry in the same clk (R342). -/
def State.retireDue (s : State) (n : Nat) : Bool := s.insts.any fun i => i.queue == n && s.retirable i

/-- Whether a queue's progress timer has run out, or its sequence is under way (R339). -/
def Queue.expired (q : Queue) : Bool := q.biting || q.timer ≥ q.wdog * 1000000

/-- PREEMPT (R327): a queue ready at a higher priority takes the partition at once; the holder is served next at its
own. An expired progress timer comes first (R342). -/
def execPreempt (part : Nat) (s : State) : Out :=
  .next (match s.part? part with
  | none => s
  | some p =>
    match p.holder.bind s.queue? with
    | none => s
    | some q =>
      let s := if s.stopped then s else s.readAllWaits part
      let mine := s.queuePrio q
      if p.yielding || (q.state == 1 && !(s.startedOf q.num).isEmpty && q.expired) || q.biting ||
          !(s.readyQueues part).any fun r => r.num != q.num && s.queuePrio r < mine then s
      else
        s.modPart part fun p =>
          { p with yielding := true, served := assign p.served mine (if q.num = 0 then 1024 else q.num - 1) })

/-- DEFICIT_EXPIRY (R328): the holder yields to another ready queue of its priority, or its deficit is raised again. A retirement
that is due comes first (R342). -/
def execDeficitExpiry (part : Nat) (s : State) : Out :=
  .next (match s.part? part with
  | none => s
  | some p =>
    match p.holder.bind s.queue? with
    | none => s
    | some q =>
      let s := if s.stopped then s else s.readAllWaits part
      if p.yielding || q.deficit > 0 || q.biting || s.retireDue q.num then s
      else if (s.readyQueues part).any fun r => r.num != q.num && s.queuePrio r == s.queuePrio q then
        s.modPart part fun p => { p with yielding := true }
      else s.modQueue q.num fun q => { q with deficit := q.deficit + s.slice_ p q })

/-! ### Dispatch (R323, R326, R329, R330, R336) -/

/-- A packet dispatched: its entry leaves the pool, or TYPE ← 0 is written and then the read index raised by 1 (R323). -/
def State.consume (s : State) (q : Queue) : State :=
  match s.poolHead q.num with
  | some e => { s with pool := s.pool.erase e, poolGone := s.poolGone ++ [e.ctx] }
  | none =>
    let k := s.readIndex q
    let put := fun (s : State) (va : Nat) (bs : List Byte) => match s.storeVa q.ctx va bs false q.pinned with
      | .ok s => s
      | .error _ => s
    put (put s (s.headVa q) [0]) (q.base.toNat + 8) (Word.toBytes 8 (k + 1))

/-- Whether a pool entry waits for stores and atomics of the conductor that made it (R97, R240). -/
def State.poolHeld (s : State) (n : Nat) : Bool := ((s.poolHead n).map fun e => s.heldBack e.behind).getD false

/-- The queue acts on its next packet, whose type is `t`, drawn from the pool where `pool` says so: a packet that cannot
be carried out puts it into ERROR (R326). -/
def State.dispatch (s : State) (n t : Nat) (pool : Bool) (f : State → Queue → List Byte → State) : State :=
  let s := if s.stopped then s else match (s.queue? n).bind fun q => s.partOf q.ctx with
    | some part => s.readAllWaits part
    | none => s
  match if s.stopped then none else s.takePartition n with
  | none => s
  | some s' =>
    match s'.queue? n with
    | none => s
    | some q =>
      match s'.nextPacket q with
      | none => s
      | some b =>
        if pool != (s'.poolHead n).isSome || s'.poolHeld n then s
        else if !s'.packetOk q.ctx b then s'.queueError n .config
        else if fieldAt b 0 1 ≠ t ∨ !s'.waitsHold q.ctx b then s
        else f s' q b

/-- Whether a remote write of the hub numbered below `n` awaits its acknowledgement. -/
def State.hubWrites (s : State) (n : Nat) : Bool := s.txns.any fun t => t.issuer == .hub && t.tx < n

/-- PACKET_EVENT (R325): the release before its signal waits for the acknowledgement of the hub's earlier writes. -/
def execPacketEvent (q : Nat) (s : State) : Out :=
  .next (if s.hubWrites s.nextTx then s
  else s.dispatch q 3 false fun s q b => (s.consume q).signal q b (s.packetBefore q b))

/-- PACKET_NOP (R325). -/
def execPacketNop (q : Nat) (s : State) : Out := .next (s.dispatch q 4 false fun s q _ => s.consume q)

/-- PACKET_COPY (R325): the hub's copy begins; a queue has one at a time. -/
def execPacketCopy (q : Nat) (s : State) : Out :=
  .next (s.dispatch q 2 false fun s q b =>
    if q.copy.isSome then s
    else
      let c : HubCopy :=
        { src := BitVec.ofNat 64 (fieldAt b 8 8), dst := BitVec.ofNat 64 (fieldAt b 0x10 8), len := fieldAt b 4 4, packet := b }
      (s.consume q).modQueue q.num fun q => { q with copy := some c, copyVc := s.packetBefore q b })

/-- Units of 16 bytes read for `x`, each with whether it holds poison. -/
def State.readUnits (s : State) (x : Actor) (src : Nat) : Nat → Acc (List (List Byte × Bool))
  | 0 => .ok s []
  | n + 1 =>
    if src + 16 > 2 ^ 56 then .bad .addressForm none
    else if src % 16 ≠ 0 then .bad .misalign none
    else (s.loadFor x src 16).bind fun s u => (s.readUnits x (src + 16) n).bind fun s us => .ok s (u :: us)

/-- Units of 16 bytes written, poison and all (R285). -/
def State.writeUnits (s : State) (x : Actor) (dst : Nat) : List (List Byte × Bool) → Acc Unit
  | [] => .ok s ()
  | u :: us =>
    if dst + 16 > 2 ^ 56 then .bad .addressForm none
    else if dst % 16 ≠ 0 then .bad .misalign none
    else match s.storeVa x.ctx dst u.1 u.2 with
      | .error c => .bad c none
      | .ok s => s.writeUnits x (dst + 16) us

/-- The hub's copy of `n` times 16 bytes, in units of 128 bytes: each unit is read and then written (R325). `fuel` bounds the units. -/
def State.copyUnits (s : State) (x : Actor) (src dst n : Nat) : Nat → Acc Unit
  | 0 => .ok s ()
  | fuel + 1 =>
    let k := min 8 n
    if k = 0 then .ok s ()
    else (s.readUnits x src k).bind fun s us =>
      (s.writeUnits x dst us).bind fun s _ => s.copyUnits x (src + 128) (dst + 128) (n - k) fuel

/-- COPY_DONE (R325, R326): the copy's last write; a fault puts the queue into ERROR with nothing copied. It waits for what it reads from
another device, and is made once all of that has come (R86). The signal follows once every
write has been acknowledged, which its release asks for. -/
def execCopyDone (n : Nat) (s : State) : Out :=
  .next (match s.queue? n with
  | none => s
  | some q =>
    match q.copy with
    | none => s
    | some c =>
      let signal := fun (s : State) =>
        (s.modQueue n fun q => { q with copy := none, copyVc := {} }).signal q c.packet q.copyVc
      if s.stopped then s
      else match c.upto with
        | some k => if s.hubWrites k then s else signal s
        | none =>
          match s.copyUnits (hubActor q.ctx (.queue n) q.arrived) c.src.toNat c.dst.toNat (c.len / 16) (c.len / 128 + 1) with
          | .bad k _ => s.queueError n k
          | .poison _ _ => s.queueError n .poison
          | .race _ _ => s.queueError n .race
          | .ask z => s.sent z
          | .ok s _ =>
            let s := s.modQueue n fun q => { q with arrived := [] }
            if s.hubWrites s.nextTx then s.modQueue n fun q => { q with copy := some { c with upto := some s.nextTx } }
            else signal s)

/-! ### LAUNCH (R209, R240, R329, R330, R332, R334) -/

/-- The bytes of a save record with every term at its limit (R334). -/
def saveMax (nreg ports chords : Nat) : Nat :=
  20480 + nreg * 17932288 + (128 * ports + 2048 * chords + 4095) / 4096 * 4096

/-- The consumer ports of the lead conductor: ends of arcs and arrival targets of handles (R227, R280). -/
def Image.consumerPorts (im : Image) : List Nat :=
  distinct (((im.arcs.map asArc).filter ArcSt.cc).map ArcSt.cnode ++ (im.arrivals.filter fun x => x.1).map fun x => x.2.1)

/-- The token ports of an image in use, and its chord engine nodes (R333, R334). -/
def Image.ports (im : Image) : Nat :=
  im.consumerPorts.length + (distinct (((im.arcs.map asArc).filter ArcSt.pc).map ArcSt.pnode)).length
def Image.chordNodes (im : Image) : Nat := (im.nodes.filter fun n => n.kind == 3).length

/-- A size rounded up to 64 KiB. -/
def to64K (n : Nat) : Nat := (n + 65535) / 65536 * 65536

/-- Where a record of `n` bytes fits in a queue's save area: at its start or behind another record (R329, R332). -/
def State.saveSlot (s : State) (q : Queue) (n : Nat) : Option Nat :=
  let used := (s.startedOf q.num).map fun i => (i.saveOff, to64K i.savemax)
  (0 :: used.map fun x => x.1 + x.2).find? fun o =>
    o + to64K n ≤ q.savesize && used.all fun x => o + to64K n ≤ x.1 || x.1 + x.2 ≤ o

/-- Whether a placement may be used: distinct usable regions that no instance stands on (R329). -/
def State.placeable (s : State) (p : Partition) (regions : List Nat) : Bool :=
  (distinct regions).length == regions.length && regions.all fun r =>
    (s.usable p).contains r && s.insts.all fun i => !i.regions.contains r

/-- The energy share of an instance (R324), a fraction taken down. -/
def energyShare (parent eclass : Nat) : Nat :=
  if eclass = 0 then parent else max 1 (min 65535 (parent * 2 ^ eclass / 16))

/-- A conductor as an instance starts on it (R209): what its trap handler and debugger keep stays. -/
def Conductor.start (c : Conductor) (inst idx n : Nat) (args base : Word64) (im : Image) : Conductor :=
  { c with
    x := [0, args, BitVec.ofNat 64 idx, BitVec.ofNat 64 n, base] ++ List.replicate 27 0
    pc := base + BitVec.ofNat 64 (im.codeOff + im.entry), pl := false, ppl := false, bskip := false
    plsize := BitVec.ofNat 8 n, plidx := BitVec.ofNat 8 idx, inst := some inst, halted := im.codeSize == 0
    haltPc := base + BitVec.ofNat 64 (im.codeOff + im.entry), wfi := none, issued := false, pend := [], handling := none
    cports := [], stray := [], pports := [], told := false, fenced := none, arrived := [] }

/-- The agents of an instance. -/
def State.instAgents (s : State) (i : Inst) : List Agent :=
  ((s.facets.filter fun u => u.inst == i.id && u.pos == 0).map FacetUnit.agent) ++ i.regions.map Agent.conductor ++
  ((s.islands.filter fun u => u.inst == i.id).map IslandUnit.agent) ++
  (s.engines.filter fun e => e.inst == i.id).map fun e => .engine e.inst e.node

/-- END on each producer port of a lead conductor that has no program (R209, R245). -/
def State.haltAtEntry (s : State) (i : Inst) : State :=
  match s.leadRegion i.id with
  | none => s
  | some r => match s.cond? r with
    | none => s
    | some c => c.pports.foldl (fun s p => s.endPort r i.id p) s

/-- The instance that a LAUNCH makes. -/
def State.newInst (s : State) (q : Queue) (b : List Byte) (regions : List Nat) : Inst :=
  { id := s.nextInst, ctx := q.ctx, part := ((s.context? q.ctx).map Context.part).getD 0, queue := q.num, packet := b
    regions := regions, prio := s.launchPrio q b, fdom := (s.queueEff q).2.2.1
    share := energyShare (s.queueEff q).2.2.2 (fieldAt b 3 1) }

/-- A LAUNCH whose image was refused: a fault of the instance with that cause (R326, R337). -/
def State.launchFault (s : State) (q : Queue) (b : List Byte) (f : Refused) : State :=
  let i := s.newInst q b []
  let before := s.packetBefore q b
  let s := { s.consume q with insts := s.insts ++ [{ i with before := before }], nextInst := s.nextInst + 1 }
  s.actOn i.id { cause := f.cause, finfo := (f.node.map (refusalInfo 1)).getD (pack [(32, 1)]) } []

/-- An instance started on its regions (R209, R330). -/
def State.startInst (s : State) (q : Queue) (b : List Byte) (regions : List Nat) (im : Image) (off size : Nat)
    (spill : Word64) : State :=
  let before := s.packetBefore q b
  let i := { s.newInst q b regions with image := im, saveOff := off, savemax := size, before := before }
  let args := BitVec.ofNat 64 (fieldAt b 0x10 8)
  let s := { s.consume q with insts := s.insts ++ [i], nextInst := s.nextInst + 1 }
  let s := ((List.range regions.length).zip regions).foldl (fun s x =>
    s.modCond x.2 fun c => c.start i.id x.1 regions.length args im.base im) s
  let s := { s with handles := s.handles ++ s.handlesOn i.id i.ctx regions im }.holdSpill i.id i.ctx im spill
  match s.startImage i.id im spill with
  | none => s
  | some s =>
    let s := if im.codeSize = 0 then s.haltAtEntry i else s
    (s.instAgents i).foldl (fun s a => s.orderAfter a before) s

/-- A LAUNCH dispatched on the regions chosen (R209, R329, R330, R334): while it does not fit, and while it reads its image from another
device (R86), it waits. -/
def State.launch (s₀ : State) (s : State) (q : Queue) (b : List Byte) (regions : List Nat) : State :=
  match ((s.context? q.ctx).map Context.part).bind s.part? with
  | none => s₀
  | some p =>
    let all := (s.usable p).length
    let n := if fieldAt b 4 2 = 0 then all else fieldAt b 4 2
    if n = 0 ∨ n > all then s.queueError q.num .config
    else if regions.length ≠ n ∨ !s.placeable p regions then s₀
    else
      let key := s.slotKey q.ctx
      let base := fieldAt b 8 8
      match s.readImage (runtimeReader (hubActor q.ctx (.queue q.num) q.arrived)) q.ctx key.isSome base with
      | .bad c _ => s.launchFault q b { cause := c }
      | .poison a n => (s.launchFault q b { cause := .poison }).meets (some (a, n))
      | .race _ _ => s₀
      | .ask z => s₀.sent z
      | .ok s x =>
        let s := s.modQueue q.num fun q => { q with arrived := [] }
        let im := x.image key
        let spill := if x.spillSize = 0 then 0 else Config.launchSpill q.ctx.toNat base &&& 0x00FFFFFFFFFF0000
        match s.refusedImage q.ctx (s.handlesOn s.nextInst q.ctx regions) regions x spill with
        | some f => s.launchFault q b f
        | none =>
          let size := saveMax n im.ports im.chordNodes
          if size > q.savesize then s.queueError q.num .config
          else match s.saveSlot q size with
            | none => s₀
            | some off => s.startInst q b regions im off size spill

/-- PACKET_LAUNCH (R329, R330). -/
def execPacketLaunch (q : Nat) (regions : List Nat) (s : State) : Out :=
  .next (s.dispatch q 1 false fun s' q b => s.launch s' q b regions)

/-- POOL_DISPATCH (R336): a pool entry, ahead of the ring. -/
def execPoolDispatch (q : Nat) (regions : List Nat) (s : State) : Out :=
  .next (s.dispatch q 1 true fun s' q b => s.launch s' q b regions)

/-- LAUNCH (R240). It never waits: the entry is dispatched once its conductor's earlier stores and atomics are acknowledged (R97,
DEDUCED, log entry 77), and pool room freed in this clk counts from the next (R342). -/
def execLaunch (d a b : Reg) (s : State) : Out :=
  conductor s fun r c =>
    let ctx := s.ctxOf r
    let n := (c.get b).toNat
    match s.queue? n with
    | none => trapWith .access
    | some q =>
      if q.ctx ≠ ctx then trapWith .access
      else if (c.get a).toNat % 64 ≠ 0 then trapAt .misalign (c.get a)
      else
        (s.condLoad r c (c.get a) 64).cond fun s bs =>
          if fieldAt bs 0 1 ≠ 1 then trapWith .reservedField
          else if s.pool.length + s.poolGone.length ≥ 4096 then .done (s.setX r d 1)
          else if (s.pool.filter fun e => e.ctx == ctx).length + (s.poolGone.filter fun x => x == ctx).length ≥ ((s.context? ctx).map Context.quota).getD 0 then
            .done (s.setX r d 2)
          else
            let s := s.commandPoint (.conductor r) r
            let e : PoolEntry :=
              { queue := n, ctx := ctx, packet := bs, vc := (s.hbOf (.conductor r)).vc, behind := s.behindNow (.conductor r) }
            .done ({ s with pool := s.pool ++ [e] }.setX r d 0)

/-- Queues whose saved instance needs more regions than the partition has left are paused (R338). -/
def State.pauseUnplaced (s : State) : State :=
  s.queues.foldl (fun s q =>
    match ((s.context? q.ctx).map Context.part).bind s.part? with
    | none => s
    | some p =>
      if q.state = 1 ∧ ((s.startedOf q.num).any fun i => i.state == .saved && (s.usable p).length < i.regions.length) = true then
        s.setQueue q.num fun q => { q with state := 2, cause := some .resized }
      else s) s

/-- QUEUE_UNPAUSE (R338): once every instance is saved and each would find its regions. -/
def execQueueUnpause (n : Nat) (s : State) : Out :=
  .next (match s.queue? n with
  | none => s
  | some q =>
    match ((s.context? q.ctx).map Context.part).bind s.part? with
    | none => s
    | some p =>
      if q.state = 2 ∧ s.unsaved n = false ∧ ((s.startedOf n).all fun i => i.state != .saved || i.regions.length ≤ (s.usable p).length) then
        s.setQueue n fun q => { q with state := 1, cause := none }
      else s)

end Sys2Proof.Machine
end

