-- ==== Sys2Proof/Machine/Rewire.lean ====
section
/-!
DEFINITION. The switch wavefront (R234, R276, R277, R306, R307, R309 to R317): how a rewire starts, how each node takes
its new configuration, how the rewire commits, and the orphans that stop it.
-/
namespace Sys2Proof.Machine

/-! ### SWITCH on an arc (R312) -/

/-- The tokens of a clone's output that a merge has not taken. -/
def State.untaken (s : State) (m : Merge) (c : Nat) : List Token :=
  ((s.entries (outSpot m.inst m.node c m.port)).filter fun e => e.awaits (s.mergeBit m)).map OutEntry.tok

/-- The END of a cloned output, if it is still due from a merge: every clone has emitted its own (R309). -/
def State.endDue (s : State) (m : Merge) : Option Token :=
  let cs := s.clonesOf m.inst m.node
  let ends := m.ends.map Prod.snd ++ cs.flatMap fun c => (s.untaken m c).filter fun t => t.kind == 2
  if !cs.isEmpty && cs.all fun c => m.ended c || (s.untaken m c).any fun t => t.kind == 2 then some (endOfAll ends) else none

/-- The tokens of a clone's output that a merge has not taken, END apart. -/
def State.unmerged (s : State) (m : Merge) (c : Nat) : List Token := (s.untaken m c).filter fun t => t.kind != 2

/-- How many tokens a merge is still to pass on. -/
def State.dueFrom (s : State) (m : Merge) : Nat :=
  (s.clonesOf m.inst m.node).foldl (fun n c => n + (s.unmerged m c).length) (m.count + (s.endDue m).isSome.toNat)

/-- The tokens emitted on an arc that its consumer has not yet accepted. -/
def State.pendingOn (s : State) (a : ArcSt) : Nat :=
  let waits := fun sp => ((s.entries sp).filter fun e => e.awaits (s.arcBit a)).length
  match s.mergeOf a.inst a.idx with
  | some m => s.dueFrom m
  | none =>
    match if a.pc then none else s.facet? a.inst a.pnode 0 0 with
    | some u => (List.range u.chain).foldl (fun n p => n + waits (
        if a.pport < 4 then Spot.facetOut a.inst a.pnode 0 p a.pport else Spot.facetCtl a.inst a.pnode 0 p (a.pport - 4))) 0
    | none => match s.sourceSpot a with
      | some sp => waits sp
      | none => 0

/-- SWITCH placed on an arc behind the last token that its producer has emitted, where the arc's consumer is affected
and has not switched (R312). -/
def State.placeSwitch (s : State) (w : Wave) (a : ArcSt) : State :=
  if a.cc || !w.affected.contains a.cnode || w.switched.contains (a.cnode, 0) then s
  else s.modArc a.inst a.idx fun x => { x with switchAt := some (a.taken + s.pendingOn a) }

/-! ### A rewire starts (R234, R312, R316) -/

/-- The arcs on which SWITCH is placed at the start: under SWITCH the conductor's producer ports, else every arc into
the node (R234, R312). -/
def Change.starts (c : Change) (a : ArcSt) : Bool :=
  match c with
  | .switch _ => a.pc
  | _ => true

/-- The wavefront of a change begins. -/
def State.startWave (s : State) (i : Inst) (c : Change) : State :=
  let w : Wave := { change := c, affected := c.affected i.image, old := s.placed i.id, stood := s.standing i }
  let s := s.modCtl i.id fun k =>
    { k with state := .wave, wave := some w }
  (s.arcs.filter fun a => a.inst == i.id && c.starts a).foldl (fun s a => s.placeSwitch w a) s

/-- Whether a staged image may replace the running one (R234). -/
def Image.replaces (im old : Image) : Bool :=
  im.nodes.length == old.nodes.length && im.arcs == old.arcs &&
  (im.nodes.zip old.nodes).all fun x => x.1.kind == x.2.kind && (x.1.kind != 0 || x.1.chain == x.2.chain)

/-- SWITCH (R234). -/
def execSwitch (d a : Reg) (s : State) : Out :=
  conductor s fun r c => leadOnly c <|
    match s.instOf r with
    | none => trapWith .config
    | some i =>
      stageOf i (c.get a) fun k im _ =>
        if !im.replaces i.image then trapWith .config
        else if !s.configActive i.id || i.ctl.wave.isSome then .done (s.setX r d 1)
        else
          let s := (s.modInst i.id fun i => { i with stages := i.stages.set k none }).startWave i (.switch im)
          .done (s.setX r d 0)

/-- Whether some node of a region that is being emptied finds no place (R317). -/
def State.shrinkBlocked (s : State) (i : Inst) : Bool :=
  (List.range i.image.nodes.length).any fun n => match s.shrinkWanted i n with
    | .blocked => true
    | _ => false

/-- The changes among a list of findings. -/
def changesOf (ws : List Wanted) : List Change :=
  ws.filterMap fun w => match w with
    | .change c => some c
    | _ => none

/-- Whether some finding is a change that resources do not allow. -/
def anyBlocked (ws : List Wanted) : Bool :=
  ws.any fun w => match w with
    | .blocked => true
    | _ => false

/-- REWIRE_START (R312, R315 to R317): the change for the lowest node id; a node that no place can be found for pauses
the queue of its instance. -/
def execRewireStart (inst : Nat) (s : State) : Out :=
  .next (match s.inst? inst with
  | none => s
  | some i =>
    if !s.running inst || i.ctl.wave.isSome || s.debugged i then s
    else
      let ws := s.wanted i
      let s := { s with fresh := s.fresh + 1 }
      match changesOf ws with
      | c :: _ => s.startWave i c
      | [] =>
        let s := s.modCtl inst fun k => { k with state := if anyBlocked ws then .waiting else .idle }
        if s.shrinkBlocked i then s.setQueue i.queue fun q => { q with state := 2, cause := some .resized } else s)

/-! ### What a node takes (R234, R306, R307, R310, R311, R317) -/

/-- Every access that one of some agents has made is ordered before the later accesses of each (R125). -/
def State.orderAmong (s : State) (as : List Agent) : State :=
  let vc := as.foldl (fun v a => VClock.join v (s.hbOf a).vc) {}
  as.foldl (fun s a => s.orderAfter a vc) s

/-- The agents of a node. -/
def State.nodeAgents (s : State) (inst node : Nat) : List Agent :=
  (s.clonesOf inst node).map fun c => .facet inst node c

/-- A new clone with another facet's state: no token, and nothing of R167 (R307). -/
def FacetUnit.cloned (u : FacetUnit) (c region rank : Nat) : FacetUnit :=
  let ident := fun k => u.cls.toNat % 4 == 1 && u.combmask.getLsbD k
  { u with
    clone := c, region := region, rank := rank
    regs := (List.range 16).map fun k => if ident k then combineIdentity u.combineOp else u.regs.getD k 0
    ins := [[], [], [], []], outs := [[], [], [], []], cins := [[], []], couts := [[], []]
    spoiled := if u.cls.toNat % 4 == 1 then u.spoiled &&& ~~~u.combmask else u.spoiled
    inClk := List.replicate 6 (0, 0), halted := false
    seqcnt := [0, 0, 0, 0], seqnext := [none, none, none, none], tagreg := [0, 0, 0, 0], lastseq := 0
    firstMem := [[], [], [], []], l1 := [], live := {}, last := {}, restart := true, recent := []
    ceases := [], deal := 0, emitted := [0, 0, 0, 0], cemitted := [0, 0], arrived := [] }

/-- The outputs of a node that have arcs, data outputs 0 to 3 and control outputs 4 and 5. -/
def State.outPorts (s : State) (inst node : Nat) : List Nat := (List.range 6).filter (s.hasArc inst node)

/-- A token set among others by deal number, behind those of its own. -/
def insertDeal (t : Token) : List Token → List Token
  | [] => [t]
  | x :: xs => if t.deal < x.deal then t :: x :: xs else x :: insertDeal t xs

/-- A merge with every token of its clones taken, in deal order (R309). -/
def State.flushMerge (s : State) (m : Merge) : State :=
  let cs := s.clonesOf m.inst m.node
  let toks := (m.held.map Prod.snd ++ cs.flatMap (s.unmerged m)).foldl (fun l t => insertDeal t l) []
  let toks := toks ++ (s.endDue m).toList
  let bit := s.mergeBit m
  let mask : BitVec 4 := 1#4 <<< bit
  let s := cs.foldl (fun s c => s.modEntries (outSpot m.inst m.node c m.port) fun es =>
    es.map fun e => { e with mask := e.mask &&& ~~~mask }) s
  s.modMerge m.inst m.arc fun m =>
    { m with held := [], next := 0, ends := [], outq := m.outq ++ toks.map fun t => ⟨t, mask⟩ }

/-- The merges of a node. -/
def State.mergesOf (s : State) (inst node : Nat) : List Merge := s.merges.filter fun m => m.inst == inst && m.node == node

/-- The merges that a node's first clones bring, one for each arc that leaves it: what its outputs hold for the arc goes out through
it (R308). -/
def State.openMerges (s : State) (inst node : Nat) : State :=
  let arcs := s.arcs.filter fun a => a.inst == inst && !a.pc && a.pnode == node
  let ms := arcs.map fun a =>
    let bit := s.arcBit a
    ({ inst := inst, node := node, port := a.pport, arc := a.idx
       outq := ((s.entries (outSpot inst node 0 a.pport)).filter fun e => e.awaits bit).map fun e => { e with mask := 1#4 <<< bit } } : Merge)
  let s := (s.outPorts inst node).foldl (fun s p => s.modEntries (outSpot inst node 0 p) fun _ => []) s
  { s with merges := s.merges ++ ms }

/-- The merges of a node that has one clone left: what they hold goes out through its own outputs. -/
def State.closeMerges (s : State) (inst node : Nat) : State :=
  let ms := s.mergesOf inst node
  let s := ms.foldl (fun s m => s.modEntries (outSpot inst node 0 m.port) fun es => m.outq ++ es) s
  { s with
    merges := s.merges.filter fun m => !(m.inst == inst && m.node == node)
    splitters := s.splitters.filter fun x => !(x.inst == inst && x.node == node) }

/-- `s` with facets newly placed at ranks: where no other stands, the scratchpad's high-water mark begins again (R333). -/
def State.newAt (s : State) (ps : List (Nat × Nat)) : State :=
  let alone := ps.filter fun p => (s.facetsAt p.1 p.2).length ≤ 1
  { s with spadHigh := s.spadHigh.filter fun x => !alone.any fun p => x.1 == p.1 * 64 + p.2 }

/-- New clones `k` to `k + n - 1` of a node, each at its place (R307). -/
def State.addClones (s : State) (inst node k : Nat) (places : List (Nat × Nat)) : State :=
  let s := s.newAt places
  ((List.range places.length).zip places).foldl (fun s x =>
    match s.facet? inst node 0 0 with
    | none => s
    | some u =>
      match s.facet? inst node (if u.cls.toNat % 4 = 2 then (k + x.1) % k else 0) 0 with
      | some v => { s with facets := s.facets ++ [v.cloned (k + x.1) x.2.1 x.2.2] }
      | none => s) s

/-- The clone set of a node changed to `n` clones (R306 to R309, R125): deal numbers begin again at 0. -/
def State.reclone (s : State) (i : Inst) (node n : Nat) : State :=
  match s.facet? i.id node 0 0 with
  | none => s
  | some u =>
    let k := s.cloneCount i.id node
    let s := if k = 1 then s.openMerges i.id node else (s.mergesOf i.id node).foldl State.flushMerge s
    let past := s.nodeAgents i.id node
    let s := s.orderAmong past
    let s :=
      if n ≥ k then
        let s := s.addClones i.id node k ((s.clonePlaces i u).take (n - k))
        s.orderAmong (past ++ s.nodeAgents i.id node)
      else
        let gone := (s.clonesOf i.id node).filter fun c => c ≥ n
        let s := s.combine i.id node gone
        { s with facets := s.facets.filter fun v => !(v.inst == i.id && v.node == node && v.clone ≥ n) }
    let s := { s with
      splitters := s.splitters.filter fun x => !(x.inst == i.id && x.node == node)
      facets := s.facets.map fun (v : FacetUnit) => if v.inst = i.id ∧ v.node = node then { v with deal := 0 } else v }
    if s.cloneCount i.id node ≤ 1 then s.closeMerges i.id node else s

/-- Every member of a clone placed from a position of a region on (R48, R317). -/
def State.moveFacets (s : State) (inst node clone region pos : Nat) : State :=
  let chain := ((s.facet? inst node clone 0).map FacetUnit.chain).getD 1
  ({ s with facets := s.facets.map fun (v : FacetUnit) => if v.inst = inst ∧ v.node = node ∧ v.clone = clone then
      { v with region := region, rank := snakeRank (pos + v.pos), l1 := [] } else v }).newAt
    ((List.range chain).map fun k => (region, snakeRank (pos + k)))

/-- One facet at a rank. -/
def State.placeFacet (s : State) (inst node region rank : Nat) : State :=
  (s.modFacet inst node 0 0 fun v => { v with region := region, rank := rank, l1 := [] }).newAt [(region, rank)]

/-- The counters of a node and its verdict counts begin again at the next boundary (R304). -/
def State.restartCounts (s : State) (inst node : Nat) : State :=
  let drop := fun (l : List (Nat × Nat)) => l.filter fun p => p.1 != node
  let s := { s with facets := s.facets.map fun (v : FacetUnit) =>
    if v.inst = inst ∧ v.node = node then { v with restart := true } else v }
  s.modCtl inst fun k => { k with hot := drop k.hot, cold := drop k.cold, warm := drop k.warm }

/-- The change of a wavefront made at one of its facet or engine nodes: the accesses of the node's old configuration come before those
of its new one (R125). -/
def State.takeChange (s : State) (i : Inst) (c : Change) (node : Nat) : State :=
  let s := s.orderAmong (s.nodeAgents i.id node)
  match c with
  | .switch im =>
    match im.nodes[node]? with
    | none => s
    | some b =>
      { s with facets := s.facets.map fun (u : FacetUnit) =>
          if u.inst = i.id ∧ u.node = node ∧ b.kind = 0 then u.configure b
          else if s.facets.any fun v => v.inst == i.id && v.node == node && v.region == u.region && v.rank == u.rank then
            { u with l1 := [] }
          else u }
  | .clone n k => s.reclone i n k
  | .fold a b =>
    match s.facet? i.id a 0 0 with
    | some u => s.placeFacet i.id b u.region u.rank
    | none => s
  | .unfold a =>
    match s.facet? i.id a 0 0 with
    | none => s
    | some u =>
      match s.unfoldPlaces i u with
      | (r, k) :: _ => s.placeFacet i.id a r k
      | [] => s
  | .move n clone r u =>
    let s := s.moveFacets i.id n clone r u
    { s with engines := s.engines.map fun (e : EngineNode) =>
        if e.inst = i.id ∧ e.node = n then { e with region := r, unit := u } else e }
  | .repair _ => s

/-- A node has switched, with every clone that it now has: SWITCH goes out behind its last token (R312). -/
def State.passOn (s : State) (i : Inst) (w : Wave) (node : Nat) : State :=
  let w := { w with switched := w.switched ++ [(node, 0)] ++ ((s.clonesOf i.id node).filter fun c => c != 0).map fun c => (node, c) }
  let s := s.modCtl i.id fun k => { k with wave := some w }
  (s.arcs.filter fun a => a.inst == i.id && !a.pc && a.pnode == node).foldl (fun s a => s.placeSwitch w a) s

/-! ### When a node may switch (R277, R312) -/

/-- Whether a facet node may switch: every clone stands where its switch is due, and where the clones are to change no merge holds or
awaits more tokens than it has room for (R309; DESIGN CHOICE, log entry 96). -/
def State.facetSwitches (s : State) (w : Wave) (us : List FacetUnit) : Bool :=
  us.all s.mayswitch && match w.change, us with
    | .clone _ _, u :: _ => (s.mergesOf u.inst u.node).all fun m => s.dueFrom m ≤ 16
    | _, _ => true

/-- The SWITCH of each fed input popped: of a node that has finished or halted, whatever stands before it. -/
def FacetUnit.popSwitches (u : FacetUnit) (ks : List Nat) : FacetUnit :=
  if u.finished || u.halted then
    { u with ins := u.ins.map fun l => l.filter fun t => t.kind != 3, cins := u.cins.map fun l => l.filter fun t => t.kind != 3 }
  else ks.foldl (fun v k => if k < 4 then v.popIn k else v.popCtl (k - 4)) u

/-- NODE_SWITCH (R234, R312): a facet, streamer or chord engine node takes its new configuration (DEDUCED, log entry 37). -/
def execNodeSwitch (inst node : Nat) (s : State) : Out :=
  .next (match s.inst? inst with
  | none => s
  | some i =>
    match i.ctl.wave with
    | none => s
    | some w =>
      if !s.running inst || !w.affected.contains node || w.switched.contains (node, 0) then s
      else
        match s.engine? inst node with
        | some e =>
          let fed := s.fedPort inst node 0
          if e.finished then
            let s := s.modEngine inst node fun v => { v with ins := v.ins.filter fun t => t.kind != 3 }
            (s.takeChange i w.change node).passOn i w node
          else if e.idle && s.engineRoom e && (!fed || e.ins.head?.map Token.kind == some 3) then
            let s := s.modEngine inst node fun v => { v with ins := if fed then v.ins.drop 1 else v.ins }
            (s.takeChange i w.change node).passOn i w node
          else s
        | none =>
          let us := s.facets.filter fun u => u.inst == inst && u.node == node
          if us.isEmpty || !s.facetSwitches w us then s
          else
            let s := us.foldl (fun s u => s.modFacet inst node u.clone u.pos fun v => v.popSwitches (s.fedInputs v)) s
            ((s.takeChange i w.change node).restartCounts inst node).passOn i w node)

/-- Whether SWITCH stands at port `p` of an island. -/
def IslandUnit.atSwitch (u : IslandUnit) (p : Nat) : Bool := (u.head p).map Token.kind == some 3

/-- The orphan of an island (R277): a tile in ACCUM with SWITCH at port A, or DATA at port A with SWITCH at port B and
no weights; FIRED is reported, of the tile in ACCUM, and 0 where none is (DESIGN CHOICE, log entry 83). -/
def IslandUnit.orphan (u : IslandUnit) : Option (Nat × Nat) :=
  let accum := [0, 1].find? fun t => (u.tile t).state == .accum
  match accum with
  | some t =>
    if u.atSwitch 0 || (u.atSwitch 1 && u.weights.isNone && (u.head 0).map Token.kind == some 0) then some (t, (u.tile t).fired)
    else none
  | none =>
    if u.atSwitch 1 && u.weights.isNone && (u.head 0).map Token.kind == some 0 then some (u.turnTile.getD 0, 0) else none

/-- An island at its place in a wavefront: a new configuration, or a move with everything it holds (R276, R277). -/
def State.takeIsland (s : State) (u : IslandUnit) (c : Change) : State :=
  match c with
  | .switch im =>
    match im.nodes[u.node]? with
    | some b => s.modIsland u.region u.isl fun v => v.configure b
    | none => s
  | .move _ _ r k => s.modIsland u.region u.isl fun v => { v with region := r, isl := k, reload := none }
  | _ => s

/-- Whether a change is a move for repair, which an island makes in the midst of an accumulation (R277, R366). -/
def Change.mends (c : Change) : Bool :=
  match c with
  | .repair _ => true
  | _ => false

/-- ISLAND_SWITCH (R277). A move for a resize takes place under the same conditions as a new configuration, with both tiles EMPTY (DESIGN
CHOICE, log entry 83); one for repair has taken the state with it, and switches between firings. -/
def execIslandSwitch (r isl : Nat) (s : State) : Out :=
  .next (match s.island? r isl with
  | none => s
  | some u =>
    match (s.inst? u.inst).bind fun i => i.ctl.wave.map fun w => (i, w) with
    | none => s
    | some (i, w) =>
      if !s.running u.inst || !w.affected.contains u.node || w.switched.contains (u.node, 0) then s
      else if u.finished then
        let s := s.modIsland r isl fun v => { v with ins := v.ins.map fun l => l.filter fun t => t.kind != 3 }
        (s.takeIsland u w.change).passOn i w u.node
      else if !s.islandActs u || u.firing.isSome then s
      else
        match if w.change.mends then none else u.orphan with
        | some (t, fired) => s.islandFault u t 0 .switchOrphan (BitVec.ofNat 64 fired)
        | none =>
          let fed := (List.range 3).filter (s.fedPort u.inst u.node)
          let ports := (List.range 5).filter (s.hasArc u.inst u.node)
          if (fed.all u.atSwitch) && (w.change.mends || u.empty) && ports.all u.room then
            let s := s.modIsland r isl fun v => fed.foldl IslandUnit.pop v
            (s.takeIsland u w.change).passOn i w u.node
          else s)

/-! ### Orphans (R313, R314) -/

/-- The inputs that an instruction names: data inputs 0 to 3 with its tag test's, control inputs 4 and 5. -/
def inputsNamed (i : Instr) : List Nat := namedIns i

/-- The tokens ahead of SWITCH on input `k` of a facet, the arc's ring included (R314). -/
def State.aheadOfSwitch (s : State) (u : FacetUnit) (k : Nat) : Nat :=
  let ring := match s.arcInto u.inst false u.node k with
    | some a => a.ring
    | none => []
  min 255 (((u.input k) ++ ring).takeWhile fun t => t.kind != 3).length

/-- The record word of SWITCH_ORPHAN (R314). -/
def State.orphanWord (s : State) (u : FacetUnit) : Word64 :=
  let fed := s.fedInputs u
  pack ((List.range 4).map (fun k => (32 + 8 * k, s.aheadOfSwitch u k)) ++
    (List.range 2).map (fun k => (16 + 8 * k, s.aheadOfSwitch u (4 + k))) ++
    (List.range 4).map (fun k => (12 + k, (fed.contains k && u.atSwitch k).toNat)) ++
    (List.range 2).map fun k => (10 + k, (fed.contains (4 + k) && u.atSwitch (4 + k)).toNat))

/-- Whether a facet that is no merge node is stuck between SWITCH and older tokens on its declared inputs (R314). -/
def State.orphaned (s : State) (u : FacetUnit) : Bool :=
  let sw := (s.fedInputs u).filter u.atSwitch
  let live := (List.range 6).filter fun k => u.indecl.getLsbD k && match (u.input k).head? with
    | some t => t.kind < 2
    | none => false
  (sw.any fun k => k < 4) && (live.any fun k => k < 4) &&
  u.program.all fun i => neverReady i || !((inputsNamed i).any live.contains) || (inputsNamed i).any sw.contains

/-- The slot of an ordered MERGE that needs a NULL where SWITCH stands (R313), with the control value and the kinds at the two
heads (R174); tests 1 and 2 of R35 are the chain's leader's (R49). -/
def FacetUnit.mergeStuck (lead u : FacetUnit) : Option (Nat × Word64) :=
  (List.range 16).findSome? fun k => match u.instr k with
    | some (.merge w) =>
      match (u.cins.getD w.c.code []).head?, w.a.channel, w.b.channel with
      | some t, some (a, _), some (b, _) =>
        let bit := t.payload.getLsbD 0
        let (want, other) := if bit then (b, a) else (a, b)
        let stuck := t.kind == 0 && (u.headKind want.val == some 0 || u.headKind want.val == some 1) &&
          u.headKind other.val == some 3
        if stuck && lead.predsMatch w && lead.tagMatch w then
          some (k, mergeWord bit ((u.headKind a.val).getD 0) ((u.headKind b.val).getD 0))
        else none
      | _, _, _ => none
    | _ => none

/-- Whether a facet is a merge node (R313). -/
def FacetUnit.merges (u : FacetUnit) : Bool := u.program.any fun i => match i with
  | .merge _ => true
  | .mergeu _ => true
  | _ => false

/-- SWITCH_ORPHAN (R313, R314): the fault is precise, and the instance freezes. A chain is judged by each of its members' inputs: a
mismatch names the member, and an orphan the leader. -/
def execSwitchOrphan (r rank : Nat) (s : State) : Out :=
  .next ((s.facetsAt r rank).foldl (fun s u =>
    if !s.takesTurns u || !u.atRest then s
    else if u.merges then
      match (s.chainOf u).findSome? fun v => (u.mergeStuck v).map fun x => (v, x) with
      | some (v, k, word) => s.facetFault v k { cause := .predMismatch, other := word }
      | none => s
    else if ((List.range 16).all fun k => !s.slotReady u k) && (s.chainOf u).any s.orphaned then
      (s.facetFault u 0 { cause := .switchOrphan, other := s.orphanWord (((s.chainOf u).find? s.orphaned).getD u) }).modInst u.inst fun i =>
        { i with state := .frozen, stopCause := some .switchOrphan }
    else s) s)

/-! ### The commit (R312) -/

/-- In the clk after the last affected node has switched, the layout version rises and the rewire commits. -/
def State.commitWave (s : State) (i : Inst) : State :=
  match i.ctl.wave with
  | none => s
  | some w =>
    if !s.running i.id || !(w.affected.all fun n => w.switched.contains (n, 0)) then s
    else
      let s := { s with arcs := s.arcs.map fun (a : ArcSt) => if a.inst = i.id then { a with switchAt := none } else a }
      let s := s.modCtl i.id fun k => { k with state := .idle, wave := none }
      s.modInst i.id fun i =>
        { i with
          layver := i.layver + 1
          image := match w.change with
            | .switch im => im.underLaunch i.image
            | _ => i.image }

/-- The commits that are due. -/
def State.commitWaves (s : State) : State := s.insts.foldl State.commitWave s

/-- A quad that a partition is losing is free once no node of the partition stands in it (R338). -/
def State.releaseQuads (s : State) : State :=
  { s with parts := s.parts.map fun (p : Partition) =>
      if p.leaving = 0 then p
      else
        let mine := fun inst => match s.inst? inst with
          | some i => i.part == p.id
          | none => false
        let held := fun (q : Nat) =>
          (s.facets.any fun u => mine u.inst && u.region / 4 == q) || (s.islands.any fun u => mine u.inst && u.region / 4 == q) ||
          s.engines.any fun e => mine e.inst && e.region / 4 == q
        { p with leaving := (List.range 48).foldl (fun (l : BitVec 48) q => if held q then l else l &&& ~~~(1#48 <<< q)) p.leaving } }

end Sys2Proof.Machine
end

