-- ==== Sys2Proof/Machine/Save.lean ====
section
/-!
DEFINITION. The life of an instance (R58, R59, R315, R330 to R342): the detector's verdicts, freezing, saving and resuming,
faults acting on a domain, the watchdog, and the ends of instances and contexts.
-/
namespace Sys2Proof.Machine

/-! ### Verdicts (R58, R59) -/

/-- Whether an engine command of an instance is outstanding. -/
def State.commandsOut (s : State) (inst : Nat) : Bool :=
  (s.streams.any fun x => x.2.2.any fun c => c.inst == inst) || (s.chords.any fun c => c.2.puts.any fun p => p.inst == inst) ||
  (s.resvs.any fun v => v.inst == inst && v.answer.isNone) || s.engines.any fun e => e.inst == inst && !e.idle

/-- Whether a conductor holds a token at a port. -/
def Conductor.holds (c : Conductor) : Bool :=
  ((c.cports ++ c.stray).any fun p => !p.toks.isEmpty) || c.pports.any fun p => held p.entries

/-- The conductors of an instance. -/
def State.condsOf (s : State) (inst : Nat) : List Conductor := s.conds.filter fun c => c.inst == some inst

/-- Whether every sink of an instance has consumed END: each node without an output, and each conductor (R58, R212). -/
def State.sinksDone (s : State) (inst : Nat) : Bool :=
  (s.facets.all fun u => u.inst != inst || u.outdecl.toNat % 64 != 0 || u.finished || u.halted) &&
  (s.islands.all fun u => u.inst != inst || u.finished || (List.range 5).any (s.hasArc inst u.node)) &&
  (s.engines.all fun e => e.inst != inst || e.finished || s.hasArc inst e.node 0) &&
  (s.condsOf inst).all Conductor.halted

/-- Whether a fault of a unit of an instance waits to be handled: the unit counts as outstanding (R61, R245). -/
def State.faultsOut (s : State) (inst : Nat) : Bool :=
  (s.facets.any fun u => u.inst == inst && u.faulted.isSome) || (s.islands.any fun u => u.inst == inst && u.faulted) ||
  (s.engines.any fun e => e.inst == inst && e.faulted) || (s.condsOf inst).any fun c => !c.pend.isEmpty || c.handling.isSome

/-- COMPLETE (R58, R59). -/
def execComplete (inst : Nat) (s : State) : Out :=
  .next (if s.running inst && !s.holdsTokens inst && !((s.condsOf inst).any Conductor.holds) && s.sinksDone inst &&
      !s.commandsOut inst && !s.faultsOut inst then
    s.modInst inst fun i => { i with state := .complete }
  else s)

/-- The state with every account full: what a unit would do if its energy sufficed. -/
def State.fullyPaid (s : State) : State := { s with energy := s.energy.map fun _ => 1000000000000 }

/-- The state that a step leaves. -/
def Out.state (s : State) (o : Out) : State :=
  match o with
  | .next t => t
  | _ => s

/-- Whether a unit of an instance waits for energy alone (R58). -/
def State.energyWait (s : State) (inst : Nat) : Bool :=
  let t := s.fullyPaid
  (s.facets.any fun u => u.inst == inst && u.pos == 0 && s.takesTurns u && u.atRest &&
    (List.range 16).any fun k => t.slotReady u k && !s.slotReady u k) ||
  s.islands.any fun u => u.inst == inst &&
    let begins := fun (z : State) (o : Out) (p : IslandUnit → Bool) => (((o.state z).island? u.region u.isl).map p).getD false
    let waits := fun (f : State → Out) (p : IslandUnit → Bool) => begins t (f t) p && !begins s (f s) p
    (waits (execIslandFiring u.region u.isl) (fun v => v.firing.isSome) ||
    waits (execWeightReload u.region u.isl) (fun v => v.reload.isSome) ||
    [0, 1].any fun k => ((u.tile k).snap.map Snap.busy).getD false && !s.affords u.region rowCost)

/-- Whether anything of an instance is outstanding (R58, R61, R364): commands, accesses, fills, island work, faulted or
contained units. -/
def State.outstanding (s : State) (i : Inst) : Bool :=
  s.commandsOut i.id || (s.txns.any fun t => t.inst == i.id) || (s.walksWaiting.any fun w => i.regions.contains w.region) ||
  (s.handles.any fun h => h.inst == i.id && h.slots.any fun x => x.state == .filling) ||
  (s.facets.any fun u => u.inst == i.id && !u.atRest) ||
  (s.islands.any fun u => u.inst == i.id && (u.firing.isSome || u.reload.isSome || u.contain)) || s.faultsOut i.id ||
  s.energyWait i.id

/-- DEADLOCK (R58, R59): the instance freezes, its report is taken, and the fault acts on its domain. A conductor is neither firing nor
outstanding, whatever it does (R212). One that meets a freeze acts when the save is complete (R342). -/
def execDeadlock (inst : Nat) (s : State) : Out :=
  .next (match s.inst? inst with
  | none => s
  | some i =>
    let holds := s.holdsTokens inst || (s.condsOf inst).any Conductor.holds
    if !s.running inst || !holds || i.sinceFiring < 65536 || s.outstanding i then s
    else
      let es := s.deadlockEntries i
      let f : NodeFault := { cause := .deadlock, finfo := pack [(32, i.layver.toNat)] }
      let t := s.modInst inst fun i => { i with state := .frozen, stopCause := some .deadlock }
      if s.freezeDue i then t.modInst inst fun i => { i with owed := i.owed ++ [(f, es)] } else t.actOn inst f es)

/-! ### Moving an instance between regions (R335) -/

/-- Where an issuer stands once regions are renamed. -/
def Issuer.rename (f : Nat → Nat) : Issuer → Issuer
  | .conductor r => .conductor (f r)
  | .stream r st => .stream (f r) st
  | x => x

/-- What a wavefront says of regions, once regions are renamed. -/
def Wave.rename (f : Nat → Nat) (w : Wave) : Wave :=
  { w with
    change := match w.change with
      | .move node clone r unit => .move node clone (f r) unit
      | x => x
    old := w.old.map fun p => { p with region := f p.region }
    stood := w.stood.map fun p => { p with region := f p.region } }

/-- The unit that a fault names, once regions are renamed. -/
def NodeFault.rename (f : Nat → Nat) (x : NodeFault) : NodeFault :=
  { x with unit := match x.unit with
      | .island r isl => .island (f r) isl
      | .stream r st => .stream (f r) st
      | u => u }

/-- The scratchpad bytes of one region, at another: those below each rank's high-water mark (R333). -/
def State.copySpad (s : State) (r r' : Nat) : State :=
  let move := fun k => k % 0x1000000 + r' * 0x1000000
  let old := fun (k : Nat) => k / 0x1000000 == r'
  let mark := fun k => (lookup s.spadHigh 0 (k / 0x40000) + 1023) / 1024 * 1024
  let cells := s.spad.filter fun c => c.1 / 0x1000000 == r && c.1 % 0x40000 < mark c.1
  let kept := s.spad.filter fun c => !old c.1
  { s with
    spad := cells.foldl (fun m c => Memory.write m (move c.1) c.2) kept
    spadPoison := (s.spadPoison.filter fun k => !old k) ++
      (s.spadPoison.filter fun k => k / 0x1000000 == r && k % 0x40000 < mark k).map move
    spadHigh := (s.spadHigh.filter fun x => x.1 / 64 != r') ++
      (s.spadHigh.filter fun x => x.1 / 64 == r).map fun x => (r' * 64 + x.1 % 64, x.2) }

/-- The scratchpad bytes of a region gone. -/
def State.dropSpad (s : State) (r : Nat) : State :=
  { s with
    spad := s.spad.filter fun c => c.1 / 0x1000000 != r
    spadPoison := s.spadPoison.filter fun k => k / 0x1000000 != r
    spadHigh := s.spadHigh.filter fun x => x.1 / 64 != r }

/-- Everything that an instance has on its regions, at the regions that `f` gives for them. -/
def State.relocate (s : State) (inst : Nat) (f : Nat → Nat) : State :=
  { s with
    facets := s.facets.map fun (u : FacetUnit) => if u.inst = inst then { u with region := f u.region, l1 := [] } else u
    islands := s.islands.map fun (u : IslandUnit) => if u.inst = inst then { u with region := f u.region } else u
    engines := s.engines.map fun (e : EngineNode) => if e.inst = inst then { e with region := f e.region } else e
    handles := s.handles.map fun (h : Handle) => if h.inst = inst then { h with region := f h.region } else h
    streams := s.streams.map fun x =>
      if x.2.2.any fun c => c.inst == inst then
        (f x.1, x.2.1, x.2.2.map fun (c : StreamCmd) => { c with issuer := c.issuer.rename f })
      else x
    chords := s.chords.map fun x => (x.1, { x.2 with puts := x.2.puts.map fun (p : Put) =>
      if p.inst = inst then { p with region := f p.region, issuer := p.issuer.rename f } else p })
    resvs := s.resvs.map fun (v : Resv) =>
      if v.inst = inst then { v with region := f v.region, issuer := v.issuer.rename f } else v
    txns := s.txns.map fun (t : Txn) => if t.inst = inst then { t with issuer := t.issuer.rename f } else t
    insts := s.insts.map fun (i : Inst) =>
      if i.id = inst then
        { i with regions := i.regions.map f, ctl := { i.ctl with wave := i.ctl.wave.map (Wave.rename f) } }
      else i }

/-- A renaming of regions by a list of pairs. -/
def regionMap (ps : List (Nat × Nat)) (r : Nat) : Nat := lookup ps r r

/-- The number under which a saved instance keeps what it had at placement index `k`. -/
def parkRegion (inst k : Nat) : Nat := 256 * (inst + 1) + k

/-! ### Freeze and save (R211, R276, R315, R331 to R333) -/

/-- Whether an island stands where a freeze lets it stop (R276): a firing at the end of a diagonal, a drain at a row boundary. One
that waits for its fault to be handled stops too, and a row that waits at its assist begins again (`IslandUnit.freeze`). -/
def IslandUnit.stops (u : IslandUnit) : Bool :=
  u.faulted || u.broken || !u.contain && ((u.firing.map Firing.split).getD true) &&
    u.tiles.all fun x => ((x.snap.map fun p => !p.busy || p.col == 0)).getD true

/-- Whether an instance stands at firing boundaries: no firing has begun and is not complete (R203), no access is in flight, no
multicast line is awaited, and no unit is in containment (R331, R367). -/
def State.atBoundary (s : State) (i : Inst) : Bool :=
  (s.facets.all fun u => u.inst != i.id || ((!u.contain || u.broken) && u.chainFire.isNone)) &&
  (s.islands.all fun u => u.inst != i.id || u.stops) && (s.txns.all fun t => !(t.inst == i.id && t.returns)) &&
  s.streams.all fun x => x.2.2.all fun c => c.inst != i.id || !c.mcWait

/-- A facet's firing held at SUBNORMAL_ASSIST is as if it had not begun (R203). -/
def FacetUnit.unassist (u : FacetUnit) : FacetUnit :=
  if u.assist.isSome then { u with assist := none, faulted := none } else u

/-- Whether a node fault is the assist of a facet or of a drain: it is raised again after the resume (R203; DEDUCED for a drain, log
entry 82). -/
def NodeFault.unitAssist (f : NodeFault) : Bool :=
  f.cause == .subnormalAssist && match f.unit with
    | .facet _ _ _ => true
    | .island _ _ => true
    | _ => false

/-- A conductor as the freeze of its instance leaves it (R203, R211). -/
def Conductor.freeze (c : Conductor) : Conductor :=
  { c.abandon with
    pend := c.pend.filter fun f => !f.unitAssist
    handling := if (c.handling.map NodeFault.unitAssist).getD false then none else c.handling }

/-- An island as the freeze leaves it: a reload begins again after the resume, and so does the row of a drain that waits at its assist
(`held`), so that the drain stops at a row boundary (R276; DEDUCED, log entry 82). -/
def IslandUnit.freeze (u : IslandUnit) (held : Bool) : IslandUnit :=
  let back := fun (x : Tile) => { x with snap := x.snap.map fun p => { p with col := 0 } }
  let u := if u.reload.isSome then { u with reload := none, weights := none } else u
  { u with faulted := u.faulted && !held, tiles := u.tiles.map back }

/-- Whether an island waits at the assist of a drain (R279). -/
def State.drainAssist (s : State) (u : IslandUnit) : Bool :=
  s.conds.any fun c => (c.pend ++ c.handling.toList).any fun f => f.cause == .subnormalAssist && f.unit == .island u.region u.isl

/-- A stream command as the freeze leaves it: what it still has of a multicast line it reads for its region alone after the resume
(DESIGN CHOICE, log entry 88). -/
def StreamCmd.freeze (c : StreamCmd) : StreamCmd := if c.line.isEmpty then c else { c with line := [], single := true }

/-- FREEZE (R331): reloads are abandoned (R276), assists held are taken back (R203), and the conductors stop by R211: what waits for a
walk or an acknowledgement and completes first goes on. -/
def execFreeze (inst : Nat) (s : State) : Out :=
  .next (match s.inst? inst with
  | none => s
  | some i =>
    if s.stopped || !(i.state == .running || i.state == .frozen) || !s.freezeDue i || !s.atBoundary i then s
    else
      { s.abandonResvs inst with
        insts := s.insts.map fun (j : Inst) => if j.id = inst then { j with state := .freezing } else j
        streams := s.streams.map fun x =>
          (x.1, x.2.1, x.2.2.map fun (c : StreamCmd) => if c.inst = inst then c.freeze else c)
        facets := s.facets.map fun (u : FacetUnit) => if u.inst = inst then u.unassist else u
        islands := s.islands.map fun (u : IslandUnit) => if u.inst = inst then u.freeze (s.drainAssist u) else u
        conds := s.conds.map fun (c : Conductor) => if c.inst = some inst then c.freeze else c })

/-- The splitters and merges in a region's channel switch (R308). -/
def State.switchCount (s : State) (i : Inst) (r : Nat) : Nat :=
  (List.range i.image.nodes.length).foldl (fun n m =>
    let here := s.cloneCount i.id m > 1 && match s.facet? i.id m 0 0 with
      | some u => u.region == r
      | none => false
    if here then n + (s.switchNeeds i.id m).1 + (s.switchNeeds i.id m).2 else n) 0

/-- The bytes of the record of region `r`, at placement index `k` (R333); a facet that two nodes share counts once. -/
def State.regionSize (s : State) (i : Inst) (k r : Nat) : Nat :=
  let hw := fun (rank : Nat) => (lookup s.spadHigh 0 (r * 64 + rank) + 1023) / 1024 * 1024
  let fs := distinct ((s.facets.filter fun u => u.inst == i.id && u.region == r).map FacetUnit.rank)
  let es := s.engines.filter fun e => e.inst == i.id && if e.isChord then k == 0 else e.region == r
  let hs := s.handles.filter fun h => h.inst == i.id && h.region == r
  let n := 4096 + (if k = 0 then 128 * i.image.ports else 0) + fs.foldl (fun n k => n + 2048 + hw k) 0 +
    167936 * (s.islands.filter fun u => u.inst == i.id && u.region == r).length + 2048 * es.length +
    64 * hs.foldl (fun n h => n + 1 + h.slots.length) 0 + 1024 * s.switchCount i r
  (n + 4095) / 4096 * 4096

/-- The sizes of the records of an instance's regions. -/
def State.regionSizes (s : State) (i : Inst) : List Nat :=
  ((List.range i.regions.length).zip i.regions).map fun x => s.regionSize i x.1 x.2

/-- The header of a record (R332). -/
def Inst.header (i : Inst) (total : Nat) : List Byte :=
  Word.toBytes 4 0x4D53564A ++ Word.toBytes 2 1 ++ Word.toBytes 2 i.regions.length ++ Word.toBytes 8 total ++
  Word.toBytes 4 i.layver.toNat ++ Word.toBytes 2 i.ctx.toNat ++ Word.toBytes 2 i.queue ++ Word.toBytes 4 0x100 ++
  Word.toBytes 4 0x1000 ++ List.replicate 32 0 ++ (1 :: i.packet.drop 1) ++ List.replicate 128 0

/-- The directory of a record (R332), the first region's record standing at `off`. -/
def directory : List (Nat × Nat) → Nat → List Byte
  | [], _ => []
  | (r, n) :: rest, off =>
    [BitVec.ofNat 8 r, 0, 0, 0] ++ Word.toBytes 4 off ++ Word.toBytes 4 n ++ [0, 0, 0, 0] ++ directory rest (off + n)

/-- The parts of a record that the device encodes, from 0x1000 on (R332). -/
def opaquePart (key n : Nat) : List Byte := (List.range n).map (Config.saveByte key)

/-- Bytes stored in blocks of 4 KiB. -/
def State.storeRun (s : State) (ctx : BitVec 12) (pins : List HeldPage) (va : Nat) (bs : List Byte) : State :=
  (List.range ((bs.length + 4095) / 4096)).foldl (fun s k =>
    match s.storeVa ctx (va + 4096 * k) ((bs.drop (4096 * k)).take 4096) false pins with
    | .ok s => s
    | .error _ => s) s

/-- The address of an instance's record. -/
def State.recordVa (s : State) (i : Inst) : Nat := ((s.queue? i.queue).map fun q => q.savebase.toNat).getD 0 + i.saveOff

/-- A conductor without an instance: its caches are empty, and the device runtime stands at its trap vector (log
entry 12). -/
def Conductor.freed (c : Conductor) : Conductor :=
  { tvec := c.tvec, savea := c.savea, saveb := c.saveb, bkpta := c.bkpta, bkptc := c.bkptc, pc := c.tvec }

/-- A saved conductor on another conductor's place, with every register saved (R224); the caches are not (R331). -/
def Conductor.placed (k c : Conductor) (f : Nat → Nat) : Conductor :=
  { k with
    l1 := [], ic := c.ic, pend := k.pend.map (NodeFault.rename f), handling := k.handling.map (NodeFault.rename f) }

/-- What the agents of an instance know together. -/
def State.knownTo (s : State) (i : Inst) : VClock :=
  (s.instAgents i).foldl (fun v a => VClock.join v (s.hbOf a).vc) i.before

/-- The faults that a freeze put off act, once the save is complete (R342). -/
def State.actOwed (s : State) (i : Inst) : State :=
  i.owed.foldl (fun s x => s.actOn i.id x.1 x.2) (s.modInst i.id fun i => { i with owed := [] })

/-- Whether the streamers let a save go on: each command of an instance stands at a 128-byte boundary (R289). -/
def State.streamsStand (s : State) (inst : Nat) : Bool :=
  s.streams.all fun x => x.2.2.all fun c => c.inst != inst || c.off % 128 == 0

/-- SAVE_DONE (R331 to R333): the record is written, and the regions are free. -/
def execSaveDone (inst : Nat) (s : State) : Out :=
  .next (match s.inst? inst with
  | none => s
  | some i =>
    let cs := i.regions.filterMap s.cond?
    if s.stopped || s.pins.shdn || i.state != .freezing || !(cs.all Conductor.letsSave) || !s.streamsStand inst then s
    else
      let sizes := s.regionSizes i
      let total := sizes.foldl (fun n k => n + k) 0x5000
      let head := i.header total
      let dir := directory (i.regions.zip sizes) 0x5000
      let va := s.recordVa i
      let pins := ((s.queue? i.queue).map Queue.pinned).getD []
      let key := s.fresh
      let s := { s with fresh := s.fresh + 1 }
      let s := s.storeRun i.ctx pins va head
      let s := s.storeRun i.ctx pins (va + 0x100) dir
      let s := s.storeRun i.ctx pins (va + 0x1000) (opaquePart key (total - 0x1000))
      let past := s.knownTo i
      let ps := (i.regions.zip (List.range i.regions.length)).map fun x => (x.1, parkRegion inst x.2)
      let s := ps.foldl (fun s x => s.copySpad x.1 x.2) s
      let s := i.regions.foldl (fun s r => s.modCond r Conductor.freed) s
      let s := { s with walksWaiting := s.walksWaiting.filter fun w => !i.regions.contains w.region }
      let s := (s.relocate inst (regionMap ps)).modInst inst fun i =>
        { i with
          state := .saved, saved := cs, saveKey := key, saveHead := head ++ dir, saveTotal := total, dir := ps.map Prod.fst
          before := past }
      s.actOwed i)

/-- Whether a record still holds what was saved: the integrity check of R332. -/
def State.recordIntact (s : State) (i : Inst) : Bool :=
  let va := s.recordVa i
  let reads := fun (va n : Nat) => (List.range ((n + 4095) / 4096)).flatMap fun k =>
    ((s.queue? i.queue).bind fun q => s.peek q (va + 4096 * k) (min 4096 (n - 4096 * k))).getD []
  reads va i.saveHead.length == i.saveHead && reads (va + 0x1000) (i.saveTotal - 0x1000) == opaquePart i.saveKey (i.saveTotal - 0x1000)

/-- Whether saved regions may be taken again: distinct usable regions that no other instance stands on (R335). -/
def State.resumable (s : State) (i : Inst) (regions : List Nat) : Bool :=
  match s.part? i.part with
  | some p => regions.length == i.regions.length && s.placeable p regions
  | none => false

/-- A saved instance on its new regions (R125, R315, R335). -/
def State.restore (s : State) (i : Inst) (regions : List Nat) : State :=
  let ps := i.regions.zip regions
  let s := ps.foldl (fun s x => (s.copySpad x.1 x.2).dropSpad x.1) s
  let s := s.relocate i.id (regionMap ps)
  let s := (regions.zip i.saved).foldl (fun s x => s.modCond x.1 fun c =>
    x.2.placed c (regionMap (i.dir.zip regions))) s
  let moved := regions != i.dir
  let s := { s with handles := s.handles.map fun (h : Handle) =>
    if h.inst = i.id ∧ h.was.contains h.region = false then { h with was := h.was ++ [h.region] } else h }
  let s := s.modInst i.id fun i =>
    { i with
      state := if i.stopCause.isSome then .frozen else .running, saved := [], saveHead := [], saveTotal := 0
      layver := if moved then i.layver + 1 else i.layver }
  match s.inst? i.id with
  | some j => (s.instAgents j).foldl (fun s a => s.orderAfter a i.before) s
  | none => s

/-- RESUME (R332, R335): its queue holds the partition; a record that fails its check is a fault of the instance. -/
def execResume (inst : Nat) (regions : List Nat) (s : State) : Out :=
  .next (match s.inst? inst with
  | none => s
  | some i =>
    if s.stopped || i.state != .saved then s
    else match s.takePartition i.queue with
      | none => s
      | some s' =>
        if !s'.resumable i regions then s
        else if s'.recordIntact i then s'.restore i regions
        else s'.actOn inst { cause := .killed, finfo := pack [(32, i.layver.toNat)] } [])

/-! ### The end of an instance (R302, R330, R337) -/

/-- A release for each valid record of an instance's handles (R302). -/
def State.releaseAll (s : State) (i : Inst) : State :=
  (s.handles.filter fun h => h.inst == i.id).foldl (fun s h =>
    (h.recs.filter PeerRec.valid).foldl (fun s y =>
      match s.routeAnew i.id i.ctx (Word.field y.target 39 36) y.route with
      | (s, some e) => s.sendRelease e y.target i.id i.ctx y.ztag i.killed
      | (s, none) => s) s) s

/-- The generations of an instance's slots, each FREE again (R283, R302) (DEDUCED, log entry 55). -/
def State.keepGens (s : State) (i : Inst) : State :=
  { s with gens := (s.handles.filter fun h => h.inst == i.id).foldl (fun g h =>
      let r := h.was.getLastD h.region
      ((List.range h.slots.length).zip h.slots).foldl (fun g x =>
        assign g (genKey r h.num x.1) (if x.2.state = .free then x.2.gen else x.2.gen + 1)) g) s.gens }

/-- An instance gone: its units, handles and commands with it, its regions free. -/
def State.removeInst (s : State) (i : Inst) : State :=
  let s := (s.releaseAll i).keepGens i
  let s := s.unloaded i.id
  let s := { s with
    handles := s.handles.filter fun h => h.inst != i.id
    streams := s.streams.filter fun x => !x.2.2.any fun c => c.inst == i.id
    chords := s.chords.map fun x => (x.1, { x.2 with puts := x.2.puts.filter fun p => p.inst != i.id })
    resvs := s.resvs.filter fun v => v.inst != i.id
    txns := s.txns.filter fun t => t.inst != i.id || t.flit.typ == 11
    walksWaiting := s.walksWaiting.filter fun w => !i.regions.contains w.region
    conds := s.conds.map fun (c : Conductor) => if c.inst = some i.id then c.freed else c
    insts := s.insts.filter fun j => j.id != i.id }
  (i.regions.filter fun r => 256 ≤ r).foldl State.dropSpad s

/-- The cause that a code names (R360). -/
def causeOf (n : Nat) : Option Cause :=
  [Cause.illegal, .reservedField, .formatCombo, .config, .predMismatch, .switchOrphan, .stateClass, .pageFault, .access,
    .misalign, .addressForm, .race, .poison, .trapInsn, .brk, .watchdog, .killed, .deadlock].find? fun c => causeCode c == n

/-- The fault that a conductor's trap handler has before it: the node fault in hand, or its own trap (R226, R337). -/
def State.trapped (s : State) (r : Nat) (c : Conductor) : Option NodeFault :=
  match c.handling with
  | some f => if f.cause = .subnormalAssist then none else some f
  | none =>
    if c.ppl then none
    else (causeOf (Word.field c.cause 7 0)).map fun k =>
      { cause := k, info := c.cause.extractLsb' 16 16, faddr := c.faddr
        finfo := if k = .config ∨ k = .stateClass then c.finfo else s.condParty r, other := if k = .race then c.finfo else 0 }

/-- The node faults of an instance that nothing has handled: they come too late to be recorded, and count (R337). -/
def State.countLate (s : State) (i : Inst) : State :=
  if i.fault.isNone then s
  else
    let late := i.regions.flatMap fun r => match s.cond? r with
      | some c => (c.pend.filter fun f => f.cause != .subnormalAssist && f.cause != .brk) ++
          (if c.pl && !c.told then s.trapped r c else none).toList
      | none => []
    late.foldl (fun s f => s.actOn i.id f []) s

/-- RETIRE (R330, R337, R339): once every acknowledgement has come; the queue's timer restarts, and the signal is made. -/
def execRetire (inst : Nat) (s : State) : Out :=
  .next (match s.inst? inst with
  | none => s
  | some i =>
    if s.stopped || !s.retirable i then s
    else
      let past := s.knownTo i
      let s := ((s.countLate i).removeInst i).beat i.queue
      match s.queue? i.queue with
      | some q => if i.signals then s.signal q i.packet past else s
      | none => s)

/-! ### Faults, watchdog and kill (R337, R339, R340) -/

/-- FAULT_DOMAIN_ACTION (R241, R337, R361): the device runtime writes the record of the fault in hand, and acts, once (DESIGN CHOICE, log
entry 12). One that meets a freeze acts when the save is complete (R342); one that comes while its instance is being discarded counts
in LATER. -/
def execFaultDomainAction (r : Nat) (s : State) : Out :=
  .next (match s.cond? r with
  | none => s
  | some c =>
    match if c.pl && !c.told then s.instOf r else none with
    | none => s
    | some i =>
      match if s.stopped then none else s.trapped r c with
      | none => s
      | some f =>
        let t := s.modCond r fun c => { c with told := true }
        match i.state with
        | .freezing => t.modInst i.id fun i => { i with owed := i.owed ++ [(f, f.entries)] }
        | .discarding => if i.fault.isSome then t.actOn i.id f f.entries else s
        | .running | .frozen =>
          if s.freezeDue i then t.modInst i.id fun i => { i with owed := i.owed ++ [(f, f.entries)] }
          else t.actOn i.id f f.entries
        | .complete => t.actOn i.id f f.entries
        | .saved => s)

/-- A region reset, its scratchpads scrubbed to zero (R339). -/
def State.resetRegion (s : State) (r : Nat) : State :=
  let s := { s with
    tlb := s.tlb.filter fun t => t.region != r
    walksWaiting := s.walksWaiting.filter fun w => w.region != r }
  (s.dropSpad r).modCond r fun _ => {}

/-- Whether every other queue of a partition is saved (R339). -/
def State.othersSaved (s : State) (p : Partition) (n : Nat) : Bool :=
  s.insts.all fun i => i.part != p.id || i.queue == n || i.state == .saved

/-- WATCHDOG (R339, R342, R380), the expiry of a progress timer behind a retirement of the same clk: while the partition's other queues
are saved, the queue's instances are discarded; once their acknowledgements have come, the regions are reset and the queue put into
ERROR (DEDUCED, log entry 59). -/
def execWatchdog (n : Nat) (s : State) : Out :=
  .next (match s.queue? n with
  | none => s
  | some q =>
    match ((s.context? q.ctx).map Context.part).bind s.part? with
    | none => s
    | some p =>
      if s.stopped || p.holder != some n || q.state != 1 || !q.expired || s.retireDue n || !s.othersSaved p n then s
      else if !q.biting then
        if (s.startedOf n).isEmpty then s
        else (s.startedOf n).foldl (fun s i => s.discard i.id false) (s.modQueue n fun q => { q with biting := true })
      else if s.insts.any fun i => i.queue == n then s
      else
        let rs := (List.range 192).filter fun r => p.owned.getLsbD (r / 4)
        (rs.foldl State.resetRegion s).queueError n .watchdog)

/-- Whether a release of a context still counts against its kill: not once its own LZTIMEOUT has passed (R302, R340). -/
def State.releaseDue (s : State) (c : Context) : Bool :=
  s.txns.any fun t => t.ctx == c.id && (t.flit.typ != 11 || s.clk < t.issued + 1000 * t.lz.getD c.lz)

/-- KILL_COMPLETE (R340, R380): the context's retention ranges are released (R104), its writes are ordered before whatever the next
owner of its memory does (R132), DEAD is written and the host interrupted. -/
def execKillComplete (ctx : BitVec 12) (s : State) : Out :=
  .next (match s.context? ctx with
  | none => s
  | some c =>
    if s.stopped || c.state ≠ 1 || (s.insts.any fun i => i.ctx == ctx) || s.releaseDue c ||
        (s.queues.any fun q => q.ctx == ctx && q.state != 3) then s
    else
      let s := (s.unpinCtx ctx).dropPool fun e => e.ctx == ctx
      (({ s with tracked := s.tracked.filter fun t => t.2.ctx != ctx }).setCtxState ctx 2).interrupt 0 1)

end Sys2Proof.Machine
end

