-- ==== Sys2Proof/Machine/Links.lean ====
section
/-!
DEFINITION. Ports, links and remote accesses (R343 to R350, R355, R358, R359): the states of a port, flits and frames
as they are received, accesses performed at their home device, and their answers.
-/
namespace Sys2Proof.Machine

/-! ### Port states (R344, R345) -/

/-- Whether no port of a route entry is UP or DEGRADED. -/
def State.noPort (s : State) (e : Word64) : Bool := (List.range 32).all fun q => !(Word.bit e q && s.portUp (routeKind e) q)

/-- A put as a port of its kind is declared down (R355, R356): on that port it becomes quiet; with no allowed port left its
timeout counts from now. -/
def State.putDown (s : State) (k : PortKind) (p : Nat) (x : Put) : Put :=
  if x.kind ≠ k then x
  else
    let now := s.countedOf x.inst
    { x with
      quietAt := if x.port = some p then some now else x.quietAt
      failAt := if x.failAt.isNone ∧ s.noPort x.route then some now else x.failAt }

/-- A port that is UP or DEGRADED is declared down (R344) (DESIGN CHOICE, log entry 32); the resends of its frames are counted
anew once it is back (R347; DESIGN CHOICE, log entry 13). -/
def State.portDown (s : State) (k : PortKind) (p : Nat) : State :=
  if !s.portUp k p then s
  else
    let s := s.modPort k p fun x =>
      { x with state := 4, since := s.clk, downAt := s.clk, lanes := 0, unacked := [], rxBad := 0, downs := saturate16 x.downs }
    let onPort := fun (t : Txn) => t.port == some p && ((k == .scaleUp && t.isAccess) || (t.flit.typ == 11 && t.route.map routeKind == some k))
    let quiet := fun (t : Txn) => if onPort t then { t with quietAt := some s.clk } else t
    let hold := fun (v : Resv) => if v.port == some p && routeKind v.route == k && v.answer.isNone then
        { v with quietAt := some (s.countedOf v.inst) } else v
    let again := fun (f : Frame) => if k = .scaleOut ∧ f.port = p then { f with resends := 0 } else f
    { s with
      peers := s.peers.map fun y => (y.1, { y.2 with unacked := y.2.unacked.map again })
      chords := s.chords.map fun c => (c.1, { c.2 with puts := c.2.puts.map (s.putDown k p) })
      resvs := s.resvs.map hold
      txns := s.txns.map quiet }

/-- PORT_ENABLE (R344, R391): DISABLED to TRAINING; a port held disabled at boot stays so, and a scale-out port while ETHERTYPE is 0
(R382). -/
def execPortEnable (k : PortKind) (p : Nat) (s : State) : Out :=
  .next (if s.stopped || (s.port k p).en || (s.port k p).held || (k == .scaleOut && Word.field s.regs.socfg 15 0 == 0) then s
  else s.modPort k p fun x => { x with en := true, state := 1, since := s.clk })

/-- PORT_DISABLE (R344): a port that is UP or DEGRADED is declared down first. -/
def execPortDisable (k : PortKind) (p : Nat) (s : State) : Out :=
  .next (if !(s.port k p).en then s
  else (s.portDown k p).modPort k p fun x => { x with en := false, state := 0, since := s.clk, lanes := 0 })

/-- What waited for a port goes on as one comes up (R355): puts' timeouts end, and reservations and releases that found no
port are sent. -/
def State.portRaised (s : State) (k : PortKind) (p : Nat) : State :=
  let mine := fun (e : Word64) => routeKind e == k && Word.bit e p
  let wake := fun (x : Put) => if mine x.route ∧ x.expired (s.countedOf x.inst) = false then { x with failAt := none } else x
  let s : State := { s with chords := s.chords.map fun c => (c.1, { c.2 with puts := c.2.puts.map wake }) }
  let late := s.resvs.filter fun v => v.port.isNone && v.answer.isNone && !v.late && mine v.route
  let s := late.foldl (fun s v => s.send k p (s.resvFlit v)) s
  let s := { s with resvs := s.resvs.map fun (v : Resv) => if late.contains v then { v with port := some p } else v }
  let due := fun (t : Txn) => t.port.isNone && match t.route with
    | some e => mine e
    | none => false
  let s := (s.txns.filter due).foldl (fun s t => s.send k p t.flit) s
  { s with txns := s.txns.map fun (t : Txn) => if due t then { t with port := some p } else t }.flushReplies

/-- TRAINING_SUCCESS (R344, R345): within 100 ms, with 8 data lanes, or 4 to 7 on a scale-up port. Link sequence numbers begin anew
(DESIGN CHOICE, log entry 32). -/
def execTrainingSuccess (k : PortKind) (p lanes : Nat) (peer : BitVec 8) (s : State) : Out :=
  .next (
  let x := s.port k p
  let ok := lanes == 8 || (k == .scaleUp && 4 ≤ lanes && lanes < 8)
  if s.stopped || x.state != 1 || !ok || x.since + 100000000 ≤ s.clk then s
  else
    let s := s.modPort k p fun x =>
      { x with
        state := if lanes = 8 then 2 else 3, since := s.clk, lastRx := s.clk, good := lanes, unacked := [], rxBad := 0
        txSeq := 0, rxSeq := 0
        lanes := if lanes = 8 then 8 else 4
        peer := if k = .scaleUp then peer else 0xFF }
    s.portRaised k p)

/-- TRAINING_TIMEOUT (R344): no success within 100 ms. -/
def execTrainingTimeout (k : PortKind) (p : Nat) (s : State) : Out :=
  .next (if s.stopped || (s.port k p).state != 1 || s.clk < (s.port k p).since + 100000000 then s
  else s.modPort k p fun x => { x with state := 4, since := s.clk })

/-- LANE_FAILURE (R344): the spare lane replaces the lane; with none left the port is DEGRADED on 4 lanes, or DOWN when
fewer than 4 are held; a scale-out port goes DOWN. -/
def execLaneFailure (k : PortKind) (p lane : Nat) (s : State) : Out :=
  .next (
  let x := s.port k p
  if s.stopped || !s.portUp k p || lane ≥ 8 then s
  else if k = .scaleOut then s.portDown k p
  else if x.spare = 0xF then s.modPort k p fun x => { x with spare := BitVec.ofNat 4 lane }
  else if x.good ≤ 4 then s.portDown k p
  else s.modPort k p fun x => { x with state := 3, lanes := 4, good := x.good - 1 })

/-- RECEIVE_TIMEOUT (R344): nothing received for 1 µs. -/
def execReceiveTimeout (k : PortKind) (p : Nat) (s : State) : Out :=
  .next (if s.stopped || s.clk < (s.port k p).lastRx + 1000 then s else s.portDown k p)

/-- The most replays of one flit that a port has sent and that is not acknowledged (R344). -/
def Port.replays (x : Port) : Nat := x.unacked.foldl (fun n m => max n m.tries) 0

/-- REPLAY_LIMIT (R344): one flit, sent or received, replayed 32 times in a row. -/
def execReplayLimit (k : PortKind) (p : Nat) (s : State) : Out :=
  .next (if s.stopped || max (s.port k p).replays (s.port k p).rxBad < 32 then s else s.portDown k p)

/-- Link-level retry sends again, in order, the flits of a scale-up port that are not acknowledged (R344 to R346). When it does so is not
the spec's to say: the agenda brings the turn (DESIGN CHOICE, log entry 32). -/
def State.relink (s : State) (p : Nat) : State :=
  if s.stopped || !s.portUp .scaleUp p then s
  else
    let x := s.port .scaleUp p
    let again := x.unacked.map fun (m : Sent) => { m with ack := x.rxSeq, tries := m.tries + 1 }
    { s with outbox := s.outbox ++ again }.modPort .scaleUp p fun y =>
      { y with retry := again.foldl (fun n _ => saturate16 n) y.retry, unacked := again }

/-- DOWN_RETRY (R344): 1 ms after going DOWN an enabled port trains again. -/
def execDownRetry (k : PortKind) (p : Nat) (s : State) : Out :=
  .next (
  let x := s.port k p
  if s.stopped || x.state != 4 || !x.en || s.clk < x.since + 1000000 then s
  else s.modPort k p fun x => { x with state := 1, since := s.clk })

/-! ### Flits and frames as received (R346, R347) -/

/-- One bit of the CRC-64 of ECMA-182 (PRESUMED, log entry 14). -/
def crcBit (c : BitVec 64) (b : Bool) : BitVec 64 :=
  if c.getLsbD 63 != b then (c <<< 1) ^^^ 0x42F0E1EBA9EA3693 else c <<< 1

/-- The CRC-64 of ECMA-182 over bytes, each from its highest bit down. -/
def crc64 (bs : List Byte) : BitVec 64 :=
  bs.foldl (fun c b => [7, 6, 5, 4, 3, 2, 1, 0].foldl (fun c k => crcBit c (b.getLsbD k)) c) 0

/-- A flit laid out as R346 has it, under its two link sequence numbers. -/
def flitBytes (f : Flit) (seq ack : Nat) : List Byte :=
  let num := fun n v => Word.toBytes n v
  let body := num 1 f.typ ++ [f.src, f.dst] ++ num 1 ((f.payload.length + 15) / 16) ++ num 2 f.ctx.toNat ++ num 2 f.txid.toNat ++
    num 8 f.addr.toNat ++ num 4 f.ztag.toNat ++ num 4 f.attr.toNat ++ num 2 f.psn.toNat ++ List.replicate 6 0 ++
    (f.payload ++ List.replicate 192 0).take 192 ++ num 4 seq ++ num 4 ack ++ List.replicate 16 0
  body ++ num 8 (crc64 body).toNat

/-- The bytes that leave a port (R346, R347): a flit, or an Ethernet frame with the transport header and one flit, whose own link
sequence numbers are 0. Ethernet's fields go highest byte first (PRESUMED, log entry 14). -/
def Sent.bytes (m : Sent) : List Byte :=
  match m.kind with
  | .scaleUp => flitBytes m.flit m.seq m.ack
  | .scaleOut =>
    (Word.toBytes 6 m.mac).reverse ++ (Word.toBytes 6 (Word.field m.socfg 63 16)).reverse ++
    (Word.toBytes 2 (Word.field m.socfg 15 0)).reverse ++ Word.toBytes 4 m.seq ++ Word.toBytes 4 m.ack ++ [1] ++ List.replicate 7 0 ++
    flitBytes m.flit 0 0

/-- Whether the CRC of a flit of 256 bytes holds (R346). -/
def crcOk (raw : List Byte) : Bool := raw.length == 256 && (crc64 (raw.take 0xF8)).toNat == fieldAt raw 0xF8 8

/-- The fields of a flit (R346). A write's ATTR holds its bytes (DESIGN CHOICE, log entry 13). -/
def flitOf (raw : List Byte) : Flit :=
  let typ := fieldAt raw 0 1
  let attr := fieldAt raw 0x14 4
  let n := 16 * min 12 (fieldAt raw 3 1)
  { typ := typ, src := BitVec.ofNat 8 (fieldAt raw 1 1), dst := BitVec.ofNat 8 (fieldAt raw 2 1)
    ctx := BitVec.ofNat 12 (fieldAt raw 4 2), txid := BitVec.ofNat 16 (fieldAt raw 6 2)
    addr := BitVec.ofNat 64 (fieldAt raw 8 8), ztag := BitVec.ofNat 32 (fieldAt raw 0x10 4)
    attr := BitVec.ofNat 32 attr, psn := BitVec.ofNat 16 (fieldAt raw 0x18 2)
    payload := (raw.drop 0x20).take (if typ = 3 ∧ attr ≠ 0 then min n attr else n) }

/-- The step that a flit received by port `p` leads to, by its TYPE (R346); ERR is an answer. -/
def flitStep (k : PortKind) (p : Nat) (f : Flit) : Option Instr :=
  match k, f.typ with
  | .scaleUp, 1 => some (.remoteRequest f p)
  | .scaleUp, 3 => some (.remoteRequest f p)
  | .scaleUp, 5 => some (.remoteRequest f p)
  | .scaleUp, 2 => some (.remoteResponse f)
  | .scaleUp, 4 => some (.remoteResponse f)
  | .scaleUp, 6 => some (.remoteResponse f)
  | .scaleUp, 13 => some (.remoteResponse f)
  | k, 7 => some (.putPacket f k p)
  | _, 8 => some (.putack f)
  | _, 9 => some (.reservationRequest f)
  | _, 10 => some (.reservationAnswer f)
  | _, 11 => some (.releaseRequest f)
  | _, _ => none

/-- A flit in good order is acted on: its step comes next. RELACK ends its release. -/
def State.actOnFlit (s : State) (k : PortKind) (p : Nat) (f : Flit) : State :=
  let s := s.hear f.sender
  match flitStep k p f with
  | some i => s.push (.event i)
  | none =>
    if f.typ = 12 then
      { s with txns := s.txns.filter fun t => !(t.flit.typ == 11 && t.flit.txid == f.txid && t.flit.dst == f.src) }
    else s

/-- Whether a flit is one that no device takes: a reserved TYPE, or a PUT of more than 128 bytes (R346). -/
def flitWrong (f : Flit) : Bool := 15 ≤ f.typ || (f.typ == 7 && 128 < f.payload.length)

/-- Whether a port takes a flit of a TYPE in this clk: one that is UP or DEGRADED, or, for a PUTACK, one declared down in this very clk
(R358). -/
def State.takes (s : State) (k : PortKind) (p : Nat) (putack : Bool) : Bool :=
  !s.stopped && (s.portUp k p || (putack && s.downNow k p))

/-- A flit that is discarded (R346). -/
def State.discardFlit (s : State) (k : PortKind) (p : Nat) : State := s.modPort k p fun x => { x with discarded := x.discarded + 1 }

/-- Whether sequence number `n` comes after `m`, within half the range. -/
def seqAfter (n m : Nat) : Bool := 0 < (n + 2 ^ 32 - m) % 2 ^ 32 && (n + 2 ^ 32 - m) % 2 ^ 32 < 2 ^ 31

/-- FLIT_RECEIVE (R346): a flit whose CRC fails is replayed; its link sequence acknowledges what was sent; one that is not the next in
order, a repeat or one after a gap, is left to the replay (DEDUCED, log entry 87); one that no device takes, or another device's, is discarded. -/
def execFlitReceive (p : Nat) (raw : List Byte) (s : State) : Out :=
  .next (if !s.takes .scaleUp p (fieldAt raw 0 1 == 8) then s
  else
    let s := s.modPort .scaleUp p fun x => { x with lastRx := s.clk }
    if !crcOk raw then s.modPort .scaleUp p fun x => { x with retry := saturate16 x.retry, rxBad := x.rxBad + 1 }
    else
      let f := flitOf raw
      let seq := fieldAt raw 0xE0 4
      let ack := fieldAt raw 0xE4 4
      let inOrder := seq == ((s.port .scaleUp p).rxSeq + 1) % 2 ^ 32
      let s := s.modPort .scaleUp p fun x =>
        { x with rxBad := 0, unacked := x.unacked.filter fun m => seqAfter m.seq ack, rxSeq := if inOrder then seq else x.rxSeq }
      if !inOrder then s
      else if flitWrong f ∨ f.dst ≠ s.devId then s.discardFlit .scaleUp p
      else s.actOnFlit .scaleUp p f)

/-- A peer once frame `n` has arrived: PACK rises over what has arrived in order. -/
def Peer.got (y : Peer) (n : Nat) : Peer :=
  let ahead := y.ahead ++ [n]
  let up := ahead.foldl (fun (k : Nat) _ => if ahead.contains ((k + 1) % 2 ^ 32) then (k + 1) % 2 ^ 32 else k) y.pack
  { y with pack := up, ahead := ahead.filter fun m => seqAfter m up }

/-- Whether a flit of a frame is discarded: one that no device takes, one of a load-store access, or one to another entry of the peer
table than the device's own (R346, R347). -/
def State.drops (s : State) (f : Flit) : Bool :=
  flitWrong f || (1 ≤ f.typ && f.typ ≤ 6) || match s.ownPeer with
    | some n => f.dst.toNat != n
    | none => false

/-- FRAME_RECEIVE (R347): PACK acknowledges what was sent; the flits of a frame not seen before are acted on in order. A frame
with a flit whose CRC fails, or from a device whose entry is not valid, is received by the port alone (R344). -/
def execFrameReceive (p peer : Nat) (raw : List Byte) (s : State) : Out :=
  .next (
  let n := fieldAt raw 8 1
  let flits := (List.range n).map fun j => (raw.drop (16 + 256 * j)).take 256
  if !s.takes .scaleOut p (flits.any fun x => fieldAt x 0 1 == 8) then s
  else
    let up := s.portUp .scaleOut p
    let s := s.modPort .scaleOut p fun x => { x with lastRx := s.clk }
    if !Word.bit (lookup s.regs.sopeer 0 peer) 63 then s
    else if n = 0 ∨ n > 8 ∨ raw.length ≠ 16 + 256 * n ∨ !flits.all crcOk then s.discardFlit .scaleOut p
    else
      let seq := fieldAt raw 0 4
      let ack := fieldAt raw 4 4
      let y := lookup s.peers {} peer
      let y := { y with unacked := y.unacked.filter fun f => seqAfter f.pseq ack }
      if !seqAfter seq y.pack || y.ahead.contains seq then { s with peers := assign s.peers peer y }
      else
        let s := { s with peers := assign s.peers peer (y.got seq) }
        (flits.map fun x => { flitOf x with net := .scaleOut }).reverse.foldl (fun s f =>
          if s.drops f then s.discardFlit .scaleOut p
          else if up ∨ f.typ = 8 then s.actOnFlit .scaleOut p f else s) s)

/-- FRAME_RESEND (R347): after 8 µs an unacknowledged frame is sent again on its port; after 8 resends the port is declared
down. -/
def execFrameResend (peer pseq : Nat) (s : State) : Out :=
  .next (
  let y := lookup s.peers {} peer
  match y.unacked.find? fun f => f.pseq == pseq with
  | none => s
  | some f =>
    if s.stopped || !s.portUp .scaleOut f.port || s.clk < f.sentAt + 8000 then s
    else if f.resends ≥ 8 then s.portDown .scaleOut f.port
    else
      let again := fun (g : Frame) => if g.pseq = pseq then { g with resends := g.resends + 1, sentAt := s.clk } else g
      { s with
        peers := assign s.peers peer { y with unacked := y.unacked.map again }
        outbox := s.outbox ++ [{ s.framed peer f with tries := f.resends + 1 }] })

/-! ### Remote accesses at their home and at their issuer (R86, R87, R127, R349, R350) -/

/-- The answer to a request (R346): ATTR is the result code. -/
def State.answerFlit (s : State) (f : Flit) (typ attr psn : Nat) (bs : List Byte) : Flit :=
  { typ := typ, src := s.devId, dst := f.src, ctx := f.ctx, txid := f.txid, addr := f.addr, ztag := 0
    attr := BitVec.ofNat 32 attr, psn := BitVec.ofNat 16 psn, payload := bs }

/-- The poison of each 16-byte unit of a payload read at HBM address `a` (R285, R346). -/
def State.unitPoison (s : State) (a n : Nat) : Nat :=
  ((List.range ((n + 15) / 16)).filter fun k => s.poisoned (a + 16 * k) (min 16 (n - 16 * k))).foldl (fun m k => m + 2 ^ k) 0

/-- Poison that a write brings, unit by unit. -/
def State.taintUnits (s : State) (a : Nat) (psn : BitVec 16) (n : Nat) (ctx : BitVec 12) : State :=
  ((List.range ((n + 15) / 16)).filter fun k => psn.getLsbD k).foldl (fun s k => s.poisonHbm (a + 16 * k) (min 16 (n - 16 * k)) ctx) s

/-- A load performed at home. -/
def State.homeRead (s : State) (f : Flit) : State × Flit :=
  let n := f.attr.toNat
  let bad := (s, s.answerFlit f 2 1 0 [])
  if n = 0 ∨ n > 192 then bad
  else match s.localPlace (f.addr.toNat % 2 ^ 44) with
    | some (.hbm a) =>
      (s.l2Access a n f.ctx 0 false, s.answerFlit f 2 0 (s.unitPoison a n) (Memory.readN s.mem a n))
    | some (.host a) =>
      match s.readPlace (.host a) n f.ctx 0 0 with
      | .ok s' bs => (s', s.answerFlit f 2 0 0 bs)
      | _ => bad
    | some (.cxl a) =>
      match s.readPlace (.cxl a) n f.ctx 0 0 with
      | .ok s' bs => (s', s.answerFlit f 2 0 0 bs)
      | _ => bad
    | _ => bad

/-- A store performed at home. -/
def State.homeWrite (s : State) (f : Flit) : State × Flit :=
  let masked := f.attr.getLsbD 16
  -- a masked write: the bytes, then for each the bits of it that are written (R109)
  let n := if masked then f.payload.length / 2 else f.payload.length
  let mask := if masked then f.payload.drop n else []
  match s.placeToWrite (s.devId.toNat * 2 ^ 44 + f.addr.toNat % 2 ^ 44) with
  | some (.hbm a) =>
    let bs := (List.range n).map fun k =>
      (⟨a + k, if masked then mask.getD k 0 else 0xFF, f.payload.getD k 0, false⟩ : Piece).onto (Memory.read s.mem (a + k))
    (((s.writeHbm a bs).l2Access a n f.ctx 0 true).taintUnits a f.psn n f.ctx, s.answerFlit f 4 0 0 [])
  | some (.reg _) => (s, s.answerFlit f 4 1 0 [])
  | some (.remote _ _) => (s, s.answerFlit f 4 1 0 [])
  | some pl => (s.hostWrite pl (f.payload.take n) mask (f.psn != 0), s.answerFlit f 4 0 0 [])
  | none => (s, s.answerFlit f 4 1 0 [])

/-- An atomic performed at home (R127, R131): OPER and SZ in ATTR, the operand and the value expected in the payload. -/
def State.homeAtomic (s : State) (f : Flit) : State × Flit :=
  let code := f.attr.toNat % 16
  let n := if f.attr.getLsbD 4 then 8 else 4
  match s.localPlace (f.addr.toNat % 2 ^ 44) with
  | some (.hbm a) =>
    let old := s.num a n
    if code > 10 ∨ a % n ≠ 0 then (s, s.answerFlit f 6 1 0 [])
    else if s.poisoned a n then (s.l2Access a n f.ctx 0 false, s.answerFlit f 6 0 1 (Word.toBytes n old))
    else
      let v := fieldAt f.payload 0 8 % 2 ^ (8 * n)
      let e := fieldAt f.payload 8 8 % 2 ^ (8 * n)
      let s' := match atomicNew code (8 * n) v e old with
        | some w => (s.writeHbm a (Word.toBytes n w)).l2Access a n f.ctx 0 true
        | none => s.l2Access a n f.ctx 0 false
      (s', s.answerFlit f 6 0 0 (Word.toBytes n old))
  | _ => (s, s.answerFlit f 6 1 0 [])

/-- REMOTE_REQUEST (R86, R87, R127, R349): an access is performed here, its answer leaving by the port it came on. A repeated
write or atomic, known by SRCDEV and TXID, is answered and not performed; none comes later than 1.008 ms (DESIGN CHOICE, log entry 13). -/
def execRemoteRequest (f : Flit) (p : Nat) (s : State) : Out :=
  .next (if s.stopped then s
  else
    let s := s.hear f.sender
    let s := { s with performed := s.performed.filter fun x => s.clk < x.2.2.2 + 1008000 }
    if f.typ = 1 then
      let r := s.homeRead f
      r.1.send .scaleUp p r.2
    else if f.typ = 3 ∨ f.typ = 5 then
      match s.performed.find? fun x => x.1 == f.src && x.2.1 == f.txid with
      | some x => s.send .scaleUp p x.2.2.1
      | none =>
        let r := if f.typ = 3 then s.homeWrite f else s.homeAtomic f
        { r.1 with performed := r.1.performed ++ [(f.src, f.txid, r.2, s.clk)] }.send .scaleUp p r.2
    else s)

/-- What an answer brought, kept for the access that asked. -/
def State.answered (s : State) (t : Txn) (y : Arrived) : State :=
  match t.issuer with
  | .node inst node => s.modEngine inst node fun e => { e with arrived := e.arrived ++ [y] }
  | .facet inst node clone _ pos => s.modFacet inst node clone 0 fun u => { u with arrived := u.arrived ++ [{ y with pos := pos }] }
  | .conductor r => s.modCond r fun c => { c with arrived := c.arrived ++ [y] }
  | .stream r st => match s.stream r st with
    | c :: _ => if c.inst = t.inst then s.setHead r st (some { c with arrived := c.arrived ++ [y] }) else s
    | [] => s
  | .engine e =>
    let c := s.chord e
    s.setChord e { c with puts := c.puts.map fun (x : Put) => if x.inst = t.inst then { x with arrived := x.arrived ++ [y] } else x }
  | .hub => s
  | .queue n => s.modQueue n fun q => { q with arrived := q.arrived ++ [y] }
  | .host => { s with hostReplies := s.hostReplies ++ [if y.failed then .unsupported else .data y.bytes y.poison] }
  | .check i => s.modCheck i fun c => { c with arrived := c.arrived ++ [y] }
  | .text r => s.modCond r fun c => { c with fetched := c.fetched ++ [y] }

/-- A transaction has ended, and with it the access that it made (R120). -/
def State.endTxn (s : State) (t : Txn) : State := { s with txns := s.txns.filter fun x => x.tx != t.tx }.accessDone t.tx

/-- A remote write that failed has no precise point: a fault of its context with cause ACCESS, at domain 3 (R350). -/
def State.lostWrite (s : State) (t : Txn) : State :=
  let dev := t.flit.dst.toNat
  (s.actAt t.inst { cause := .access, faddr := pack [(44, dev), (0, t.flit.addr.toNat)] } [] 3).killContext t.ctx .access

/-- The address of a transaction as its access asked for it. -/
def Txn.addr (t : Txn) : Nat := t.flit.dst.toNat * 2 ^ 44 + t.flit.addr.toNat

/-- REMOTE_RESPONSE (R349): the answer reaches whoever asked. -/
def execRemoteResponse (f : Flit) (s : State) : Out :=
  .next (
  let s := s.hear f.sender
  match s.txns.find? fun t => t.isAccess && t.flit.txid == f.txid && t.flit.dst == f.src && (f.typ == t.flit.typ + 1 || f.typ == 13) with
  | none => s
  | some t =>
    let bad := f.attr != 0 || f.typ == 13
    let s := s.endTxn t
    if t.returns then
      let n := if t.flit.typ = 1 then t.flit.attr.toNat else f.payload.length
      s.answered t { addr := t.addr, bytes := f.payload.take n, poison := f.psn != 0, failed := bad }
    else if bad then s.lostWrite t
    else s)

/-- REMOTE_FAILOVER (R349): 5 µs after the port toward a device went down, what is unanswered goes out again on the next
port of DOMRT; what found no port goes out once there is one, and so do the answers that wait (R355; DESIGN CHOICE, log entry 32). -/
def execRemoteFailover (dst : Nat) (s : State) : Out :=
  .next (if s.stopped then s else State.flushReplies <|
  let mine := fun (t : Txn) => t.isAccess && t.flit.dst.toNat == dst
  let late := fun (t : Txn) => mine t && (t.quietAt.isSome || t.port.isNone)
  let quiet := s.txns.any fun t => mine t && match t.quietAt with
    | some c => s.clk < c + 5000
    | none => false
  let from_ := match s.domPath.find? fun x => x.1 == dst with
    | some (_, p) => if !s.serves dst p then 0
      else if s.txns.any fun t => mine t && t.quietAt.isSome then p + 1 else if s.portUp .scaleUp p then p else p + 1
    | none => 0
  if s.stopped || quiet || s.txns.any (fun t => mine t && t.quietAt.isNone && t.port.any fun q => !s.serves dst q) || !s.txns.any late then s
  else match s.domainNext dst from_ with
    | none => s
    | some q =>
      let go := s.txns.filter late
      let s := { s with
        domPath := assign s.domPath dst q
        txns := s.txns.map fun (t : Txn) => if late t then { t with port := some q, quietAt := none } else t }
      go.foldl (fun s t => s.send .scaleUp q t.flit) s)

/-- REMOTE_TIMEOUT (R350): 1 ms after its first issue a load or an atomic fails, and a write is a fault of its context. -/
def execRemoteTimeout (tx : Nat) (s : State) : Out :=
  .next (match s.txns.find? fun t => t.tx == tx with
  | none => s
  | some t =>
    if s.stopped || !t.isAccess || s.clk < t.issued + 1000000 then s
    else
      let s := s.endTxn t
      if t.returns then s.answered t { addr := t.addr, bytes := [], poison := false, failed := true }
      else s.lostWrite t)

end Sys2Proof.Machine
end

