-- ==== Sys2Proof/Machine/Repair.lean ====
section
/-!
DEFINITION. Errors, containment and self-repair (R362 to R377): compute errors and their replays, moves to spares, what the
scrubs find, debug-trap bits and checkpoints.
-/
namespace Sys2Proof.Machine

/-! ### Compute errors (R362 to R364) -/

/-- Whether a physical facet is about to execute a firing of `u`: it leads and has a choice, or its turn in a chain has come
(R49). -/
def State.aboutToFire (s : State) (u : FacetUnit) : Bool :=
  if u.pos = 0 then
    match s.choose1 u with
    | .fire _ _ _ _ => true
    | .nothing => false
  else match s.facet? u.inst u.node u.clone 0 with
    | some v => s.takesTurns v && match v.chainFire with
      | some (_, n) => n == u.pos
      | none => false
    | none => false

/-- The slot that a facet is about to fire. -/
def State.slotOf (s : State) (u : FacetUnit) : Option Nat :=
  match s.facet? u.inst u.node u.clone 0 with
  | none => none
  | some lead => match lead.chainFire, s.choose1 lead with
    | some (k, _), _ => some k
    | none, .fire _ k _ _ => some k
    | none, .nothing => none

/-- The floating-point lanes of an instruction's result (R362): their width, how each is decoded, and the largest finite value. -/
def floatLanes (i : Instr) : Option (Nat × (Nat → Float.Val) × Float.Val) :=
  let fmt := fun (f : Float.Fmt) => some (f.width, Float.decode f, Float.decode f ((2 ^ f.eb - 1) * 2 ^ f.mb - 1))
  let taper := fun (t : Float.Taper) => some (8, Float.decodeTaper t, Float.decodeTaper t (2 ^ t.nb - 1))
  match i with
  | .fadd f _ | .fsub f _ | .fmul f _ | .ffma f _ | .fmin f _ | .fmax f _ | .fneg f _ | .fabs f _ => fmt (Float.ofRow f)
  | .frcp f _ | .frsq f _ | .fexp2 f _ | .flog2 f _ | .fscale f _ => fmt (Float.ofRow f)
  | .cvtn .f16 _ => fmt Float.f16
  | .cvtn .bf16 _ => fmt Float.bf16
  | .cvtn .tf8 _ => taper Float.tf8
  | .cvtn .tf6 _ => taper Float.tf6
  | .cvtw .f16 _ | .cvtw .bf16 _ | .cvtif _ | .lsumF32 _ | .lmaxF32 _ | .dot4Tf8 _ => fmt Float.f32
  | .cvtw .tf8 _ | .cvtw .tf6 _ => fmt Float.bf16
  | _ => none

/-- Whether a value is infinite, no number, or of magnitude at least half the largest finite one. -/
def tooLarge (largest : Float.Val) : Float.Val → Bool
  | .fin _ m e => !Float.lt (.fin false m (e + 1)) largest
  | _ => true

/-- Whether the two results of a facet are not compared on a lane (R362). -/
def State.uncompared (s : State) (u : FacetUnit) (l : Nat) : Bool :=
  match s.slotOf u, s.facet? u.inst u.node u.clone 0 with
  | some k, some lead =>
    match u.instr k with
    | none => false
    | some i => match floatLanes i, facetEval i (s.fireOf lead (u.asOf s.clk) i k) with
      | some (w, dec, largest), .ok _ fx => match fx.val with
        | some v => tooLarge largest (dec (lane w v l))
        | none => false
      | _, _ => false
  | _, _ => false

/-- Every member of a clone contained or released. -/
def State.setContain (s : State) (u : FacetUnit) (on : Bool) : State :=
  { s with facets := s.facets.map fun (v : FacetUnit) =>
      if v.inst = u.inst ∧ v.node = u.node ∧ v.clone = u.clone then { v with contain := on } else v }

/-- Every node of a physical facet contained or released, each with its chain. -/
def State.setContainAt (s : State) (r rank : Nat) (on : Bool) : State := (s.facetsAt r rank).foldl (fun s u => s.setContain u on) s

/-- The two datapaths of a facet disagree (R362), on `lane` of a result or elsewhere: the firing does not commit, and the facet enters
containment (DESIGN CHOICE, log entry 29). -/
def State.upsetFacet (s : State) (r rank : Nat) (lane : Option Nat) : State :=
  match (s.facetsAt r rank).find? s.aboutToFire with
  | none => s
  | some u =>
    if lane.any (s.uncompared u) then s
    else
      { s.setContainAt r rank true with facetErrs := s.facetErrs ++ [(r, rank, s.clk)] }.modFacet u.inst u.node u.clone u.pos
        fun v => { v with suspect := true }

/-- Whether the diagonal that ends now is a publication point of its firing (R264). -/
def IslandUnit.atPoint (u : IslandUnit) (f : Firing) : Bool :=
  let x := u.tile f.tile
  x.fired + 1 ≥ acfgNf x.lAcfg && (f.d == 0 || (x.diagDone + 1) % (f.ps + 1) == 0 || x.owed || x.ceased)

/-- The 65th column of an island disagrees at a publication point (R363): the island enters containment. A version with
INEXACT or OVF, as the ending diagonal leaves them, is not checked. -/
def State.upsetIsland (s : State) (r isl : Nat) : State :=
  match s.island? r isl with
  | none => s
  | some u =>
    match u.firing with
    | none => s
    | some f =>
      let b := ((u.weights.bind fun w => w.dec[f.tile]?).map BDec.b).getD []
      let x := (u.tile f.tile).addDiagonal f b
      if !s.islandActs u || f.split || !f.filled || s.clk < f.due || x.inexact || x.ovf || !u.atPoint f then s
      else s.modIsland r isl fun v => { v with contain := true, errTimes := v.errTimes ++ [s.clk] }

/-! ### Containment and spares (R364 to R367, R374) -/

/-- The partition that an instance's events are attributed to. -/
def State.partOfInst (s : State) (inst : Nat) : Option Nat := (s.inst? inst).map Inst.part

/-- A replay or a re-run counted. -/
def ErrSum.replayed (e : ErrSum) : ErrSum := { e with repl := saturate16 e.repl }

/-- A move to a spare counted. -/
def ErrSum.moved (e : ErrSum) : ErrSum := { e with spare := saturate16 e.spare }

/-- The repair record of a region. -/
def State.repairOf (s : State) (r : Nat) : Repair := (s.store.repair.find? fun x => x.region == r).getD { region := r }

/-- `s` with a region's repair record changed. -/
def State.modRepair (s : State) (r : Nat) (f : Repair → Repair) : State :=
  { s with store := { s.store with repair := (s.store.repair.filter fun x => x.region != r) ++ [f (s.repairOf r)] } }

/-- A physical facet that failed, recorded (R365, R372): the next of the four spares takes its rank, or no facet does. -/
def Repair.lost (x : Repair) (rank : Nat) : Repair :=
  let rest := x.spares.filter fun p => p.2 != rank
  if x.failed < 4 then { x with failed := x.failed + 1, spares := rest ++ [(x.failed, rank)] }
  else { x with failed := x.failed + 1, spares := rest, dead := x.dead ++ [rank] }

/-- The errors of a physical facet within the last millisecond (R364). -/
def State.facetTimes (s : State) (r rank : Nat) : List Nat :=
  (s.facetErrs.filter fun x => x.1 == r && x.2.1 == rank && s.clk < x.2.2 + 1000000).map fun x => x.2.2

/-- The errors of a unit within the last millisecond. -/
def recentErrors (clk : Nat) (ts : List Nat) : List Nat := ts.filter fun t => clk < t + 1000000

/-- CONTAINMENT_REPLAY (R364): its last firings and the failed one are computed again, on both datapaths; `agree` says that
every comparison agreed. A disagreement, or a third error within 1 ms, is a failure. -/
def execContainmentReplay (r rank : Nat) (agree : Bool) (s : State) : Out :=
  .next (match (s.facetsAt r rank).find? fun u => u.contain && u.suspect with
  | none => s
  | some u =>
    if !s.running u.inst then s
    else
      let s := s.countErr (s.partOfInst u.inst) ErrSum.replayed
      if agree && (s.facetTimes r rank).length < 3 then
        (s.setContainAt r rank false).modFacet u.inst u.node u.clone u.pos fun v => { v with suspect := false }
      else
        let us := s.facetsAt r rank
        let s := us.foldl (fun s v =>
          (s.setContain v true).modFacet v.inst v.node v.clone v.pos fun v => { v with suspect := false, broken := true }) s
        s.modRepair r fun x => x.lost rank)

/-- A repair move counted, and begun as a rewire of its nodes, which commits by R312 (R317, R365). -/
def State.repairing (s : State) (i : Inst) (nodes : List Nat) : State :=
  (s.countErr (s.partOfInst i.id) ErrSum.moved).startWave i (.repair nodes)

/-- The bytes of one rank's scratchpad at another rank. -/
def State.copyRank (s : State) (a b : Nat) : State :=
  let here := fun (n k : Nat) => k / 0x40000 == n
  let move := fun k => k % 0x40000 + b * 0x40000
  { s with
    spad := (s.spad.filter fun c => here a c.1).foldl (fun m c => Memory.write m (move c.1) c.2) (s.spad.filter fun c => !here b c.1)
    spadPoison := (s.spadPoison.filter fun k => !here b k) ++ (s.spadPoison.filter (here a)).map move
    spadHigh := assign s.spadHigh b (lookup s.spadHigh 0 a) }

/-- A clone moved to a run of free facets, with its scratchpads (R365). -/
def State.moveClone (s : State) (u : FacetUnit) (region pos : Nat) : State :=
  (s.chainOf u).foldl (fun s v => s.copyRank (v.region * 64 + v.rank) (region * 64 + snakeRank (pos + v.pos)))
    (s.moveFacets u.inst u.node u.clone region pos)

/-- A clone at work again after its repair. -/
def State.mended (s : State) (u : FacetUnit) : State :=
  { s with facets := s.facets.map fun (v : FacetUnit) =>
      if v.inst = u.inst ∧ v.node = u.node ∧ v.clone = u.clone then
        { v with contain := false, suspect := false, broken := false, l1 := [] }
      else v }

/-- The place in a region for all of the units that share a facet (R48, R365). -/
def State.freePlace (s : State) (inst : Nat) (us : List FacetUnit) (q : Nat) : Option Nat :=
  let n := us.foldl (fun n u => max n u.chain) 1
  (List.range (65 - n)).find? fun p => us.all fun u =>
    (List.range n).all fun j => (s.freeRanks inst q u.misc.toNat).contains (snakeRank (p + j))

/-- A unit that no place can be found for: its instance faults with POISON, at its own fault domain (R365, R366). -/
def State.unplaced (s : State) (inst region : Nat) (unit : UnitRef) (party : Word64) : State :=
  match s.inst? inst with
  | some i => s.actAt inst { cause := .poison, finfo := party, unit := unit, info := BitVec.ofNat 16 region } [] i.fdom
  | none => s

/-- SPARE_MOVE (R365, R367): the spare holds the rank, or what stands there moves to a free facet of its placement, in one rewire. The
state moves as that begins (DESIGN CHOICE, log entry 30). -/
def execSpareMove (r rank : Nat) (s : State) : Out :=
  .next (match (s.facetsAt r rank).find? FacetUnit.broken with
  | none => s
  | some u =>
    match s.inst? u.inst with
    | none => s
    | some i =>
      let us := s.facetsAt r rank
      let nodes := us.map FacetUnit.node
      let off := fun (s : State) => { s with facetErrs := s.facetErrs.filter fun x => !(x.1 == r && x.2.1 == rank) }
      if !s.running u.inst || i.ctl.wave.isSome || s.debugged i then s
      else if !(s.repairOf r).dead.contains rank then off (us.foldl State.mended (s.repairing i nodes))
      else
        let rs := r :: i.regions.filter fun q => q != r
        match rs.findSome? fun q => (s.freePlace i.id us q).map fun p => (q, p) with
        | some (q, p) => off (us.foldl (fun s v => (s.moveClone v q p).mended v) (s.repairing i nodes))
        | none =>
          (s.modFacet u.inst u.node u.clone u.pos fun v => { v with broken := false }).unplaced u.inst r
            (.facet u.inst u.node u.clone) (s.facetParty u 0))

/-- The clk that an island's re-run takes (R79, R366): the fill, and every diagonal up to the one that ends. -/
def Firing.rerunClk (f : Firing) : Nat :=
  (List.range (f.ma + f.mb - 1)).foldl (fun n d => if f.d ≤ d then n + diagClk f.ma f.mb d f.k else n) 8

/-- An island moved, with what it holds, in a rewire of its node (R277, R366). -/
def State.mendIsland (s : State) (i : Inst) (u : IslandUnit) (r isl : Nat) : State :=
  (s.repairing i [u.node]).modIsland u.region u.isl fun v =>
    { v with region := r, isl := isl, contain := false, broken := false, errTimes := [] }

/-- ISLAND_RERUN (R366, R367): the firing is run again once, from the accumulators and rows it holds; with a second mismatch in one
firing, or a third in 1 ms, the island has failed, and its node moves to a free island. -/
def execIslandRerun (r isl : Nat) (agree : Bool) (s : State) : Out :=
  .next (match s.island? r isl with
  | none => s
  | some u =>
    match s.inst? u.inst with
    | none => s
    | some i =>
      if !s.running u.inst || !u.contain then s
      else if u.broken then
        if i.ctl.wave.isSome || s.debugged i then s
        else if !(s.repairOf r).deadIslands.contains isl then s.mendIsland i u r isl
        else
          let free := fun q => (List.range 4).find? fun k => (s.island? q k).isNone && s.room [] 1 q k 0
          match (r :: i.regions.filter fun q => q != r).findSome? fun q => (free q).map fun k => (q, k) with
          | some (q, k) => s.mendIsland i u q k
          | none => (s.modIsland r isl fun v => { v with broken := false, contain := false, faulted := true }).unplaced u.inst r
              (.island r isl) (pack [(32, i.layver.toNat), (0, u.node)])
      else
        let s := s.countErr (s.partOfInst u.inst) ErrSum.replayed
        let ts := recentErrors s.clk u.errTimes
        if agree && ts.length < 3 && !((u.firing.map Firing.rerun).getD false) then
          s.modIsland r isl fun v =>
            { v with
              contain := false, errTimes := ts
              firing := v.firing.map fun (f : Firing) => { f with rerun := true, due := s.clk + f.rerunClk } }
        else
          (s.modIsland r isl fun v => { v with broken := true }).modRepair r fun x => { x with deadIslands := x.deadIslands ++ [isl] })

/-! ### Memory errors (R368 to R371, R373, R374) -/

/-- The errors corrected in a way, one more. -/
def State.wayCorrected (s : State) (slice set way : Nat) : State × Nat :=
  let is := fun (x : WayRec) => x.slice == slice && x.set == set && x.way == way
  let n := ((s.l2ways.find? is).map WayRec.corrected).getD 0 + 1
  ({ s with l2ways := (s.l2ways.filter fun x => !is x) ++ [{ slice := slice, set := set, way := way, corrected := n }] }, n)

/-- L2_SCRUB (R368, R369, R371): a corrected error counts against the way, and the 16th quarantines it; an uncorrectable one, new or not yet
found, quarantines it at once, and in a dirty line it ends the owning context (DEDUCED, log entry 31). -/
def execL2Scrub (slice set way : Nat) (found : Finding) (s : State) : Out :=
  .next (
  match s.l2.find? fun x => x.slice == slice && x.set == set && x.way == way with
  | none => s
  | some x =>
    let owner := if x.dirty = 0 then none else s.partOf x.owner
    match if s.stopped then .clean else if x.bad then .uncorrectable else found with
    | .clean => s
    | .corrected =>
      let (s, n) := (s.countErr owner ErrSum.corrected).wayCorrected slice set way
      if n ≥ 16 then s.quarantine slice set way owner else s
    | .uncorrectable => s.badLine x)

/-- HBM_SCRUB (R368 to R370): 64 bytes of HBM; an uncorrectable error, new or not yet found, leaves poison, and retires the page. -/
def execHbmScrub (addr : Nat) (found : Finding) (s : State) : Out :=
  .next (
  let a := addr / 64 * 64
  match if s.stopped || a ≥ 2 ^ 39 then .clean else if s.latent.contains a then .uncorrectable else found with
  | .clean => s
  | .corrected => s.countErr none ErrSum.corrected
  | .uncorrectable => s.findBlocks [a])

/-- An error that a structure corrects in place, leaves as poison in its data, or holds until it is found (R368; DESIGN CHOICE, log entry
78). Those of caches and TLBs only lose a copy (`State.lose`). -/
def State.upset (s : State) (x : Upset) : State :=
  match x with
  | .fixed r => s.countErr ((s.instOf r).map Inst.part) ErrSum.corrected
  | .spad k => s.taintSpad k 1
  | .reg r rank n => { s with facets := s.facets.map fun (u : FacetUnit) =>
      if u.region = r ∧ u.rank = rank then { u with spoiled := u.spoiled ||| 1#16 <<< n } else u }
  | .weights r isl => s.modIsland r isl fun u => { u with weights := u.weights.map fun w => { w with spoiled := true } }
  | .acc r isl t k => s.modTile r isl t fun x => { x with spoiled := x.spoiled ++ [k] }
  | .hbm a => if a < 2 ^ 39 then { s with latent := a / 64 * 64 :: s.latent.filter fun b => b != a / 64 * 64 } else s
  | .l2 slice set way =>
    { s with l2 := s.l2.map fun x => if x.slice = slice ∧ x.set = set ∧ x.way = way then { x with bad := true } else x }

/-! ### Debug-trap bits (R375) -/

/-- The debug-trap bit that DBGSLOT names, in every instance of its context. -/
def State.dbgSlot (s : State) (v : Word64) (on : Bool) : State :=
  let bit : BitVec 16 := 1#16 <<< Word.field v 19 16
  let named := fun (u : FacetUnit) => u.node == Word.field v 11 0 && u.clone == Word.field v 14 12 &&
    match s.inst? u.inst with
    | some i => i.ctx.toNat == Word.field v 43 32
    | none => false
  { s with facets := s.facets.map fun (u : FacetUnit) =>
      if named u then { u with dbg := if on then u.dbg ||| bit else u.dbg &&& ~~~bit } else u }

/-- DBGSLOT_SET (R375). -/
def execDbgslotSet (v : Word64) (s : State) : Out := .next (s.dbgSlot v true)

/-- DBGSLOT_CLEAR (R375). -/
def execDbgslotClear (v : Word64) (s : State) : Out := .next (s.dbgSlot v false)

/-! ### Incremental checkpoints (R376, R377) -/

/-- The virtual address of granule `k`. -/
def Checkpoint.granule (c : Checkpoint) (k : Nat) : Nat := (Word.field c.base 55 16 + k) * 65536

/-- Whether a granule is mapped by a page with D = 1. -/
def State.granuleDirty (s : State) (c : Checkpoint) (k : Nat) : Bool :=
  match s.walk c.ctx (c.granule k % 2 ^ 56) with
  | some l => pteD l.entry
  | none => false

/-- The streamer of a checkpoint as it reads memory of the context. -/
def Checkpoint.actor (c : Checkpoint) : Actor := hubActor c.ctx (.check c.idx) c.arrived

/-- Bytes of CKMAP changed one after another by `f`, which gives the state and the byte's new value. -/
def State.overMap (s : State) (c : Checkpoint) (f : State → Nat → Byte → Acc Byte) : List Nat → Acc Unit
  | [] => .ok s ()
  | j :: js =>
    (s.loadClean c.actor (c.map.toNat + j) 1).bind fun s bs =>
    let b := bs.getD 0 0
    (f s j b).bind fun s b' =>
      if b' = b then s.overMap c f js
      else match s.storeVa c.ctx (c.map.toNat + j) [b'] with
        | .error e => .bad e none
        | .ok s => s.overMap c f js

/-- The granules of one byte of CKMAP. -/
def Checkpoint.inByte (c : Checkpoint) (j : Nat) : List Nat := (List.range 8).filter fun k => 8 * j + k < c.cnt.toNat

/-- The bits of dirty granules set. -/
def State.collectByte (c : Checkpoint) (s : State) (j : Nat) (b : Byte) : Acc Byte :=
  .ok s (((c.inByte j).filter fun k => s.granuleDirty c (8 * j + k)).foldl (fun (b : Byte) k => b ||| 1#8 <<< k) b)

/-- Whether a granule's copy can be made at CKDST: in the host window, or an enabled CXL.mem slice (R87). -/
def State.ckdstOk (s : State) (c : Checkpoint) (k : Nat) : Bool :=
  match s.localPlace ((c.dst.toNat + 65536 * k) % 2 ^ 44) with
  | some (.host _) => c.dst.toNat < 2 ^ 44
  | some (.cxl _) => c.dst.toNat < 2 ^ 44
  | _ => false

/-- The bytes of granule `g` copied to CKDST + 64 KiB × g, 128 at a time, poison and all. -/
def State.copyOut (c : Checkpoint) (s : State) (g : Nat) : Acc Unit :=
  (List.range 512).foldl (fun (acc : Acc Unit) n =>
    acc.bind fun s _ =>
      (s.loadFor c.actor (c.granule g % 2 ^ 56 + 128 * n) 128).bind fun s u =>
        match s.localPlace ((c.dst.toNat + 65536 * g + 128 * n) % 2 ^ 44) with
        | some pl => .ok (s.hostWrite pl u.1 [] u.2) ()
        | none => .bad .access none) (.ok s ())

/-- A granule copied under its current translation; one unmapped by then is skipped, and its bit cleared. -/
def State.copyGranule (c : Checkpoint) (j : Nat) (r : Acc Byte) (k : Nat) : Acc Byte :=
  r.bind fun s b =>
    if b.getLsbD k = false then .ok s b
    else if (s.walk c.ctx (c.granule (8 * j + k) % 2 ^ 56)).isNone then .ok s (b &&& ~~~(1#8 <<< k))
    else if !s.ckdstOk c (8 * j + k) then .bad .access none
    else (s.copyOut c (8 * j + k)).bind fun s _ => .ok s b

/-- The marked granules of one byte copied. -/
def State.copyByte (c : Checkpoint) (s : State) (j : Nat) (b : Byte) : Acc Byte :=
  (c.inByte j).foldl (State.copyGranule c j) (.ok s b)

/-- A phase run (R376): BUSY until its end; a fault on CKMAP or CKDST, or a CKCNT out of range, makes that end FAULT
(DEDUCED, log entry 36). While it reads another device's memory, its turn `again` comes in each later clk. -/
def State.runPhase (s : State) (i : Nat) (again : Instr) (f : Checkpoint → State → Nat → Byte → Acc Byte) : State :=
  let c := s.check i
  let ends := fun (s : State) (bad : Bool) => s.modCheck i fun c => { c with status := 1, bad := bad, arrived := [] }
  if s.stopped || c.status == 1 then s
  else
    let n := c.cnt.toNat
    if n = 0 ∨ n > 2 ^ 24 then ends s true
    else match s.overMap c (f c) (List.range ((n + 7) / 8)) with
      | .ok s _ => ends s false
      | .ask z => (s.sent z).nextClk again
      | .poison a n => ends (s.findHere a n) true
      | _ => ends s true

/-- CHECKPOINT_COLLECT (R376). -/
def execCheckpointCollect (i : Nat) (s : State) : Out := .next (s.runPhase i (.checkpointCollect i) State.collectByte)

/-- CHECKPOINT_COPY (R376). -/
def execCheckpointCopy (i : Nat) (s : State) : Out := .next (s.runPhase i (.checkpointCopy i) State.copyByte)

/-- CHECKPOINT_PHASE_END (R376, R380). -/
def execCheckpointPhaseEnd (i : Nat) (s : State) : Out :=
  .next (
  let c := s.check i
  if s.stopped || c.status != 1 then s
  else (s.modCheck i fun c => { c with status := if c.bad then 3 else 2, bad := false }).interrupt 0 4)

end Sys2Proof.Machine
end

