-- ==== Sys2Proof/Machine/Power.lean ====
section
/-!
DEFINITION. The host's side, the boot and the power (R29, R371, R372, R378 to R399): windows and registers, tenant keys,
attestation, boot steps, pins, energy and thermal limits.
-/
namespace Sys2Proof.Machine

/-! ### Windows and registers (R379, R381, R382) -/

/-- Whether a host access is a write. -/
def hostWrites (a : HostAccess) : Bool :=
  match a with
  | .read _ => false
  | .write _ => true

/-- What the host is answered. -/
def State.tell (s : State) (r : HostReply) : State := { s with hostReplies := s.hostReplies ++ [r] }

/-- A read or a write that the device does not serve (R379, R382): a read completes with Unsupported Request, a write is
dropped. -/
def State.unserved (s : State) (a : HostAccess) : State :=
  match a with
  | .read _ => s.tell .unsupported
  | .write _ => s

/-- A host access at a place; `ctx` is the owner of what it writes (R99). At a reserved register offset it completes with Unsupported Request
(R381), and a value that a register refuses changes nothing (DESIGN CHOICE, log entry 18). -/
def State.hostAt (s : State) (pl : Place) (ctx : BitVec 12) (a : HostAccess) : State :=
  match pl, a with
  | .hbm p, .read n => (s.l2Access p n ctx 0 false).tell (.data (Memory.readN s.mem p n) (s.poisoned p n))
  | .hbm p, .write bs => (s.writeHbm p bs).l2Access p bs.length ctx 0 true
  | .reg off, .read n =>
    match s.regRead (off / 8 * 8) with
    | some w => s.tell (.data ((Word.toBytes 8 w.toNat).drop (off % 8) |>.take n) false)
    | none => s.tell .unsupported
  | .reg off, .write bs =>
    match s.regRead (off / 8 * 8) with
    | none => s.tell .unsupported
    | some w =>
      let old := Word.toBytes 8 w.toNat
      let new := old.take (off % 8) ++ bs ++ old.drop (off % 8 + bs.length)
      match s.regStore (off / 8 * 8) (BitVec.ofNat 64 (Word.ofBytes new)) true with
      | .done s' => s'
      | _ => s
  | .remote dev p, .write bs => s.sendRemote (hubActor ctx .hub []) dev p 3 0 bs false
  | .remote dev p, .read n => s.sendRemote (hubActor ctx .host []) dev p 1 n [] true
  | pl, .read n =>
    let x := s.hostRead pl n
    x.1.tell (.data x.2 false)
  | pl, .write bs => s.hostWrite pl bs

/-- The host reads the Device ID of a function's configuration space (R378). -/
def State.hostDeviceId (s : State) (fn : Nat) : State :=
  if fn > 63 then s else s.tell (.data (if fn = 0 then [0x80, 0x08] else [0x81, 0x08]) false)

/-- The host reaches BAR0 of a function (R379): the register space of the PF, of which in recovery only BOOTST and BOOTREC answer
(R391), or ERRSUM of a VF's partition, with every other offset reading 0. -/
def State.hostBar0 (s : State) (fn off : Nat) (a : HostAccess) : State :=
  if fn = 0 then
    let answers := (off / 8 = 2 || 0x100 ≤ off && off < 0x180) && match a with
      | .read _ => true
      | .write _ => false
    if off ≥ 2 ^ 24 || (s.boot.recovery && !answers) then s.unserved a else s.hostAt (.reg off) 0 a
  else if fn > 63 || off ≥ 2 ^ 16 || s.boot.recovery then s.unserved a
  else
    let old := Word.toBytes 8 (if off < 8 then (s.errOf fn).word.toNat else 0)
    match a with
    | .read n => s.tell (.data (((old.drop (off % 8)).take n) ++ List.replicate (n - (8 - off % 8)) 0) false)
    | .write bs =>
      if off ≥ 8 then s
      else
        let new := (old.take off ++ bs ++ old.drop (off + bs.length)).take 8
        { s with errPart := assign s.errPart fn (ErrSum.ofWord (BitVec.ofNat 64 (Word.ofBytes new))) }

/-- The management controller reads the sensors of TMAX and PWRNOW (R397). -/
def State.sensors (s : State) : State :=
  s.tell (.data (Word.toBytes 1 s.regs.tmax ++ Word.toBytes 2 s.regs.pwrnow) false)

/-- The host reads the Revision ID of the physical function's configuration space (R28). -/
def State.hostRevision (s : State) : State := s.tell (.data [BitVec.ofNat 8 (steppingCode s.stepping)] false)

/-- HOST_WINDOW_ACCESS (R379, R382): offset o of PF BAR2 reaches local address LBASE × 2^36 + o; in recovery nothing. -/
def execHostWindowAccess (off : Nat) (acc : HostAccess) (s : State) : Out :=
  .next (if off ≥ 2 ^ 36 || s.boot.recovery then s.unserved acc
  else
    let a := (s.regs.winbase.toNat + off) % 2 ^ 44
    match if hostWrites acc then s.placeToWrite (s.devId.toNat * 2 ^ 44 + a) else s.localPlace a with
    | some pl => s.hostAt pl 0 acc
    | none => s.unserved acc)

/-- VF_WINDOW_ACCESS (R379, R382): the window's context translates VFBASE + o, at graph level. -/
def execVfWindowAccess (vf off : Nat) (acc : HostAccess) (s : State) : Out :=
  .next (
  let w := lookup s.regs.vfctx 0 vf
  let ctx := w.extractLsb' 0 12
  let write := hostWrites acc
  if vf = 0 ∨ vf > 63 ∨ off ≥ 2 ^ 34 ∨ s.boot.recovery = true ∨ Word.bit w 63 = false then s.unserved acc
  else match s.translateNow ctx ((lookup s.regs.vfbase 0 vf).toNat + off) { write := write } with
    | .error _ => s.unserved acc
    | .ok (s', pa) =>
      match if write then s'.placeToWrite pa else s'.place pa with
      | none => s.unserved acc
      | some (.reg _) => s.unserved acc
      | some pl => s'.hostAt pl ctx acc)

/-- REGISTER_WRITE (R381, R382, R396): a write of the PF through BAR0; one that a register refuses changes nothing. -/
def execRegisterWrite (off : Nat) (v : Word64) (s : State) : Out :=
  .next (if s.boot.recovery then s
  else match if off < 2 ^ 24 then s.regStore off v true else .absent with
    | .done s' => s'
    | .refused => s
    | .absent => s.tell .unsupported)

/-! ### Keys and attestation (R384, R387 to R390) -/

/-- The TDI of a VF is in CONFIG_LOCKED or RUN, with a secured session (R384); TDISP itself lies outside the spec (DESIGN CHOICE, log entry
27). -/
def State.tdiLock (s : State) (vf session : Nat) : State :=
  if vf = 0 ∨ vf > 63 then s else { s with tdis := assign s.tdis vf session }

/-- KEY_SLOT_FILL (R384): while its TDI is in CONFIG_LOCKED or RUN the slot is bound to the VF and its session; one bound to another VF stays
(DESIGN CHOICE, log entry 27). -/
def execKeySlotFill (slot vf : Nat) (key : BitVec 512) (s : State) : Out :=
  .next (match s.tdis.find? fun t => t.1 == vf with
  | none => s
  | some t =>
    if slot ≥ 256 || vf == 0 || vf > 63 || (s.keys.any fun k => k.slot == slot && k.vf != vf) then s
    else { s with keys := (s.keys.filter fun k => k.slot != slot) ++ [{ slot := slot, vf := vf, session := t.2, key := key }] })

/-- TDI_EXIT (R387): the TDI has left those states; the slots of the VF are erased, and the contexts that name them killed. -/
def execTdiExit (vf : Nat) (s : State) : Out :=
  .next (
  let gone := (s.keys.filter fun k => k.vf == vf).map KeySlot.slot
  let s := { s with keys := s.keys.filter fun k => k.vf != vf, tdis := s.tdis.filter fun t => t.1 != vf }
  let named := s.ctxs.filter fun c => c.key.getLsbD 31 && gone.contains (c.key.toNat % 256)
  named.foldl (fun s c => s.killContext c.id .killed) s)

/-- The store as bytes, for its digest (DESIGN CHOICE, log entry 8). -/
def Store.bytes (x : Store) : List Byte :=
  x.retired.flatMap (Word.toBytes 8) ++ x.quadsOut.flatMap (Word.toBytes 8) ++
  (x.ways.flatMap fun w => Word.toBytes 8 w.word.toNat) ++ Word.toBytes 8 x.rollback ++ [x.devId] ++
  Word.toBytes 4 x.supOut.toNat ++ Word.toBytes 4 x.sopOut.toNat ++ x.trims ++ x.seed ++ x.chain

/-- The repair maps as bytes. -/
def Store.repairBytes (x : Store) : List Byte := x.repair.flatMap fun r => Word.toBytes 8 r.region ++ Word.toBytes 8 r.word.toNat

/-- GET_MEASUREMENTS (R390): firmware and runtime, store and repair maps, stepping; for a VF the digests of the images of its
partition; signed with the identity key, which comes from the seed and the PUF (R388). -/
def execGetMeasurements (fn : Nat) (s : State) : Out :=
  .next (if fn > 63 then s
  else
    let fw := s.store.running.map StagedImage.digest ++ [Config.shake s.store.bytes, Config.shake s.store.repairBytes]
    let images := if fn = 0 then [] else (s.digests.filter fun d => d.1 == fn).map Prod.snd
    s.tell (.measurements fn fw (steppingCode s.stepping) images
      (Config.sign s.store.seed (fw ++ images) (steppingCode s.stepping))))

/-- FIRMWARE_STAGE (R380, R389): accepted where the signature verifies and the version is not below the rollback counter; it
takes effect at the next boot. -/
def execFirmwareStage (img : StagedImage) (s : State) : Out :=
  .next (if !img.sigOk || img.version < s.store.rollback then s
  else
    let levels := if img.kind = 0 then assign s.store.levels 1 0 else if img.kind = 1 then assign s.store.levels 10 0 else s.store.levels
    let staged := (s.store.staged.filter fun x => x.kind != img.kind) ++ [img]
    let s : State := { s with store := { s.store with staged := staged, levels := levels } }
    s.interrupt 0 0)

/-! ### Resets and the boot (R29, R371, R391, R392, R397) -/

/-- At a device reset the first quarantined way of each set is replaced by the set's spare (R371). -/
def spareWays (ws : List WayRec) : List WayRec :=
  ws.foldl (fun acc w =>
    let used := fun (x : WayRec) => x.slice == w.slice && x.set == w.set && x.spared
    acc ++ [{ w with spared := w.spared || (w.quarantined && !acc.any used && !ws.any used) }]) []

/-- A device reset: what the store, the pins and the part itself are stays; everything else is as after reset. -/
def State.cold (s : State) : State :=
  { State.reset with
    agenda := s.agenda, clk := s.clk, resetAt := s.clk, fresh := s.fresh, stepping := s.stepping, pins := s.pins
    store := { s.store with ways := spareWays s.store.ways }
    refillAt := s.clk / 10000 * 10000 + 10000, interrupts := s.interrupts, hostReplies := s.hostReplies, outbox := s.outbox }

/-- How many actions a boot step has before recovery (R391). -/
def alternates (n : Nat) : Nat :=
  match n with
  | 1 | 4 | 6 | 7 | 8 | 9 | 10 => 1
  | 5 => 2
  | _ => 0

/-- The alternate of a step in use. -/
def Store.level (x : Store) (n : Nat) : Nat := lookup x.levels 0 n

/-- Whether step `n` has failed since the device last came up, so that it takes its action now. -/
def Store.armed (x : Store) (n : Nat) : Bool := x.level n > 0

/-- The ways that step 7 finds failing and that are in use. -/
def Store.newWays (x : Store) (ws : List (Nat × Nat × Nat)) : List (Nat × Nat × Nat) :=
  ws.filter fun w => x.ways.all fun y => !(y.slice == w.1 && y.set == w.2.1 && y.way == w.2.2)

/-- Whether step `n` fails on this boot (R391). -/
def Store.fails (x : Store) (b : BootRun) (n : Nat) : Bool :=
  match n with
  | 6 => !x.armed 6 && b.badQuads.any fun q => !x.quadsOut.contains q
  | 7 => b.failStep == some 7 || (!x.armed 7 && !(x.newWays b.badWays).isEmpty)
  | 8 => !x.armed 8 && (b.badSup &&& ~~~x.supOut != 0 || b.badSop &&& ~~~x.sopOut != 0)
  | 9 => !x.armed 9 && b.idTaken
  | n => b.failStep == some n

/-- The store after step `n` failed: a whole failing slice leaves step 7 no action. -/
def Store.failed (x : Store) (b : BootRun) (n : Nat) : Store :=
  { x with
    failStep := n, failCode := b.failCode
    tries := if x.failStep = n then min 15 (x.tries + 1) else 1
    levels := assign x.levels n (if n = 7 ∧ b.failStep = some 7 then 2 else if 6 ≤ n ∧ n ≤ 9 then 1 else x.level n + 1) }

/-- The images of a kind in the place of those that ran. -/
def Store.runs (x : Store) (live : List StagedImage) : List StagedImage :=
  (x.running.filter fun i => live.all fun j => j.kind != i.kind) ++ live

/-- What step `n` leaves in the store as it passes (R18, R371, R391): a store update (kind 2) removes the map-outs and gives the device id
that it holds (R29, R388); map-outs, the spares in the place of failing facets, and quarantined ways are kept as they are found. -/
def Store.passed (x : Store) (b : BootRun) (n : Nat) : Store :=
  match n with
  | 2 =>
    let live := x.staged.filter fun i => i.kind ≥ 2
    match live.getLast? with
    | none => x
    | some u =>
      { x with
        devId := u.devId, quadsOut := [], supOut := 0, sopOut := 0, ways := x.ways.filter fun w => !w.boot
        staged := x.staged.filter fun i => i.kind < 2, running := x.runs live }
  | 6 =>
    { x with
      repair := b.badFacets.foldl (fun l f => (l.filter fun y => y.region != f.1) ++
        [((l.find? fun y => y.region == f.1).getD { region := f.1 }).lost f.2]) x.repair
      quadsOut := x.quadsOut ++ b.badQuads.filter fun q => !x.quadsOut.contains q }
  | 7 =>
    let new := (x.newWays b.badWays).map fun w => { slice := w.1, set := w.2.1, way := w.2.2, quarantined := true, boot := true : WayRec }
    { x with ways := x.ways ++ new }
  | 8 => { x with supOut := x.supOut ||| b.badSup, sopOut := x.sopOut ||| b.badSop }
  | _ => x

/-- The boot steps run in order (R391): the store they leave, and the step that fails, if one does. -/
def Store.boots (x : Store) (b : BootRun) : List Nat → Store × Option Nat
  | [] => (x, none)
  | n :: ns => if x.fails b n then (x.failed b n, some n) else (x.passed b n).boots b ns

/-- The store of a device that is ready: the firmware and the runtime staged are in effect, and the steps take their actions no more. -/
def Store.booted (x : Store) : Store :=
  let live := x.staged.filter fun i => (i.kind == 0 && x.level 1 == 0) || (i.kind == 1 && x.level 10 == 0)
  { x with tries := 0, staged := [], running := x.runs live, levels := x.levels.filter fun l => !(6 ≤ l.1 && l.1 ≤ 9) }

/-- BOOTREC of step `n` (R392). -/
def Store.bootRec (x : Store) (b : BootRun) (heldId : Bool) (n : Nat) : Word64 :=
  match n with
  | 6 => pack [(16, x.quadsOut.foldl (fun m q => m + 2 ^ q) 0), (4, (!x.quadsOut.isEmpty).toNat)]
  | 7 =>
    let k := (b.badWays.filter fun w => x.ways.any fun y => y.boot && !y.spared && y.slice == w.1 && y.set == w.2.1 && y.way == w.2.2).length
    pack [(16, min 65535 k), (4, (k != 0).toNat)]
  | 8 => let held := x.supOut != 0 || x.sopOut != 0; pack [(16, held.toNat), (4, held.toNat)]
  | 9 => pack [(4, heldId.toNat)]
  | n => pack [(4, if x.level n = 0 then 0 else 2), (0, x.level n)]

/-- The boot record from the store (R392), with the ports held: all scale-up ports where the device id is taken (R391). -/
def Store.bootOf (x : Store) (b : BootRun) (heldId : Bool) : Boot :=
  { tries := x.tries, failcode := x.failCode, failstep := x.failStep
    sup := if heldId then 0xFFFFFFFF else x.supOut, sop := x.sopOut
    recs := (List.range 16).map (x.bootRec b heldId) }

/-- The boot (R391): the first step that fails is recorded, and the device is about to reset itself; a step with no action
left ends in recovery; else the device is ready. -/
def State.bootUp (s : State) (b : BootRun) : State :=
  let x := s.store
  let steps := (List.range 10).map fun k => k + 1
  match steps.find? fun n => alternates n < x.level n with
  | some n => ({ s with boot := { x.bootOf b false with step := n, recovery := true } }).interrupt 0 0
  | none =>
    let z := x.boots b steps
    let new := (z.1.ways.filter fun w => w.boot && !x.ways.any fun v => v.slice == w.slice && v.set == w.set && v.way == w.way).length
    -- each way quarantined at this boot counts (R372, R374)
    let s := (List.range new).foldl (fun s _ => s.countErr none ErrSum.retired) s
    match z.2 with
    | some n => ({ s with store := z.1, boot := { z.1.bootOf b (n = 10 && b.idTaken) with step := n, again := true } }).interrupt 0 0
    | none =>
      let y := z.1.booted
      let boot := y.bootOf b b.idTaken
      let ports := fun (m : BitVec 32) (l : List Port) =>
        ((List.range l.length).zip l).map fun k => { k.2 with held := m.getLsbD k.1 }
      ({ s with
        devId := y.devId, store := y, sup := ports boot.sup s.sup, sop := ports boot.sop s.sop
        boot := { boot with step := 11, ready := true } }).interrupt 0 0

/-- PERST_RELEASE (R391, R397): once PWRGD has been held 100 ms, the boot begins; so it does where a failed step has the device
reset itself (DEDUCED, log entry 33). -/
def execPerstRelease (b : BootRun) (s : State) : Out :=
  .next (if !(s.pins.perst || s.boot.again) || !s.pins.pwrgd || s.clk < s.pins.pwrgdAt + 100000000 then s
  else
    let s := s.cold
    { s with pins := { s.pins with perst := false, shdn := false, thermtrip := false } }.bootUp b)

/-- PERST_ASSERT (R397): everything is as after reset; no failure is recorded. -/
def execPerstAssert (s : State) : Out :=
  .next (let s := s.cold; { s with pins := { s.pins with perst := true } })

/-- PWRGD (R397, R398). -/
def execPwrgd (up : Bool) (s : State) : Out :=
  .next { s with pins := { s.pins with pwrgd := up, pwrgdAt := if up && !s.pins.pwrgd then s.clk else s.pins.pwrgdAt } }

/-- The device asked to stop by SHDN# stops once every running instance stands at firing boundaries (R331, R397). -/
def State.shutdown (s : State) : State :=
  if !s.pins.shdn || s.stopped then s
  else if s.insts.all fun i => i.state != .running || s.atBoundary i then { s with stopped := true }
  else { s with agenda := s.agenda ++ [.clock, .shutdown] }

/-- SHDN (R397, R399): all work stops at firing boundaries, without a save, until PERST# (DEDUCED, log entry 34). -/
def execShdn (s : State) : Out := .next ({ s with pins := { s.pins with shdn := true } } : State).shutdown

/-- Every instance gone. -/
def State.wiped (s : State) : State :=
  { s with
    facets := [], islands := [], engines := [], arcs := [], merges := [], splitters := [], ceases := [], insts := []
    handles := [], streams := [], chords := [], resvs := [], txns := [], walksWaiting := []
    conds := s.conds.map Conductor.freed }

/-- A thermal trip (R391, R396, R399): the device stops until PERST#; the next boot shows FAILCODE 0xFF, at the boot step in progress where
there is one. -/
def State.trip (s : State) (tmax : Nat) : State :=
  { s.wiped with
    stopped := true, pins := { s.pins with thermtrip := true }, regs := { s.regs with tmax := tmax }
    boot := { s.boot with again := false }
    store := { s.store with failCode := 0xFF, failStep := if s.boot.ready then s.store.failStep else s.boot.step } }

/-- THERMTRIP (R396): the sensors read 115 °C. -/
def execThermtrip (tmax : BitVec 8) (s : State) : Out := .next (if tmax.toNat < 115 then s else s.trip tmax.toNat)

/-! ### Energy (R393, R396) -/

/-- SCALE after a boundary (R396). -/
def scaleAfter (scale tlimit tmax : Nat) : Nat :=
  if tmax ≥ tlimit then max 4 (scale - 1)
  else if tmax + 3 ≤ tlimit then min 16 (scale + 1)
  else scale

/-- The pool of a boundary, in fJ (R393). -/
def poolOf (budget reserve scale : Nat) : Nat := (budget - reserve) * 10000000000 * scale / 16

/-- The running instances of a partition. -/
def State.runningOf (s : State) (part : Nat) : List Inst := s.insts.filter fun i => i.part == part && i.state == .running

/-- The part of a pool that each region of an instance receives (R393), fractions taken down once. -/
def State.regionShare (s : State) (pool : Nat) (i : Inst) : Nat :=
  let ps := s.parts.filter fun p => !(s.runningOf p.id).isEmpty
  let sumE := ps.foldl (fun n p => n + p.eshare) 0
  let sumS := (s.runningOf i.part).foldl (fun n j => n + j.share) 0
  let e := ((s.part? i.part).map Partition.eshare).getD 0
  pool * e * i.share / (sumE * sumS * i.regions.length)

/-- An account after a refill (R393). -/
def refilled (account refill : Nat) : Nat := min (account + refill) (accountCap refill)

/-- One instance's regions refilled; a choice of this clk sees each account as it was before (R399). -/
def State.refillInst (s : State) (pool : Nat) (i : Inst) : State :=
  let n := s.regionShare pool i
  i.regions.foldl (fun (t : State) r =>
    let e := t.energy.getD r 0
    { t with
      energy := t.energy.modify r fun e => refilled e n, lastRefill := t.lastRefill.set r n
      gain := t.gain.set r (refilled e n - e) }) s

/-- ENERGY_REFILL (R393, R396, R399): at a 10 µs boundary SCALE follows the hottest sensor, and the pool is divided; a BUDGET or
RESERVE written in this clk applies from the next boundary (DEDUCED, log entry 35). -/
def execEnergyRefill (tmax : BitVec 8) (watts : BitVec 16) (s : State) : Out :=
  .next (if s.stopped || s.clk < s.refillAt then s
  else if 115 ≤ tmax.toNat then s.trip tmax.toNat
  else
    let g := s.regs
    let scale := scaleAfter g.scale g.tlimit tmax.toNat
    let p := if g.powerAt ≤ s.clk then (g.budget, g.reserve) else g.powerIn
    let s := { s with
      refillAt := s.clk / 10000 * 10000 + 10000
      regs := { g with scale := scale, tmax := tmax.toNat, pwrnow := watts.toNat, powerIn := p }
      gain := List.replicate 192 0, gainAt := some s.clk }
    let s := if scale = g.scale then s else s.interrupt 0 3
    (s.insts.filter fun i => i.state == .running).foldl (fun t i => t.refillInst (poolOf p.1 p.2 scale) i) s)

end Sys2Proof.Machine
end

