-- ==== Sys2Proof/Machine/Clock.lean ====
section
/-!
DEFINITION. A tick of the device clock (R14): freed token-buffer entries (R40), the detector's and the
layout controller's counts (R58, R303, R304), progress timers (R339) and queue deficits (R328).
-/
namespace Sys2Proof.Machine

/-- Entries whose mask is zero are freed in the clock after (R40). -/
def State.freeEntries (s : State) : State :=
  { s with
    facets := s.facets.map fun u => { u with outs := u.outs.map freed, couts := u.couts.map freed }
    islands := s.islands.map fun u => { u with outs := u.outs.map freed }
    engines := s.engines.map fun e => { e with outs := freed e.outs }
    merges := s.merges.map fun m => { m with outq := freed m.outq }
    conds := s.conds.map fun c =>
      { c with pports := c.pports.map fun p => { p with entries := freed p.entries } } }

/-- A copy that a cache or a TLB held is lost (DESIGN CHOICE, log entry 6). -/
def State.lose (s : State) (c : Copy) : State :=
  match c with
  | .dieTlb d ctx va => { s with dieTlb := s.dieTlb.filter fun t => !(t.die == d && t.ctx == ctx && t.va == va) }
  | .tlb r ctx va => { s with tlb := s.tlb.filter fun t => !(t.region == r && t.ctx == ctx && t.va == va) }
  | .facetL1 r rank a =>
    { s with facets := s.facets.map fun u => if u.region = r ∧ u.rank = rank then
        { u with l1 := u.l1.filter fun l => l.addr != a } else u }
  | .condL1 r a => s.modCond r fun c => { c with l1 := c.l1.filter fun l => l.addr != a }
  | .config ctx va => { s with cfgCache := s.cfgCache.filter fun t => !(t.ctx == ctx && t.va == va) }
  | .text r ctx va => s.modCond r fun c => { c with ic := c.ic.filter fun t => !(t.ctx == ctx && t.va == va) }

/-- Counted clocks of the running instances (R58). -/
def State.count (s : State) : State :=
  { s with insts := s.insts.map fun (i : Inst) =>
      if i.state = .running then { i with counted := i.counted + 1, sinceFiring := i.sinceFiring + 1 } else i }

/-- Whether a queue holds its partition. -/
def State.holds (s : State) (q : Queue) : Bool := s.parts.any fun p => p.holder == some q.num

/-- Whether a queue has a started instance that no freeze has stopped. -/
def State.unfrozen (s : State) (n : Nat) : Bool :=
  (s.startedOf n).any fun i => i.state == .running || i.state == .complete || i.state == .frozen

/-- Progress timers count while their queue holds its partition with an instance started (R339); a freeze stops them (R331). -/
def State.timers (s : State) : State :=
  { s with queues := s.queues.map fun (q : Queue) => if s.holds q && s.unfrozen q.num then { q with timer := q.timer + 1 } else q }

/-- Whether the freeze of a queue's instances is not complete: one runs on, or has a conductor or a stream command that goes on to its
boundary (R331). -/
def State.freezeOpen (s : State) (n : Nat) : Bool :=
  (s.startedOf n).any fun i => i.state == .running || i.state == .frozen ||
    (i.state == .freezing && !((i.regions.filterMap s.cond?).all Conductor.letsSave && s.streamsStand i.id))

/-- A holder's deficit falls by 1 per µs, to the completion of the freeze that ends its slice (R328). -/
def State.deficits (s : State) : State :=
  let due := fun (q : Queue) => s.parts.any fun p =>
    p.holder == some q.num && (s.clk + 1 - p.dispatched) % 1000 == 0 && !(p.yielding && !s.freezeOpen q.num)
  { s with queues := s.queues.map fun (q : Queue) => if due q then { q with deficit := q.deficit - 1 } else q }

/-- The end of the clk: descriptor and precision writes take effect, ACCRD and TEMPTY see the tiles as they now stand (R252, R278), and
pool room counts (R342). -/
def State.clockEdges (s : State) : State :=
  { s with
    islands := s.islands.map IslandUnit.clockEdge
    handles := s.handles.map fun h => { h with shown := h.tile }
    poolGone := [] }

/-- What the device does in every clk of its own accord: buffer entries freed (R40), waiting events and completion tokens
that have room (R275, R291), verdicts and commits (R275, R312, R338), partitions given up (R328), and the counts. -/
def State.clockWork (s : State) : State :=
  let s := s.freeEntries
  let s := s.engines.foldl (fun s e => if s.running e.inst then s.flushEngine e else s) s
  let s := s.endFills.flushSettled.unsettle.commitWaves.releaseQuads.pauseUnplaced.settleParts
  s.clockEdges.measure.count.timers.deficits

/-- The tick. A device that has stopped only keeps time (R396, R397) (DESIGN CHOICE, log entry 9). -/
def State.tick (s : State) : State :=
  let s := if s.stopped then s else s.clockWork
  { s with clk := s.clk + 1 }

end Sys2Proof.Machine
end

