-- ==== Sys2Proof/Machine/FacetTokens.lean ====
section
/-!
DEFINITION. NULL and END at a facet, which handles them without firing a slot (R42, R47, R175, R176). A facet takes one
up only while none of its slots could fire, but for energy (R204; DEDUCED, log entry 28).
-/
namespace Sys2Proof.Machine

/-- The facets at a rank that tokens may be handled at: not faulted, contained, finished, nor within a firing, and with
no slot left to fire on what they have popped (DEDUCED, log entry 28). -/
def State.handlers (s : State) (r rank : Nat) : List FacetUnit :=
  (s.facetsAt r rank).filter fun u =>
    s.running u.inst && u.faulted.isNone && u.brk.isNone && !u.contain && !u.finished && !u.halted &&
    u.chainFire.isNone && s.quiet u

/-- Whether a NULL stands at every declared input and every declared output has room (R42). -/
def FacetUnit.nullReady (u : FacetUnit) : Bool :=
  !u.steers && !u.inputs.isEmpty && (u.inputs.all fun k => u.headKind k == some 1) && u.outputs.all u.room

/-- One NULL popped from each declared input, one emitted on each declared output (R42). -/
def State.handleNull (s : State) (u : FacetUnit) : State :=
  match u.head u.lowest with
  | none => s
  | some t =>
    let s := s.sees u.agent (u.inputs.filterMap u.head)
    let v := { u.inputs.foldl FacetUnit.popIn u with deal := t.deal }
    s.become u (v.outputs.foldl (fun v o => v.put (s.facetMask u) o (nullOf (s.hbOf u.agent) t)) v)

/-- FACET_NULL_HANDLING (R42). -/
def execFacetNullHandling (r rank : Nat) (s : State) : Out :=
  .next (match (s.handlers r rank).find? FacetUnit.nullReady with
  | some u => s.handleNull u
  | none => s)

/-- Whether every token-buffer entry of a facet is free. -/
def FacetUnit.buffersFree (u : FacetUnit) : Bool := u.outs.all List.isEmpty && u.couts.all List.isEmpty

/-- Whether END stands at every declared input of a facet (R42). -/
def FacetUnit.endHeads (u : FacetUnit) : Bool := !u.inputs.isEmpty && u.inputs.all fun k => u.headKind k == some 2

/-- END at a node (R42, R47, R175, R400): it is popped everywhere, emitted once on each output, and the node is
finished; tokens left on control inputs go; the clones of an ASSOCIATIVE node are combined (R51). -/
def State.handleEnd (s : State) (u : FacetUnit) : State :=
  let s := s.sees u.agent ((s.chainOf u).flatMap fun v => v.inputs.filterMap v.head)
  let e := endOf (s.hbOf u.agent)
  let s := (s.chainOf u).foldl (fun s v => s.modFacet v.inst v.node v.clone v.pos fun v =>
    let v : FacetUnit := { v with ins := v.ins.map fun l => l.drop 1, cins := [[], []], finished := true }
    if v.pos = 0 then
      let v := v.outputs.foldl (fun v o => v.put (s.facetMask u) o e) v
      v.ctlOutputs.foldl (fun v k =>
        { v with couts := v.couts.modify k fun es => es ++ [⟨e, s.facetMask u (4 + k)⟩] }) v
    else v) s
  s.combineAtEnd u.inst u.node

/-- Whether a node may handle END: at every declared input of every member, with every buffer free (R42, R400). -/
def State.endReady (s : State) (u : FacetUnit) : Bool :=
  (s.chainOf u).all fun v => v.endHeads && v.buffersFree

/-- FACET_END_HANDLING (R42): the nodes that do not steer, and MERGEU nodes (R175). -/
def execFacetEndHandling (r rank : Nat) (s : State) : Out :=
  .next (match (s.handlers r rank).find? fun u =>
      u.pos == 0 && !(u.program.any fun i => (steerWord i).isSome) && s.endReady u with
  | some u => s.handleEnd u
  | none => s)

/-- The NULL handling of one STEER, STEERX or MERGE slot (R176). A MERGE whose D is no output pops its tokens and emits nothing
(DESIGN CHOICE, log entry 76). -/
def FacetUnit.steerNull (u : FacetUnit) (mask : Nat → BitVec 4) (h : AgentHB) (i : Instr) : Option FacetUnit :=
  match steerWord i with
  | none => none
  | some (w, os) =>
    let cs := os.filterMap fun o => o.channel.map Prod.fst
    let k := w.c.code
    if cs.length = os.length ∧ (cs.all fun c => u.headKind c.val == some 1) ∧ u.ctlHead k then
      match cs with
      | [] => none
      | c :: _ =>
        match u.head c.val with
        | none => none
        | some t =>
          let v := (cs.foldl (fun v c => v.popIn c.val) u).popCtl k
          let v := { v with deal := t.deal }
          match i, w.d with
          | .steerx _, .out o =>
            let p := if o.val % 2 = 0 then o.val + 1 else o.val - 1
            if u.room o.val && u.room p then some ((v.put mask o.val (nullOf h t)).put mask p (nullOf h t)) else none
          | .merge _, .out o => if u.room o.val then some (v.put mask o.val (nullOf h t)) else none
          | _, _ => some v
    else none

/-- The tokens that this handling of a slot pops. -/
def FacetUnit.steerPops (u : FacetUnit) (i : Instr) : List Token :=
  match steerWord i with
  | none => []
  | some (w, os) => (os.filterMap fun o => (o.channel.map Prod.fst).bind fun c => u.head c.val) ++ (u.cins.getD w.c.code []).head?.toList

/-- STEER_MERGE_NULL (R176): the first slot that has its NULLs and its control token. -/
def execSteerMergeNull (r rank : Nat) (s : State) : Out :=
  .next ((s.handlers r rank).foldl (fun s u =>
    match u.program.find? fun i => (u.steerNull (s.facetMask u) (s.hbOf u.agent) i).isSome with
    | some i =>
      let s := s.sees u.agent (u.steerPops i)
      match u.steerNull (s.facetMask u) (s.hbOf u.agent) i with
      | some v => s.become u v
      | none => s
    | none => s) s)

/-- MERGEU_NULL_DISCARD (R175): a NULL at the head of an input of a MERGEU slot is popped and discarded. -/
def execMergeuNullDiscard (r rank : Nat) (s : State) : Out :=
  .next ((s.handlers r rank).foldl (fun s u =>
    let cs := u.program.flatMap fun i => match mergeuWord i with
      | some w => [w.a, w.b].filterMap fun o => o.channel.map Prod.fst
      | none => []
    match cs.find? fun c => u.headKind c.val == some 1 with
    | some c => (s.sees u.agent (u.head c.val).toList).modFacet u.inst u.node u.clone u.pos fun v => v.popIn c.val
    | none => s) s)

/-- The tokens left on each input of a node at END, as R47 reports them: i0 to i3, then c0 and c1. -/
def FacetUnit.leftOver (u : FacetUnit) : Word64 :=
  pack ((List.range 4).map (fun k => (8 * k, (u.ins.getD k []).length - 1)) ++
    (List.range 2).map fun k => (32 + 8 * k, ((u.cins.getD k []).filter fun t => t.kind == 0).length))

/-- Whether something is left on a control input, or behind END on a data input (R47). -/
def FacetUnit.unevenEnd (u : FacetUnit) : Bool :=
  (u.cins.any fun l => l.any fun t => t.kind == 0) || u.inputs.any fun k => (u.ins.getD k []).length > 1

/-- STEER_MERGE_END (R47): END at every data input of a STEER, STEERX or MERGE node. -/
def execSteerMergeEnd (r rank : Nat) (s : State) : Out :=
  .next (match (s.handlers r rank).find? fun u =>
      u.pos == 0 && (u.program.any fun i => (steerWord i).isSome) && (s.chainOf u).all FacetUnit.endHeads with
  | none => s
  | some u =>
    match (s.chainOf u).find? FacetUnit.unevenEnd with
    | some v =>
      let slot := ((List.range 16).find? fun k => ((u.instr k).bind steerWord).isSome).getD 0
      s.facetFault v slot { cause := .predMismatch, other := v.leftOver }
    | none => if s.endReady u then s.handleEnd u else s)

end Sys2Proof.Machine
end

