-- ==== Sys2Proof/Machine/Dispatch.lean ====
section
/-! DEFINITION. Which meaning each instruction has: one arm per constructor of `Instr`. -/
namespace Sys2Proof.Machine

def exec (i : Instr) (s : State) : Host.Outcome State Fault Refusal :=
  match i with
  | .nop w => Sys2Proof.Machine.execNop w s
  | .mov w => Sys2Proof.Machine.execMov w s
  | .movi w => Sys2Proof.Machine.execMovi w s
  | .movis w => Sys2Proof.Machine.execMovis w s
  | .sel w => Sys2Proof.Machine.execSel w s
  | .drop w => Sys2Proof.Machine.execDrop w s
  | .steer w => Sys2Proof.Machine.execSteer w s
  | .steerx w => Sys2Proof.Machine.execSteerx w s
  | .merge w => Sys2Proof.Machine.execMerge w s
  | .mergeu w => Sys2Proof.Machine.execMergeu w s
  | .emitn w => Sys2Proof.Machine.execEmitn w s
  | .ctl w => Sys2Proof.Machine.execCtl w s
  | .cease w => Sys2Proof.Machine.execCease w s
  | .vers w => Sys2Proof.Machine.execVers w s
  | .vfin w => Sys2Proof.Machine.execVfin w s
  | .halt w => Sys2Proof.Machine.execHalt w s
  | .facetAdd sz w => Sys2Proof.Machine.execFacetAdd sz w s
  | .facetSub sz w => Sys2Proof.Machine.execFacetSub sz w s
  | .addss sz w => Sys2Proof.Machine.execAddss sz w s
  | .addsz sz w => Sys2Proof.Machine.execAddsz sz w s
  | .subss sz w => Sys2Proof.Machine.execSubss sz w s
  | .subsz sz w => Sys2Proof.Machine.execSubsz sz w s
  | .facetMul sz w => Sys2Proof.Machine.execFacetMul sz w s
  | .facetMulhs sz w => Sys2Proof.Machine.execFacetMulhs sz w s
  | .facetMulhz sz w => Sys2Proof.Machine.execFacetMulhz sz w s
  | .facetMins sz w => Sys2Proof.Machine.execFacetMins sz w s
  | .facetMinz sz w => Sys2Proof.Machine.execFacetMinz sz w s
  | .facetMaxs sz w => Sys2Proof.Machine.execFacetMaxs sz w s
  | .facetMaxz sz w => Sys2Proof.Machine.execFacetMaxz sz w s
  | .abs sz w => Sys2Proof.Machine.execAbs sz w s
  | .mac sz w => Sys2Proof.Machine.execMac sz w s
  | .facetClz sz w => Sys2Proof.Machine.execFacetClz sz w s
  | .facetAnd w => Sys2Proof.Machine.execFacetAnd w s
  | .facetOr w => Sys2Proof.Machine.execFacetOr w s
  | .facetXor w => Sys2Proof.Machine.execFacetXor w s
  | .facetAndn w => Sys2Proof.Machine.execFacetAndn w s
  | .facetShl sz w => Sys2Proof.Machine.execFacetShl sz w s
  | .facetShrz sz w => Sys2Proof.Machine.execFacetShrz sz w s
  | .facetShrs sz w => Sys2Proof.Machine.execFacetShrs sz w s
  | .cmpeq sz w => Sys2Proof.Machine.execCmpeq sz w s
  | .cmplts sz w => Sys2Proof.Machine.execCmplts sz w s
  | .cmpltz sz w => Sys2Proof.Machine.execCmpltz sz w s
  | .test sz w => Sys2Proof.Machine.execTest sz w s
  | .fadd fm w => Sys2Proof.Machine.execFadd fm w s
  | .fsub fm w => Sys2Proof.Machine.execFsub fm w s
  | .fmul fm w => Sys2Proof.Machine.execFmul fm w s
  | .ffma fm w => Sys2Proof.Machine.execFfma fm w s
  | .fmin fm w => Sys2Proof.Machine.execFmin fm w s
  | .fmax fm w => Sys2Proof.Machine.execFmax fm w s
  | .fneg fm w => Sys2Proof.Machine.execFneg fm w s
  | .fabs fm w => Sys2Proof.Machine.execFabs fm w s
  | .fcmpeq fm w => Sys2Proof.Machine.execFcmpeq fm w s
  | .fcmplt fm w => Sys2Proof.Machine.execFcmplt fm w s
  | .fcmple fm w => Sys2Proof.Machine.execFcmple fm w s
  | .frcp fm w => Sys2Proof.Machine.execFrcp fm w s
  | .frsq fm w => Sys2Proof.Machine.execFrsq fm w s
  | .fexp2 fm w => Sys2Proof.Machine.execFexp2 fm w s
  | .flog2 fm w => Sys2Proof.Machine.execFlog2 fm w s
  | .fscale fm w => Sys2Proof.Machine.execFscale fm w s
  | .cvtn nf w => Sys2Proof.Machine.execCvtn nf w s
  | .cvtw nf w => Sys2Proof.Machine.execCvtw nf w s
  | .cvtfi w => Sys2Proof.Machine.execCvtfi w s
  | .cvtif w => Sys2Proof.Machine.execCvtif w s
  | .shuf w => Sys2Proof.Machine.execShuf w s
  | .bcast w => Sys2Proof.Machine.execBcast w s
  | .extr w => Sys2Proof.Machine.execExtr w s
  | .lsumW w => Sys2Proof.Machine.execLsumW w s
  | .lsumF32 w => Sys2Proof.Machine.execLsumF32 w s
  | .lmaxF32 w => Sys2Proof.Machine.execLmaxF32 w s
  | .lds w => Sys2Proof.Machine.execLds w s
  | .sts w => Sys2Proof.Machine.execSts w s
  | .ldsw w => Sys2Proof.Machine.execLdsw w s
  | .stsw w => Sys2Proof.Machine.execStsw w s
  | .ldg w => Sys2Proof.Machine.execLdg w s
  | .ldgb w => Sys2Proof.Machine.execLdgb w s
  | .stg w => Sys2Proof.Machine.execStg w s
  | .stge w => Sys2Proof.Machine.execStge w s
  | .pref w => Sys2Proof.Machine.execPref w s
  | .atoms w => Sys2Proof.Machine.execAtoms w s
  | .atomg w => Sys2Proof.Machine.execAtomg w s
  | .cass w => Sys2Proof.Machine.execCass w s
  | .casg w => Sys2Proof.Machine.execCasg w s
  | .fence w => Sys2Proof.Machine.execFence w s
  | .acq w => Sys2Proof.Machine.execAcq w s
  | .rel w => Sys2Proof.Machine.execRel w s
  | .hstat w => Sys2Proof.Machine.execHstat w s
  | .htake w => Sys2Proof.Machine.execHtake w s
  | .hfree w => Sys2Proof.Machine.execHfree w s
  | .wptr w => Sys2Proof.Machine.execWptr w s
  | .wpwait w => Sys2Proof.Machine.execWpwait w s
  | .treq w => Sys2Proof.Machine.execTreq w s
  | .accrd w => Sys2Proof.Machine.execAccrd w s
  | .tempty w => Sys2Proof.Machine.execTempty w s
  | .lzres w => Sys2Proof.Machine.execLzres w s
  | .lzsend w => Sys2Proof.Machine.execLzsend w s
  | .lzstat w => Sys2Proof.Machine.execLzstat w s
  | .lzreset w => Sys2Proof.Machine.execLzreset w s
  | .trap w => Sys2Proof.Machine.execTrap w s
  | .brk w => Sys2Proof.Machine.execBrk w s
  | .rdcnt w => Sys2Proof.Machine.execRdcnt w s
  | .rdst w => Sys2Proof.Machine.execRdst w s
  | .setpv w => Sys2Proof.Machine.execSetpv w s
  | .getp w => Sys2Proof.Machine.execGetp w s
  | .beat w => Sys2Proof.Machine.execBeat w s
  | .layv w => Sys2Proof.Machine.execLayv w s
  | .seq w => Sys2Proof.Machine.execSeq w s
  | .settag w => Sys2Proof.Machine.execSettag w s
  | .dot4Tf8 w => Sys2Proof.Machine.execDot4Tf8 w s
  | .sort4W w => Sys2Proof.Machine.execSort4W w s
  | .add d a b => Sys2Proof.Machine.execAdd d a b s
  | .sub d a b => Sys2Proof.Machine.execSub d a b s
  | .and d a b => Sys2Proof.Machine.execAnd d a b s
  | .or d a b => Sys2Proof.Machine.execOr d a b s
  | .xor d a b => Sys2Proof.Machine.execXor d a b s
  | .andn d a b => Sys2Proof.Machine.execAndn d a b s
  | .shl d a b => Sys2Proof.Machine.execShl d a b s
  | .shrz d a b => Sys2Proof.Machine.execShrz d a b s
  | .shrs d a b => Sys2Proof.Machine.execShrs d a b s
  | .mul d a b => Sys2Proof.Machine.execMul d a b s
  | .mulhs d a b => Sys2Proof.Machine.execMulhs d a b s
  | .mulhz d a b => Sys2Proof.Machine.execMulhz d a b s
  | .divs d a b => Sys2Proof.Machine.execDivs d a b s
  | .divz d a b => Sys2Proof.Machine.execDivz d a b s
  | .rems d a b => Sys2Proof.Machine.execRems d a b s
  | .remz d a b => Sys2Proof.Machine.execRemz d a b s
  | .slts d a b => Sys2Proof.Machine.execSlts d a b s
  | .sltz d a b => Sys2Proof.Machine.execSltz d a b s
  | .mins d a b => Sys2Proof.Machine.execMins d a b s
  | .maxs d a b => Sys2Proof.Machine.execMaxs d a b s
  | .minz d a b => Sys2Proof.Machine.execMinz d a b s
  | .maxz d a b => Sys2Proof.Machine.execMaxz d a b s
  | .clz d a => Sys2Proof.Machine.execClz d a s
  | .popc d a => Sys2Proof.Machine.execPopc d a s
  | .addw d a b => Sys2Proof.Machine.execAddw d a b s
  | .subw d a b => Sys2Proof.Machine.execSubw d a b s
  | .selnz d a b => Sys2Proof.Machine.execSelnz d a b s
  | .addi d a imm => Sys2Proof.Machine.execAddi d a imm s
  | .andi d a imm => Sys2Proof.Machine.execAndi d a imm s
  | .ori d a imm => Sys2Proof.Machine.execOri d a imm s
  | .xori d a imm => Sys2Proof.Machine.execXori d a imm s
  | .shi d a k n => Sys2Proof.Machine.execShi d a k n s
  | .slti d a imm => Sys2Proof.Machine.execSlti d a imm s
  | .sltiz d a imm => Sys2Proof.Machine.execSltiz d a imm s
  | .lui d imm => Sys2Proof.Machine.execLui d imm s
  | .ins16 d a imm => Sys2Proof.Machine.execIns16 d a imm s
  | .addpc d imm => Sys2Proof.Machine.execAddpc d imm s
  | .beq a b disp => Sys2Proof.Machine.execBeq a b disp s
  | .bne a b disp => Sys2Proof.Machine.execBne a b disp s
  | .blts a b disp => Sys2Proof.Machine.execBlts a b disp s
  | .bges a b disp => Sys2Proof.Machine.execBges a b disp s
  | .blo a b disp => Sys2Proof.Machine.execBlo a b disp s
  | .bhs a b disp => Sys2Proof.Machine.execBhs a b disp s
  | .j disp => Sys2Proof.Machine.execJ disp s
  | .jal disp => Sys2Proof.Machine.execJal disp s
  | .jalr d a imm => Sys2Proof.Machine.execJalr d a imm s
  | .ldb d a imm => Sys2Proof.Machine.execLdb d a imm s
  | .ldh d a imm => Sys2Proof.Machine.execLdh d a imm s
  | .ldw d a imm => Sys2Proof.Machine.execLdw d a imm s
  | .ldd d a imm => Sys2Proof.Machine.execLdd d a imm s
  | .ldbz d a imm => Sys2Proof.Machine.execLdbz d a imm s
  | .ldhz d a imm => Sys2Proof.Machine.execLdhz d a imm s
  | .ldwz d a imm => Sys2Proof.Machine.execLdwz d a imm s
  | .stb d a imm => Sys2Proof.Machine.execStb d a imm s
  | .sth d a imm => Sys2Proof.Machine.execSth d a imm s
  | .stw d a imm => Sys2Proof.Machine.execStw d a imm s
  | .std d a imm => Sys2Proof.Machine.execStd d a imm s
  | .amoAdd d a b wide lvl => Sys2Proof.Machine.execAmoAdd d a b wide lvl s
  | .amoAnd d a b wide lvl => Sys2Proof.Machine.execAmoAnd d a b wide lvl s
  | .amoOr d a b wide lvl => Sys2Proof.Machine.execAmoOr d a b wide lvl s
  | .amoXor d a b wide lvl => Sys2Proof.Machine.execAmoXor d a b wide lvl s
  | .amoMins d a b wide lvl => Sys2Proof.Machine.execAmoMins d a b wide lvl s
  | .amoMaxs d a b wide lvl => Sys2Proof.Machine.execAmoMaxs d a b wide lvl s
  | .amoMinz d a b wide lvl => Sys2Proof.Machine.execAmoMinz d a b wide lvl s
  | .amoMaxz d a b wide lvl => Sys2Proof.Machine.execAmoMaxz d a b wide lvl s
  | .amoXchg d a b wide lvl => Sys2Proof.Machine.execAmoXchg d a b wide lvl s
  | .amoCas d a b wide lvl => Sys2Proof.Machine.execAmoCas d a b wide lvl s
  | .amoFadd d a b lvl => Sys2Proof.Machine.execAmoFadd d a b lvl s
  | .fenceFull lvl => Sys2Proof.Machine.execFenceFull lvl s
  | .fenceAcq lvl => Sys2Proof.Machine.execFenceAcq lvl s
  | .fenceRel lvl => Sys2Proof.Machine.execFenceRel lvl s
  | .fenceTinv a b => Sys2Proof.Machine.execFenceTinv a b s
  | .l2ctlSetrb a b n => Sys2Proof.Machine.execL2ctlSetrb a b n s
  | .l2ctlSetrl a b n => Sys2Proof.Machine.execL2ctlSetrl a b n s
  | .l2ctlUnpin a b n => Sys2Proof.Machine.execL2ctlUnpin a b n s
  | .l2ctlWbinv a b => Sys2Proof.Machine.execL2ctlWbinv a b s
  | .waith d a b st => Sys2Proof.Machine.execWaith d a b st s
  | .mfs d n => Sys2Proof.Machine.execMfs d n s
  | .mts a n => Sys2Proof.Machine.execMts a n s
  | .tokin d a => Sys2Proof.Machine.execTokin d a s
  | .tokout a b => Sys2Proof.Machine.execTokout a b s
  | .toktry d a => Sys2Proof.Machine.execToktry d a s
  | .cfgld d a b => Sys2Proof.Machine.execCfgld d a b s
  | .cfggo d a => Sys2Proof.Machine.execCfggo d a s
  | .switch d a => Sys2Proof.Machine.execSwitch d a s
  | .rewireHint d a b => Sys2Proof.Machine.execRewireHint d a b s
  | .rewireLock d a b => Sys2Proof.Machine.execRewireLock d a b s
  | .rewireUnlock d a b => Sys2Proof.Machine.execRewireUnlock d a b s
  | .rewirePin d a b => Sys2Proof.Machine.execRewirePin d a b s
  | .rewireUnpin d a b => Sys2Proof.Machine.execRewireUnpin d a b s
  | .layver d => Sys2Proof.Machine.execLayver d s
  | .layq d a => Sys2Proof.Machine.execLayq d a s
  | .rate d a b => Sys2Proof.Machine.execRate d a b s
  | .strm d a b => Sys2Proof.Machine.execStrm d a b s
  | .strmst d a b => Sys2Proof.Machine.execStrmst d a b s
  | .tdset d a b => Sys2Proof.Machine.execTdset d a b s
  | .prset d a b => Sys2Proof.Machine.execPrset d a b s
  | .chord d a b => Sys2Proof.Machine.execChord d a b s
  | .lzctlReserve d a b => Sys2Proof.Machine.execLzctlReserve d a b s
  | .lzctlRelease d a b => Sys2Proof.Machine.execLzctlRelease d a b s
  | .lzctlStatus d a b => Sys2Proof.Machine.execLzctlStatus d a b s
  | .lzctlResume d a b => Sys2Proof.Machine.execLzctlResume d a b s
  | .lzctlClear d a b => Sys2Proof.Machine.execLzctlClear d a b s
  | .launch d a b => Sys2Proof.Machine.execLaunch d a b s
  | .sysTrap code => Sys2Proof.Machine.execSysTrap code s
  | .eret => Sys2Proof.Machine.execEret s
  | .wfi => Sys2Proof.Machine.execWfi s
  | .sysBrk code => Sys2Proof.Machine.execSysBrk code s
  | .icinv a b => Sys2Proof.Machine.execIcinv a b s
  | .sysBeat code => Sys2Proof.Machine.execSysBeat code s
  | .sysCease code => Sys2Proof.Machine.execSysCease code s
  | .sysHalt => Sys2Proof.Machine.execSysHalt s
  | .illegal r => Sys2Proof.Machine.execIllegal r s
  | .fetchFault r cause addr => Sys2Proof.Machine.execFetchFault r cause addr s
  | .breakpointMatch r => Sys2Proof.Machine.execBreakpointMatch r s
  | .registerPartition addr => Sys2Proof.Machine.execRegisterPartition addr s
  | .registerContext addr => Sys2Proof.Machine.execRegisterContext addr s
  | .registerQueue addr q => Sys2Proof.Machine.execRegisterQueue addr q s
  | .rereadQuads addr => Sys2Proof.Machine.execRereadQuads addr s
  | .kill ctx cause => Sys2Proof.Machine.execKill ctx cause s
  | .portEnable k p => Sys2Proof.Machine.execPortEnable k p s
  | .portDisable k p => Sys2Proof.Machine.execPortDisable k p s
  | .dbgslotSet v => Sys2Proof.Machine.execDbgslotSet v s
  | .dbgslotClear v => Sys2Proof.Machine.execDbgslotClear v s
  | .checkpointCollect n => Sys2Proof.Machine.execCheckpointCollect n s
  | .checkpointCopy n => Sys2Proof.Machine.execCheckpointCopy n s
  | .nodeFaultTrap r => Sys2Proof.Machine.execNodeFaultTrap r s
  | .breakResume r rank => Sys2Proof.Machine.execBreakResume r rank s
  | .tokenAccept inst arc => Sys2Proof.Machine.execTokenAccept inst arc s
  | .facetNullHandling r rank => Sys2Proof.Machine.execFacetNullHandling r rank s
  | .facetEndHandling r rank => Sys2Proof.Machine.execFacetEndHandling r rank s
  | .islandNullHandling r isl => Sys2Proof.Machine.execIslandNullHandling r isl s
  | .islandEndHandling r isl => Sys2Proof.Machine.execIslandEndHandling r isl s
  | .engineNullHandling inst node => Sys2Proof.Machine.execEngineNullHandling inst node s
  | .engineEndHandling inst node => Sys2Proof.Machine.execEngineEndHandling inst node s
  | .steerMergeNull r rank => Sys2Proof.Machine.execSteerMergeNull r rank s
  | .mergeuNullDiscard r rank => Sys2Proof.Machine.execMergeuNullDiscard r rank s
  | .steerMergeEnd r rank => Sys2Proof.Machine.execSteerMergeEnd r rank s
  | .chainMemberFiring r rank => Sys2Proof.Machine.execChainMemberFiring r rank s
  | .spillRingEntry inst arc => Sys2Proof.Machine.execSpillRingEntry inst arc s
  | .spillRingDelivery inst arc => Sys2Proof.Machine.execSpillRingDelivery inst arc s
  | .complete inst => Sys2Proof.Machine.execComplete inst s
  | .deadlock inst => Sys2Proof.Machine.execDeadlock inst s
  | .tableWalk die => Sys2Proof.Machine.execTableWalk die s
  | .trackedEntryExpire r => Sys2Proof.Machine.execTrackedEntryExpire r s
  | .multicastRequest r st => Sys2Proof.Machine.execMulticastRequest r st s
  | .multicastResponse slice n => Sys2Proof.Machine.execMulticastResponse slice n s
  | .mergeRecordExpire slice n => Sys2Proof.Machine.execMergeRecordExpire slice n s
  | .chaseLinkReturn r st => Sys2Proof.Machine.execChaseLinkReturn r st s
  | .streamUnit r st => Sys2Proof.Machine.execStreamUnit r st s
  | .arrivalToken r h => Sys2Proof.Machine.execArrivalToken r h s
  | .streamNodeCommand inst node => Sys2Proof.Machine.execStreamNodeCommand inst node s
  | .chordNodePut inst node => Sys2Proof.Machine.execChordNodePut inst node s
  | .islandFiring r isl => Sys2Proof.Machine.execIslandFiring r isl s
  | .diagonalEnd r isl => Sys2Proof.Machine.execDiagonalEnd r isl s
  | .skippedFiring r isl => Sys2Proof.Machine.execSkippedFiring r isl s
  | .weightReload r isl => Sys2Proof.Machine.execWeightReload r isl s
  | .weightReloadDone r isl => Sys2Proof.Machine.execWeightReloadDone r isl s
  | .publication r isl t => Sys2Proof.Machine.execPublication r isl t s
  | .drainRow r isl t => Sys2Proof.Machine.execDrainRow r isl t s
  | .versionToken r isl t => Sys2Proof.Machine.execVersionToken r isl t s
  | .finalRepeatToken r isl t => Sys2Proof.Machine.execFinalRepeatToken r isl t s
  | .ceaseAtIsland n => Sys2Proof.Machine.execCeaseAtIsland n s
  | .ceaseAtFacet n => Sys2Proof.Machine.execCeaseAtFacet n s
  | .ceaseDiscard n => Sys2Proof.Machine.execCeaseDiscard n s
  | .settled inst level => Sys2Proof.Machine.execSettled inst level s
  | .islandSwitch r isl => Sys2Proof.Machine.execIslandSwitch r isl s
  | .reservationRequest f => Sys2Proof.Machine.execReservationRequest f s
  | .reservationAnswer f => Sys2Proof.Machine.execReservationAnswer f s
  | .reservationTimeout tx => Sys2Proof.Machine.execReservationTimeout tx s
  | .putPacketSend eng => Sys2Proof.Machine.execPutPacketSend eng s
  | .putPacket f k p => Sys2Proof.Machine.execPutPacket f k p s
  | .putack f => Sys2Proof.Machine.execPutack f s
  | .releaseRequest f => Sys2Proof.Machine.execReleaseRequest f s
  | .quietPeriodEnd eng id => Sys2Proof.Machine.execQuietPeriodEnd eng id s
  | .linkFail eng id => Sys2Proof.Machine.execLinkFail eng id s
  | .failureSeen r h sl => Sys2Proof.Machine.execFailureSeen r h sl s
  | .slotAbort r h sl => Sys2Proof.Machine.execSlotAbort r h sl s
  | .keep eng id => Sys2Proof.Machine.execKeep eng id s
  | .trainingSuccess k p lanes peer => Sys2Proof.Machine.execTrainingSuccess k p lanes peer s
  | .trainingTimeout k p => Sys2Proof.Machine.execTrainingTimeout k p s
  | .laneFailure k p lane => Sys2Proof.Machine.execLaneFailure k p lane s
  | .receiveTimeout k p => Sys2Proof.Machine.execReceiveTimeout k p s
  | .replayLimit k p => Sys2Proof.Machine.execReplayLimit k p s
  | .downRetry k p => Sys2Proof.Machine.execDownRetry k p s
  | .flitReceive p raw => Sys2Proof.Machine.execFlitReceive p raw s
  | .frameReceive p peer raw => Sys2Proof.Machine.execFrameReceive p peer raw s
  | .frameResend peer pseq => Sys2Proof.Machine.execFrameResend peer pseq s
  | .remoteRequest f p => Sys2Proof.Machine.execRemoteRequest f p s
  | .remoteResponse f => Sys2Proof.Machine.execRemoteResponse f s
  | .remoteFailover dst => Sys2Proof.Machine.execRemoteFailover dst s
  | .remoteTimeout tx => Sys2Proof.Machine.execRemoteTimeout tx s
  | .killComplete ctx => Sys2Proof.Machine.execKillComplete ctx s
  | .packetLaunch q regions => Sys2Proof.Machine.execPacketLaunch q regions s
  | .packetCopy q => Sys2Proof.Machine.execPacketCopy q s
  | .copyDone q => Sys2Proof.Machine.execCopyDone q s
  | .packetEvent q => Sys2Proof.Machine.execPacketEvent q s
  | .packetNop q => Sys2Proof.Machine.execPacketNop q s
  | .poolDispatch q regions => Sys2Proof.Machine.execPoolDispatch q regions s
  | .preempt part => Sys2Proof.Machine.execPreempt part s
  | .deficitExpiry part => Sys2Proof.Machine.execDeficitExpiry part s
  | .freeze inst => Sys2Proof.Machine.execFreeze inst s
  | .saveDone inst => Sys2Proof.Machine.execSaveDone inst s
  | .resume inst regions => Sys2Proof.Machine.execResume inst regions s
  | .retire inst => Sys2Proof.Machine.execRetire inst s
  | .faultDomainAction r => Sys2Proof.Machine.execFaultDomainAction r s
  | .watchdog q => Sys2Proof.Machine.execWatchdog q s
  | .queueUnpause q => Sys2Proof.Machine.execQueueUnpause q s
  | .windowBoundary inst => Sys2Proof.Machine.execWindowBoundary inst s
  | .rewireStart inst => Sys2Proof.Machine.execRewireStart inst s
  | .nodeSwitch inst node => Sys2Proof.Machine.execNodeSwitch inst node s
  | .switchOrphan r rank => Sys2Proof.Machine.execSwitchOrphan r rank s
  | .splitterDeal inst arc => Sys2Proof.Machine.execSplitterDeal inst arc s
  | .reorderMergeEmit inst node port => Sys2Proof.Machine.execReorderMergeEmit inst node port s
  | .containmentReplay r rank agree => Sys2Proof.Machine.execContainmentReplay r rank agree s
  | .spareMove r rank => Sys2Proof.Machine.execSpareMove r rank s
  | .islandRerun r isl agree => Sys2Proof.Machine.execIslandRerun r isl agree s
  | .l2Scrub slice set way found => Sys2Proof.Machine.execL2Scrub slice set way found s
  | .hbmScrub addr found => Sys2Proof.Machine.execHbmScrub addr found s
  | .checkpointPhaseEnd n => Sys2Proof.Machine.execCheckpointPhaseEnd n s
  | .hostWindowAccess off acc => Sys2Proof.Machine.execHostWindowAccess off acc s
  | .vfWindowAccess vf off acc => Sys2Proof.Machine.execVfWindowAccess vf off acc s
  | .registerWrite off v => Sys2Proof.Machine.execRegisterWrite off v s
  | .keySlotFill slot vf key => Sys2Proof.Machine.execKeySlotFill slot vf key s
  | .tdiExit vf => Sys2Proof.Machine.execTdiExit vf s
  | .getMeasurements fn => Sys2Proof.Machine.execGetMeasurements fn s
  | .firmwareStage img => Sys2Proof.Machine.execFirmwareStage img s
  | .perstRelease b => Sys2Proof.Machine.execPerstRelease b s
  | .shdn => Sys2Proof.Machine.execShdn s
  | .thermtrip tmax => Sys2Proof.Machine.execThermtrip tmax s
  | .energyRefill tmax watts => Sys2Proof.Machine.execEnergyRefill tmax watts s
  | .wfiComplete r => Sys2Proof.Machine.execWfiComplete r s
  | .perstAssert => Sys2Proof.Machine.execPerstAssert s
  | .pwrgd up => Sys2Proof.Machine.execPwrgd up s

end Sys2Proof.Machine
end

