-- ==== Sys2Proof/Machine/Fetch.lean ====
section
/-!
DEFINITION. How a conductor comes to its next word: whether it may run (R205, R211, R245), the instruction
cache (R97, R244), the fetch through translation (R91, R216), decryption of an ENC image's text (R386), and
the energy its instruction costs (R212, R395).
-/
namespace Sys2Proof.Machine

/-- Whether instance `id` is being frozen or discarded, so that instructions in progress may complete first (R211). -/
def State.endsFirst (s : State) (id : Nat) : Bool :=
  match s.inst? id with
  | some i => i.state == .freezing || i.state == .discarding
  | none => false

/-- Whether conductor `r` executes at all: a halted one executes nothing at graph level (R245), and one whose instance does not run
only the instruction that it must complete first (R211). -/
def State.condRuns (s : State) (c : Conductor) : Bool :=
  !s.stopped &&
  (c.pl || (!c.halted && match c.inst with
    | some id => s.running id || (c.issued && s.endsFirst id)
    | none => true))

/-- Text from virtual address `va` on, a multiple of 16: the blocks that lie in the code section of an ENC image are decrypted, each in its
data unit, which counts from CODEOFF (R386). -/
def State.textBytes (s : State) (r va : Nat) (bs : List Byte) : List Byte :=
  match s.instOf r with
  | none => bs
  | some i =>
    let lo := i.image.base.toNat + i.image.codeOff
    match if i.image.enc then (s.context? i.ctx).bind fun c => s.keys.find? fun k => k.slot == c.key.toNat % 256 else none with
    | none => bs
    | some k =>
      (List.range (bs.length / 16)).flatMap fun j =>
        let at_ := va + 16 * j
        let blk := (bs.drop (16 * j)).take 16
        if lo ≤ at_ ∧ at_ < lo + i.image.codeSize then
          Config.xts k.key (i.image.codeOff + (at_ - lo) / 128 * 128) ((at_ - lo) % 128 / 16) blk
        else blk

/-- What a fetch gives. -/
inductive Fetched where
  | word (s : State) (w : BitVec 32)
  | fault (cause : Cause) (found : Option (Nat × Nat) := none)
  | wait (s : State)
  deriving Repr

/-- The word at offset `k` of a line's bytes. -/
def wordAt (bs : List Byte) (k : Nat) : BitVec 32 := BitVec.ofNat 32 (Word.ofBytes ((bs.drop k).take 4))

/-- Whether the page of a translation that the TLBs hold is a system page (R90). -/
def State.sysPage (s : State) (r : Nat) (ctx : BitVec 12) (va : Nat) : Bool :=
  match s.tlbLeaf r ctx va with
  | some (leaf, _) => pteSys leaf.toNat
  | none => false

/-- The fetch at pc (R91, R97, R216). An instruction in progress has been fetched. Only text of the device's own HBM is cached
(R84), and a system page's line serves system level alone (R91). -/
def State.fetch (s : State) (r : Nat) (c : Conductor) : Fetched :=
  let va := c.pc.toNat
  let ctx := s.ctxOf r
  let line := va / 128 * 128
  if c.issued then .word s c.text
  else if Word.field c.pc 63 56 ≠ 0 then .fault .addressForm
  else if va % 4 ≠ 0 then .fault .misalign
  else
    match c.ic.find? fun t => t.ctx == ctx && t.va == line with
    | some t => if t.sys && !c.pl then .fault .access else .word s (wordAt t.bytes (va % 128))
    | none =>
      match s.translate r ctx va { fetch := true, sys := c.pl } with
      | .bad k => .fault k
      | .miss w => .wait (s.askWalk w)
      | .ok pa =>
        let word := fun (s : State) (bs : List Byte) => Fetched.word s (wordAt (s.textBytes r line bs) (va % 128))
        let block := va / 16 * 16
        let fill := fun (s : State) (bs : List Byte) =>
          let t : TextLine := { ctx := ctx, va := line, bytes := s.textBytes r line bs, sys := s.sysPage r ctx va }
          s.modCond r fun d => { d with ic := fillCopy d.ic condLines t }
        match s.place (pa / 128 * 128) with
        | none => .fault .access
        | some (.reg _) => .fault .access
        | some (.remote dev a) =>
          let x := { s.condActor r c with issuer := .text r, arrived := c.fetched }
          match s.remote x c.pc dev (a + pa % 128 / 16 * 16) 1 16 [] with
          | .ok s bs => .word s (wordAt (s.textBytes r block bs) (va % 16))
          | .bad k _ => .fault k
          | .poison a n => .fault .poison (some (a, n))
          | .race _ _ => .fault .race
          | .ask s => .wait s
        | some pl =>
          match s.readPlace pl 128 ctx 0 c.pc with
          | .ok s bs => match pl with
            | .hbm _ => word (fill s bs) bs
            | _ => word s bs
          | .bad k _ => .fault k
          | .poison a n => .fault .poison (some (a, n))
          | .race _ _ => .fault .race
          | .ask s => .wait s

/-- The cost of class COND, 8 pJ (R394), in fJ. -/
def condCost : Nat := 8000

/-- The instruction `w` of conductor `r` is issued: its cost is debited once (R212, R395). `none` where the account
does not cover it. -/
def State.issueCost (s : State) (r : Nat) (c : Conductor) (w : BitVec 32) : Option State :=
  if c.issued then some s
  else if s.affords r condCost then
    some ((s.debit r condCost).modCond r fun c => { c with issued := true, text := w, fetched := [] })
  else none

/-- The least a fetch at pc needs: a TLB entry that maps the page of pc to physical page 0 of the device, with
no copy of the line in the instruction cache, and conductor 0 able to run and to pay (DESIGN CHOICE, log entry 2). -/
def State.readyFetch (s : State) : State :=
  let pc := ((s.cond? 0).map Conductor.pc).getD 0
  let ctx := s.ctxOf 0
  let page := pc.toNat / 65536 * 65536
  { s with
    agenda := .conductor 0 :: s.agenda
    acted := s.acted.filter fun x => x.1 != 0
    stopped := false
    tlb := { region := 0, ctx := ctx, va := page, size := 65536
             leaf := BitVec.ofNat 64 (s.devId.toNat * 2 ^ 44 + 0x7B) } ::
      s.tlb.filter fun t => !(t.region == 0 && t.ctx == ctx && t.va ≤ pc.toNat && pc.toNat < t.va + t.size)
    poison := s.poison.filter fun u => 65536 ≤ u
    latent := s.latent.filter fun b => 65536 ≤ b
    l2 := s.l2.map fun x => { x with bad := false }
    store := { s.store with retired := s.store.retired.filter fun p => p != 0 }
    energy := s.energy.modify 0 fun e => max e condCost
    conds := s.conds.modify 0 fun c => { c with halted := false, bskip := true, issued := false, ic := [] } }

/-- The bytes of an instruction placed where conductor 0 fetches next. -/
def State.placeText (s : State) (bs : List Byte) : State :=
  let pc := ((s.cond? 0).map Conductor.pc).getD 0
  { s.readyFetch with mem := Memory.writeN s.mem (pc.toNat % 65536) bs }

/-- The tokens that let a facet word fire: DATA with the word's tag on each input, NULL on the second input of a
MERGE (DESIGN CHOICE, log entry 2). -/
def placedIns (w : BitVec 64) : List (List Token) :=
  let tag := match Decode.facet w with
    | .ok i => i.word.tgTag
    | .error _ => 0
  let other := match Decode.facet w with
    | .ok (.merge f) => f.b.code % 4
    | _ => 4
  (List.range 4).map fun k => [{ payload := 0, side := sideOf 0 0 false tag (if k = other then 1 else 0) }]

/-- A facet word loaded in slot 0 of a node of one facet, at rank 0 of region 0, that alone has a turn. -/
def State.placeSlot (s : State) (w : BitVec 64) : State :=
  let preds := match Decode.facet w with
    | .ok i => i.word.pv &&& i.word.pm
    | .error _ => 0
  let ctl : Token := { payload := 0, side := 0 }
  { s with
    agenda := .facet 0 0 :: s.agenda
    acted := s.acted.filter fun x => x.1 != 0
    stopped := false
    energy := s.energy.modify 0 fun e => max e 1000000
    insts := { id := 0, ctx := 0, part := 0, queue := 0, packet := [], regions := [0] } ::
      s.insts.filter fun i => i.id != 0
    facets := { inst := 0, node := 0, slots := w :: List.replicate 15 0x00000003EFBEF800, preds := preds
                ins := placedIns w, cins := [[ctl], [ctl]], pres := 0xFFFF, indecl := 0x3F, outdecl := 0x3F } ::
      s.facets.filter fun u => !(u.region == 0 && u.rank == 0) && !(u.is 0 0 0 0) }

end Sys2Proof.Machine
end

