-- ==== Sys2Proof/Machine/Step.lean ====
section
/-!
DEFINITION. One step: the next turn of the agenda (DESIGN CHOICE, log entry 1). What a turn needs, it takes from
Fetch.lean, Fire.lean and Clock.lean; what an instruction does, from `exec`.
-/
namespace Sys2Proof.Machine

/-- A conductor's turn, the last of its region in a clk (R121): a breakpoint match, a fetch fault, an illegal word, or the instruction
decoded. -/
def conductorTurn (r : Nat) (s : State) : Out :=
  match s.cond? r with
  | none => .next s
  | some c =>
    if !s.condRuns c || !s.mayAct r 64 then .next s
    else if !c.pl && !c.bskip && s.matched r c then exec (.breakpointMatch r) s
    else
      match s.fetch r c with
      | .wait s => .next s
      | .fault k found => exec (.fetchFault r k c.pc) (s.meets found)
      | .word s w =>
        match s.issueCost r c w with
        | none => .next s
        | some s =>
          let s := s.didAct r 64
          match Decode.conductor w with
          | .ok i => exec i s
          | .error _ => exec (.illegal r) s

/-- A facet's turn, one at most in a clk (R19): the slot it chooses, if it chooses one (R35, R36). -/
def facetTurn (r rank : Nat) (s : State) : Out :=
  match if s.mayAct r rank then s.chosen r rank else none with
  | none => .next s
  | some (i, s) => exec i (s.didAct r rank)

/-- One step of the machine. -/
def step (s : State) : Out :=
  match s.agenda with
  | [] => .next s.tick
  | t :: rest =>
    let s := { s with agenda := rest }
    match t with
    | .clock => .next s.tick
    | .conductor r => conductorTurn r { s with cur := { region := r } }
    | .facet r rank => facetTurn r rank s
    | .event i => exec i s
    | .lose c => .next (s.lose c)
    | .relink p => .next (s.relink p)
    | .hostRevision => .next s.hostRevision
    | .hostDeviceId fn => .next (s.hostDeviceId fn)
    | .hostBar0 fn off a => .next (s.hostBar0 fn off a)
    | .sensors => .next s.sensors
    | .walkFirst die k => .next (s.walkFirst die k)
    | .upsetFacet r rank lane => .next (s.upsetFacet r rank lane)
    | .upsetIsland r isl => .next (s.upsetIsland r isl)
    | .upset x => .next (s.upset x)
    | .found a n => .next (s.findHere a n)
    | .shutdown => .next s.shutdown
    | .tdiLock vf session => .next (s.tdiLock vf session)
    | .doom ctx => .next (s.terminate ctx)

/-- An instruction placed where the next step fetches (DESIGN CHOICE, log entry 2): a conductor word at conductor 0's pc, a
facet word in a slot of its own. -/
def State.withFetchWord (s : State) (nbits w : Nat) : State :=
  if nbits ≤ 32 then s.placeText (Word.toBytes 4 (w % 2 ^ nbits)) else s.placeSlot (BitVec.ofNat 64 (w % 2 ^ nbits))

end Sys2Proof.Machine
end

