-- ==== Sys2Proof/Safety.lean ====
section
/-!
DEFINITION. The terms in which claims about the machine are made: the runs, what is kept by every step, what an instruction
of a conductor and a firing of a facet leave behind.
-/
namespace Sys2Proof.Machine

/-! ### Runs -/

/-- Both memories are in the canonical form (notes/assumptions/3.md). -/
def State.wf (s : State) : Prop := Memory.wf s.mem = true ∧ Memory.wf s.spad = true

/-- `t` can be reached from `s` by steps of the machine. -/
inductive Reaches : State → State → Prop where
  | refl (s : State) : Reaches s s
  | step {s t u : State} (h : step s = .next t) (r : Reaches t u) : Reaches s u

/-- A run from `s` is safe for `P` when every state it reaches satisfies `P`. -/
def Safe (P : State → Prop) (s : State) : Prop := ∀ t, Reaches s t → P t

/-- Every byte of both memories reads in `t` as in `s`. -/
def State.sameBytes (s t : State) : Prop :=
  (∀ a, Memory.read t.mem a = Memory.read s.mem a) ∧ ∀ a, Memory.read t.spad a = Memory.read s.spad a

/-! ### An instruction of a conductor -/

/-- Conductor `c` of the region in `cur` executes next. -/
def State.executes (s : State) (c : Conductor) : Prop := s.cond? s.cur.region = some c

/-- `s'` after the instruction of conductor `c` that made it completes, with the next pc (R206, R208, R243): the
conductor's completion, and the detector's count restarted (R58). -/
def State.completed (s' : State) (r : Nat) (c : Conductor) (pc : Word64) : State :=
  let t := s'.modCond r fun d => d.complete (!c.pl) pc
  match c.inst with
  | some id => t.fired id
  | none => t

/-- The instruction of conductor `c` traps (R206): nothing but the conductor changes. -/
def State.tookTrap (s : State) (r : Nat) (t : Trap) : State := s.modCond r fun c => c.trapHere t

/-- The special registers of a conductor are the same (R226): those of traps, SAVEA and SAVEB, the placement, SS, the token
registers but for TOKSB, and the breakpoint registers. -/
def Conductor.sameSpecial (c d : Conductor) : Prop :=
  d.epc = c.epc ∧ d.cause = c.cause ∧ d.faddr = c.faddr ∧ d.finfo = c.finfo ∧ d.tvec = c.tvec ∧ d.savea = c.savea ∧
  d.saveb = c.saveb ∧ d.pl = c.pl ∧ d.ppl = c.ppl ∧ d.plsize = c.plsize ∧ d.plidx = c.plidx ∧ d.inst = c.inst ∧
  d.ss = c.ss ∧ d.tokhi = c.tokhi ∧ d.toksb = c.toksb ∧ d.tokohi = c.tokohi ∧ d.tokosb = c.tokosb ∧
  d.bkpta = c.bkpta ∧ d.bkptc = c.bkptc ∧ d.halted = c.halted ∧ d.pend = c.pend

/-- Conductor `d` goes on at `pc` once an instruction of `c` has completed (R206, R208, R243): there, or at graph level under STEP.SS = 1 at
TVEC with a BREAK whose EPC is `pc`. -/
def Conductor.goesTo (c d : Conductor) (pc : Word64) : Prop :=
  if c.pl = false ∧ c.ss = true then
    d.epc = pc ∧ d.pc = c.tvec ∧ d.pl = true ∧ d.ppl = false ∧ d.cause = BitVec.ofNat 64 (causeCode .brk)
  else d.pc = pc ∧ d.epc = c.epc ∧ d.pl = c.pl ∧ d.ppl = c.ppl ∧ d.cause = c.cause

/-- The same, and every other special register is kept. -/
def Conductor.endsAt (c d : Conductor) (pc : Word64) : Prop :=
  c.goesTo d pc ∧ c.sameSpecial { d with epc := c.epc, cause := c.cause, pl := c.pl, ppl := c.ppl }

/-- An access of agent `a` in region `r` that neither races nor waits at its issue (R120, R121); `since` numbers the first remote
access of its own firing or instruction. -/
abbrev State.clear (s : State) (r : Nat) (a : Agent) (since : Nat) (x : Access) : Prop :=
  s.raceWith r a x = none ∧ s.mustWait r a since x = false

/-- A global address of conductor `c` that leads to byte `a` of the device's own HBM for an access of `n` bytes (R85 to R91),
with no race and nothing to wait for (R120, R121); `scope` is an atomic's. -/
structure State.reaches (s : State) (c : Conductor) (va : Word64) (n : Nat) (write : Bool) (scope : Option Scope) (a : Nat) :
    Prop where
  form : Word.field va 63 56 = 0
  aligned : va.toNat % n = 0
  page : ∃ pa, s.translate s.cur.region (s.ctxOf s.cur.region) va.toNat { write := write, sys := c.pl } = .ok pa ∧
    s.place pa = some (.hbm a) ∧
    s.clear s.cur.region (.conductor s.cur.region) s.nextTx
      { space := 0, addr := pa, len := n, isWrite := write, atomicScope := scope }

/-- A scratchpad address of conductor `c` that leads to byte `k` for an access of `n` bytes (R85, R94, R95), which is not checked
(R133), or neither races nor waits (R120, R121); `scope` is an atomic's. -/
structure State.reachesSpad (s : State) (va : Word64) (n : Nat) (write : Bool) (k : Nat) (scope : Option Scope := none) :
    Prop where
  form : Word.field va 63 56 = 1
  rank : Word.field va 55 24 = 0
  aligned : va.toNat % n = 0
  inside : Word.field va 17 0 + n ≤ s.spadSize s.cur.region (Word.field va 23 18)
  key : k = spadKey s.cur.region (Word.field va 23 18) (Word.field va 17 0)
  free : s.unchecked s.cur.region (.conductor s.cur.region) k n = true ∨
    s.clear s.cur.region (.conductor s.cur.region) s.nextTx
      { space := 1, addr := k, len := n, isWrite := write, atomicScope := scope }

/-! ### A firing of a facet -/

/-- `u`, a chain of one facet, fires the slot in `cur`, with no debug-trap bit (R375). -/
structure State.fires (s : State) (u : FacetUnit) : Prop where
  here : ((s.facetsAt s.cur.region s.cur.rank).find? fun x => x.node == s.cur.node) = some u
  mode : s.cur.mode = .normal
  debug : u.dbg.getLsbD s.cur.slot = false
  chain : u.chain = 1
  pos : u.pos = 0
  found : s.facet? u.inst u.node u.clone 0 = some u
  buffers : u.outs.length = 4 ∧ u.couts.length = 2

/-- The facet as the firing sees it: what arrived in this clk counts from the next (R204). -/
def State.seen (s : State) (u : FacetUnit) : FacetUnit := u.asOf s.clk

/-- No token that the firing pops or peeks is poisoned (R44). -/
abbrev State.clean (s : State) (u : FacetUnit) (i : Instr) : Prop :=
  (∀ t ∈ (s.seen u).tokensRead i, t.psn = false) ∧ s.readsSpoiled (s.seen u) i = false

/-- `s` after the firing's observations (R118, R119, R130). -/
def State.observed (s : State) (i : Instr) (u : FacetUnit) : State :=
  ((s.seen u).tokensRead i).foldl (fun s t => (s.observe u.agent t.rels).orderAfter u.agent t.before) s

/-- A global address of `u` that leads to byte `a` of the device's own HBM for an access of `n` bytes (R85 to R91, R293), with
no race and nothing to wait for (R120, R121); `scope` is an atomic's. -/
structure State.facetReaches (s : State) (i : Instr) (u : FacetUnit) (va : Word64) (n : Nat) (write : Bool) (scope : Option Scope)
    (a : Nat) : Prop where
  form : Word.field va 63 56 = 0
  aligned : va.toNat % n = 0
  page : ∃ pa, s.translate u.region (((s.inst? u.inst).map Inst.ctx).getD 0) va.toNat { write := write, sys := false } = .ok pa ∧
    s.place pa = some (.hbm a) ∧
    (s.observed i u).clear u.region u.agent s.nextTx { space := 0, addr := pa, len := n, isWrite := write, atomicScope := scope }

/-- A scratchpad address of `u` that leads to byte `k` for an access of `n` bytes (R94, R95, R293), which is not checked (R133), or
neither races nor waits (R120, R121). -/
structure State.facetSpad (s : State) (i : Instr) (u : FacetUnit) (a n : Nat) (write : Bool) (scope : Option Scope) (k : Nat) :
    Prop where
  form : a < 0x1000000
  aligned : a % n = 0
  inside : a % 0x40000 + n ≤ s.spadSize u.region (a / 0x40000)
  key : k = spadKey u.region (a / 0x40000) (a % 0x40000)
  free : s.unchecked u.region u.agent k n = true ∨
    (s.observed i u).clear u.region u.agent s.nextTx { space := 1, addr := k, len := n, isWrite := write, atomicScope := scope }

/-- The firing as its one member evaluates it. -/
def State.fire1 (s : State) (i : Instr) (u : FacetUnit) : Fire :=
  { rd := s, s := s.observed i u, u := s.seen u, lead := u, w := i.word, slot := s.cur.slot, assisted := false }

/-- `s'` with the effect `fx` of the firing committed (R10). -/
def State.firedOnce (s' : State) (i : Instr) (u : FacetUnit) (slot : Nat) (fx : Fx) : State :=
  let t := s'.commitMember i u fx
  let t := t.modFacet u.inst u.node u.clone 0 fun v => v.settled (u.replayOf i slot t.clk)
  ((if u.cls.toNat % 4 = 1 ∧ u.combineOp = 2 then { t with fresh := t.fresh + 8 } else t).freeIssued
    (.facet u.inst u.node u.clone)).fired u.inst

/-- `s'` is `s` with other sectors in the L1 of the facet at the place of `u` (R96, R310). -/
def State.sameButL1 (s s' : State) (u : FacetUnit) : Prop :=
  ∃ g : FacetUnit → List CacheLine, s' = { s with facets := s.facets.map fun v =>
    if v.region = u.region ∧ v.rank = u.rank then { v with l1 := g v } else v }

/-- The conductors of `t` are those of `s`, but for a waiting WFI that has been woken (R242). -/
def State.sameConds (s t : State) : Prop :=
  ∀ r, t.cond? r = s.cond? r ∨ ∃ c, s.cond? r = some c ∧ c.wfi = some false ∧ t.cond? r = some { c with wfi := some true }

/-- What the firing of `i` by `u` leaves in `t` when it writes `val` to D and gives `cond` (R10, R38, R39, R40, R137): the
tokens popped, D written, the predicates updated; nothing of another facet, and of no conductor. -/
structure State.gave (s t : State) (i : Instr) (u : FacetUnit) (val : Option Word128) (cond : Bool) : Prop where
  unit : ∃ v, t.facet? u.inst u.node u.clone 0 = some v ∧
    v.regs = (match i.word.d, val with | .reg n, some x => u.regs.set n.val x | _, _ => u.regs) ∧
    v.preds = predsAfter i.word true none cond u.preds ∧
    (∀ n : Fin 16, v.pres.getLsbD n.val =
      if i.word.d = .reg n ∧ val.isSome = true then true
      else if u.chreg.getLsbD n.val = true ∧ Operand.reg n ∈ i.sources then false else u.pres.getLsbD n.val) ∧
    (∀ k : Fin 4, v.ins.getD k.val [] =
      if k ∈ popsOf i.sources then (u.ins.getD k.val []).drop 1 else u.ins.getD k.val []) ∧
    v.cins = u.cins ∧ v.couts = u.couts ∧
    (v.slots = u.slots ∧ v.konst = u.konst ∧ v.chreg = u.chreg ∧ v.dbg = u.dbg ∧
      v.spoiled = (match i.word.d, val with | .reg n, some _ => u.spoiled &&& ~~~(1#16 <<< n.val) | _, _ => u.spoiled)) ∧
    (∀ o : Fin 4, (v.outs.getD o.val []).map (fun e => (e.tok.payload, e.tok.kind)) =
      (u.outs.getD o.val []).map (fun e => (e.tok.payload, e.tok.kind)) ++
        (match i.word.d, val with | .out p, some x => if p = o then [(x, 0)] else [] | _, _ => []))
  others : ∀ inst node clone pos, u.is inst node clone pos = false → t.facet? inst node clone pos = s.facet? inst node clone pos
  conds : s.sameConds t

/-- What a firing of `u` that sends tokens leaves in `t` (R10, R38, R40, R45): `pops` popped, the control token at `cpop`
removed, the tokens `sent` (output, payload, KIND; outputs 4 and 5 are k0 and k1) placed in order, `regs` and `preds` held; nothing
of another facet, no conductor and no byte of memory. -/
structure State.passed (s t : State) (u : FacetUnit) (pops : List (Fin 4)) (cpop : Option (Fin 2))
    (sent : List (Nat × Word128 × Nat)) (regs : List Word128) (preds : BitVec 8) : Prop where
  unit : ∃ v, t.facet? u.inst u.node u.clone 0 = some v ∧ v.regs = regs ∧ v.preds = preds ∧
    (∀ k : Fin 4, v.ins.getD k.val [] = if k ∈ pops then (u.ins.getD k.val []).drop 1 else u.ins.getD k.val []) ∧
    (∀ k : Fin 2, v.cins.getD k.val [] = if cpop = some k then (u.cins.getD k.val []).drop 1 else u.cins.getD k.val []) ∧
    (∀ o : Fin 4, (v.outs.getD o.val []).map (fun e => (e.tok.payload, e.tok.kind)) =
      (u.outs.getD o.val []).map (fun e => (e.tok.payload, e.tok.kind)) ++ (sent.filter fun e => e.1 == o.val).map Prod.snd) ∧
    ∀ k : Fin 2, (v.couts.getD k.val []).map (fun e => (e.tok.payload, e.tok.kind)) =
      (u.couts.getD k.val []).map (fun e => (e.tok.payload, e.tok.kind)) ++ (sent.filter fun e => e.1 == 4 + k.val).map Prod.snd
  others : ∀ inst node clone pos, u.is inst node clone pos = false → t.facet? inst node clone pos = s.facet? inst node clone pos
  conds : t.conds = s.conds
  bytes : s.sameBytes t

end Sys2Proof.Machine
end

