-- ==== Sys2Proof/Certificates/Slice0/Obligations.lean ====
section
/-!
DEFINITION. The statements for the provers. Each one's docstring names the rules of spec/ it formalises. A table that several
statements share stands before them: it gives, instruction by instruction, what the rule's own table says.
-/
namespace Sys2Proof.Claims
open Sys2Proof.Machine

/-! ### The conductor's tables (R213 to R219) -/

/-- A number of 0 or 1. -/
def bit (p : Bool) : Word64 := if p then 1 else 0

/-- The instructions of R213 that always write xd, and what they write. -/
def regResult (i : Instr) (c : Conductor) : Option (Reg × Word64) :=
  let x := c.get
  match i with
  | .add d a b => some (d, x a + x b)
  | .sub d a b => some (d, x a - x b)
  | .and d a b => some (d, x a &&& x b)
  | .or d a b => some (d, x a ||| x b)
  | .xor d a b => some (d, x a ^^^ x b)
  | .andn d a b => some (d, x a &&& ~~~x b)
  | .shl d a b => some (d, x a * BitVec.ofNat 64 (2 ^ ((x b).toNat % 64)))
  | .shrz d a b => some (d, BitVec.ofNat 64 ((x a).toNat / 2 ^ ((x b).toNat % 64)))
  | .shrs d a b => some (d, BitVec.ofInt 64 ((x a).toInt / 2 ^ ((x b).toNat % 64)))
  | .mul d a b => some (d, x a * x b)
  | .mulhs d a b => some (d, BitVec.ofInt 64 ((x a).toInt * (x b).toInt / 2 ^ 64))
  | .mulhz d a b => some (d, BitVec.ofNat 64 ((x a).toNat * (x b).toNat / 2 ^ 64))
  | .divs d a b => some (d, if x b = 0 then -1 else (x a).sdiv (x b))
  | .divz d a b => some (d, if x b = 0 then -1 else x a / x b)
  | .rems d a b => some (d, if x b = 0 then x a else (x a).srem (x b))
  | .remz d a b => some (d, if x b = 0 then x a else x a % x b)
  | .slts d a b => some (d, bit (decide ((x a).toInt < (x b).toInt)))
  | .sltz d a b => some (d, bit (decide ((x a).toNat < (x b).toNat)))
  | .mins d a b => some (d, BitVec.ofInt 64 (min (x a).toInt (x b).toInt))
  | .maxs d a b => some (d, BitVec.ofInt 64 (max (x a).toInt (x b).toInt))
  | .minz d a b => some (d, BitVec.ofNat 64 (min (x a).toNat (x b).toNat))
  | .maxz d a b => some (d, BitVec.ofNat 64 (max (x a).toNat (x b).toNat))
  | .clz d a => some (d, BitVec.ofNat 64 (64 - (if x a = 0 then 0 else Nat.log2 (x a).toNat + 1)))
  | .popc d a => some (d, BitVec.ofNat 64 ((List.range 64).filter fun k => (x a).getLsbD k).length)
  | .addw d a b => some (d, ((x a + x b).setWidth 32).signExtend 64)
  | .subw d a b => some (d, ((x a - x b).setWidth 32).signExtend 64)
  | _ => none

/-- The rows of R213 by FN. -/
def aluRows : List (Reg → Reg → Reg → Instr) :=
  [.add, .sub, .and, .or, .xor, .andn, .shl, .shrz, .shrs, .mul, .mulhs, .mulhz, .divs, .divz, .rems, .remz, .slts, .sltz, .mins,
    .maxs, .minz, .maxz, fun d a _ => .clz d a, fun d a _ => .popc d a, .addw, .subw, .selnz]

/-- The rows of R215 by OP, from 0x10. -/
def branchRows : List (Reg → Reg → BitVec 16 → Instr) := [.beq, .bne, .blts, .bges, .blo, .bhs]

/-- The instructions of R214, and what they write in xd. -/
def immResult (i : Instr) (c : Conductor) : Option (Reg × Word64) :=
  let x := c.get
  match i with
  | .addi d a imm => some (d, x a + imm.signExtend 64)
  | .andi d a imm => some (d, x a &&& imm.setWidth 64)
  | .ori d a imm => some (d, x a ||| imm.setWidth 64)
  | .xori d a imm => some (d, x a ^^^ imm.setWidth 64)
  | .shi d a .shl n => some (d, x a * BitVec.ofNat 64 (2 ^ n.toNat))
  | .shi d a .shrz n => some (d, BitVec.ofNat 64 ((x a).toNat / 2 ^ n.toNat))
  | .shi d a .shrs n => some (d, BitVec.ofInt 64 ((x a).toInt / 2 ^ n.toNat))
  | .slti d a imm => some (d, bit (decide ((x a).toInt < imm.toInt)))
  | .sltiz d a imm => some (d, bit (decide ((x a).toNat < (imm.signExtend 64).toNat)))
  | .lui d imm => some (d, ((imm.setWidth 32) <<< 16).signExtend 64)
  | .ins16 d a imm => some (d, x a * 65536 ||| imm.setWidth 64)
  | .addpc d imm => some (d, c.pc + 4 + imm.signExtend 64 * 4)
  | _ => none

/-- The branches of R215: whether the test holds, and DISP16. -/
def branchOf (i : Instr) (c : Conductor) : Option (Bool × BitVec 16) :=
  let x := c.get
  match i with
  | .beq a b disp => some (decide (x a = x b), disp)
  | .bne a b disp => some (decide (x a ≠ x b), disp)
  | .blts a b disp => some (decide ((x a).toInt < (x b).toInt), disp)
  | .bges a b disp => some (decide ((x a).toInt ≥ (x b).toInt), disp)
  | .blo a b disp => some (decide ((x a).toNat < (x b).toNat), disp)
  | .bhs a b disp => some (decide ((x a).toNat ≥ (x b).toNat), disp)
  | _ => none

/-- The jumps of R216: the link register, if one is written, and the target. -/
def jumpOf (i : Instr) (c : Conductor) : Option (Option Reg × Word64) :=
  match i with
  | .j disp => some (none, c.pc + 4 + disp.signExtend 64 * 4)
  | .jal disp => some (some 31, c.pc + 4 + disp.signExtend 64 * 4)
  | .jalr d a imm => some (some d, c.get a + imm.signExtend 64)
  | _ => none

/-- `s` with the link register of a jump written. -/
def linked (s : State) (r : Nat) (l : Option Reg) (v : Word64) : State :=
  match l with
  | some d => s.setX r d v
  | none => s

/-- The register that an instruction of R213 to R216 may write. -/
def destOf (i : Instr) : Option Reg :=
  match i with
  | .selnz d _ _ => some d
  | i => match regResult i {}, immResult i {}, jumpOf i {} with
    | some (d, _), _, _ => some d
    | _, some (d, _), _ => some d
    | _, _, some (l, _) => l
    | _, _, _ => none

/-- Whether an instruction is one of R213 to R216. -/
def plain (i : Instr) : Bool :=
  match i with
  | .selnz _ _ _ => true
  | i => (regResult i {}).isSome || (immResult i {}).isSome || (branchOf i {}).isSome || (jumpOf i {}).isSome

/-- The loads of R217: the bytes read, the extension, xd, xa and IMM16. -/
def loadOf (i : Instr) : Option (Nat × (Nat → Word64) × Reg × Reg × BitVec 16) :=
  match i with
  | .ldb d a imm => some (1, fun v => (BitVec.ofNat 8 v).signExtend 64, d, a, imm)
  | .ldh d a imm => some (2, fun v => (BitVec.ofNat 16 v).signExtend 64, d, a, imm)
  | .ldw d a imm => some (4, fun v => (BitVec.ofNat 32 v).signExtend 64, d, a, imm)
  | .ldd d a imm => some (8, fun v => BitVec.ofNat 64 v, d, a, imm)
  | .ldbz d a imm => some (1, fun v => (BitVec.ofNat 8 v).setWidth 64, d, a, imm)
  | .ldhz d a imm => some (2, fun v => (BitVec.ofNat 16 v).setWidth 64, d, a, imm)
  | .ldwz d a imm => some (4, fun v => (BitVec.ofNat 32 v).setWidth 64, d, a, imm)
  | _ => none

/-- The stores of R218: the bytes written, the data register, xa and IMM16. -/
def storeOf (i : Instr) : Option (Nat × Reg × Reg × BitVec 16) :=
  match i with
  | .stb d a imm => some (1, d, a, imm)
  | .sth d a imm => some (2, d, a, imm)
  | .stw d a imm => some (4, d, a, imm)
  | .std d a imm => some (8, d, a, imm)
  | _ => none

/-- An atomic of R219: xd, xa, xb, the bytes of its unit and the level, and the new value of its unit from the old one, the
operand and the value expected, all unsigned. -/
structure Amo where
  d : Reg
  a : Reg
  b : Reg
  n : Nat
  lvl : Level
  new : Nat → Nat → Nat → Nat

/-- The smaller and the larger of two numbers of `n` bytes read as signed. -/
def signedMin (n x y : Nat) : Nat := if (BitVec.ofNat (8 * n) y).toInt < (BitVec.ofNat (8 * n) x).toInt then y else x
def signedMax (n x y : Nat) : Nat := if (BitVec.ofNat (8 * n) x).toInt < (BitVec.ofNat (8 * n) y).toInt then y else x

/-- The atomics of R219. -/
def amoOf (i : Instr) : Option Amo :=
  let n := fun (wide : Bool) => if wide then 8 else 4
  match i with
  | .amoAdd d a b w l => some ⟨d, a, b, n w, l, fun old v _ => (old + v) % 2 ^ (8 * n w)⟩
  | .amoAnd d a b w l => some ⟨d, a, b, n w, l, fun old v _ => old &&& v⟩
  | .amoOr d a b w l => some ⟨d, a, b, n w, l, fun old v _ => old ||| v⟩
  | .amoXor d a b w l => some ⟨d, a, b, n w, l, fun old v _ => old ^^^ v⟩
  | .amoMins d a b w l => some ⟨d, a, b, n w, l, fun old v _ => signedMin (n w) old v⟩
  | .amoMaxs d a b w l => some ⟨d, a, b, n w, l, fun old v _ => signedMax (n w) old v⟩
  | .amoMinz d a b w l => some ⟨d, a, b, n w, l, fun old v _ => min old v⟩
  | .amoMaxz d a b w l => some ⟨d, a, b, n w, l, fun old v _ => max old v⟩
  | .amoXchg d a b w l => some ⟨d, a, b, n w, l, fun _ v _ => v⟩
  | .amoCas d a b w l => some ⟨d, a, b, n w, l, fun old v e => if old = e then v else old⟩
  | .amoFadd d a b l => some ⟨d, a, b, 4, l, fun old v _ =>
      (Machine.Float.encode Machine.Float.f32 0 (Machine.Float.add 0 (Machine.Float.decode Machine.Float.f32 old)
        (Machine.Float.decode Machine.Float.f32 v))).bits⟩
  | _ => none

/-- The address and the bytes of an access of R217 to R219. -/
def addressed (i : Instr) (c : Conductor) : Option (Word64 × Nat) :=
  match loadOf i, storeOf i, amoOf i with
  | some (n, _, _, a, imm), _, _ => some (c.get a + imm.signExtend 64, n)
  | _, some (n, _, a, imm), _ => some (c.get a + imm.signExtend 64, n)
  | _, _, some m => some (c.get m.a, m.n)
  | _, _, _ => none

end Sys2Proof.Claims

open Sys2Proof Sys2Proof.Machine Sys2Proof.Claims

/-! ### Conductor arithmetic, branches and jumps -/

/-- R213: an ALU instruction writes xd and completes at pc + 4; SELNZ gives xd the value of xa when xb is not 0, and otherwise xd
keeps its value. Shift counts are taken modulo 64, and a division by 0 gives its row's result: none traps. FN selects the
operation, and CLZ and POPC have a zero B.
Completes, by its own effect: add, sub, and, or, xor, andn, shl, shrz, shrs, mul, mulhs, mulhz, divs, divz, rems, remz, slts,
sltz, mins, maxs, minz, maxz, clz, popc, addw, subw, selnz. -/
def Obligations.RegisterInstructionWritesItsResult : Prop :=
  (∀ (k : Nat) (f : Reg → Reg → Reg → Instr), aluRows[k]? = some f → ∀ d a b : Reg,
    Decode.conductor (Encode.formR 0x01 d a b (BitVec.ofNat 11 k)) =
      if (k = 22 ∨ k = 23) ∧ b ≠ 0 then .error .unusedField else .ok (f d a b)) ∧
  ∀ (s : State) (c : Conductor), s.executes c →
    (∀ (i : Instr) (d : Reg) (v : Word64), regResult i c = some (d, v) →
      exec i s = .next ((s.setX s.cur.region d v).completed s.cur.region c (c.pc + 4))) ∧
    ∀ d a b : Reg, exec (.selnz d a b) s = .next (
      (if c.get b ≠ 0 then s.setX s.cur.region d (c.get a) else s).completed s.cur.region c (c.pc + 4))

/-- R214: an immediate instruction writes xd, and completes at pc + 4.
Completes, by its own effect: addi, andi, ori, xori, shi, slti, sltiz, lui, ins16, addpc. -/
def Obligations.ImmediateInstructionWritesItsResult : Prop :=
  ∀ (s : State) (c : Conductor) (i : Instr) (d : Reg) (v : Word64),
    s.executes c → immResult i c = some (d, v) →
    exec i s = .next ((s.setX s.cur.region d v).completed s.cur.region c (c.pc + 4))

/-- R215, R142, R216: a branch whose test fails goes on at pc + 4; one whose test holds goes to its target; a target outside
form 0x00 raises ADDRESS_FORM, else one that is not a multiple of 4 raises MISALIGN, with no effect. The six have OP 0x10 to
0x15 of format B.
Completes, by its own effect: beq, bne, blts, bges, blo, bhs. -/
def Obligations.BranchGoesToItsTarget : Prop :=
  (∀ (k : Nat) (f : Reg → Reg → BitVec 16 → Instr), branchRows[k]? = some f → ∀ (a b : Reg) (disp : BitVec 16),
    Decode.conductor (Encode.formI (BitVec.ofNat 6 (0x10 + k)) a b disp) = .ok (f a b disp)) ∧
  ∀ (s : State) (c : Conductor) (i : Instr) (taken : Bool) (disp : BitVec 16),
    s.executes c → branchOf i c = some (taken, disp) →
    let t := c.pc + 4 + disp.signExtend 64 * 4
    exec i s = .next (
      if taken = false then s.completed s.cur.region c (c.pc + 4)
      else if Word.field t 63 56 ≠ 0 then s.tookTrap s.cur.region { cause := .addressForm, faddr := some t }
      else if t.toNat % 4 ≠ 0 then s.tookTrap s.cur.region { cause := .misalign, faddr := some t }
      else s.completed s.cur.region c t)

/-- R216: J, JAL and JALR write their link register with pc + 4 and go to the target, read before the link is written; a
faulting target writes nothing. -/
def Sys2Proof.Claims.jumpLinksAndGoesToItsTarget : Prop :=
  ∀ (s : State) (c : Conductor) (i : Instr) (l : Option Reg) (t : Word64),
    s.executes c → jumpOf i c = some (l, t) →
    exec i s = .next (
      if Word.field t 63 56 ≠ 0 then s.tookTrap s.cur.region { cause := .addressForm, faddr := some t }
      else if t.toNat % 4 ≠ 0 then s.tookTrap s.cur.region { cause := .misalign, faddr := some t }
      else (linked s s.cur.region l (c.pc + 4)).completed s.cur.region c t)

/-- R142: a register written reads as written, but x0, which discards the write and reads as zero; no other register
changes. -/
def Sys2Proof.Claims.registerWriteReadsBack : Prop :=
  ∀ (c : Conductor) (d q : Reg) (v : Word64), c.x.length = 32 →
    (c.set d v).get q = if q = 0 then 0 else if q = d then v else c.get q

/-- The claim jumpLinksAndGoesToItsTarget (R216). The claim registerWriteReadsBack (R142).
Completes, by its own effect: j, jal, jalr. -/
def Obligations.JumpsLinkAndRegistersReadBack : Prop :=
  jumpLinksAndGoesToItsTarget ∧ registerWriteReadsBack

/-- The frame of R213 to R216: whatever such an instruction does, every register but its xd, every other conductor, every byte
of memory and of the scratchpads keep their values; and where it neither traps nor ends in a BREAK of single step, so do the
special registers. -/
def Obligations.PlainInstructionFrame : Prop :=
  ∀ (s t : State) (c : Conductor) (i : Instr), s.executes c → plain i = true → exec i s = .next t →
    ∃ d, t.cond? s.cur.region = some d ∧ (∀ q, destOf i ≠ some q → d.get q = c.get q) ∧
      (∀ r, r ≠ s.cur.region → t.cond? r = s.cond? r) ∧ s.sameBytes t ∧
      ((c.pl = true ∨ c.ss = false) →
        (∀ disp, branchOf i c = some (true, disp) → Word.field (c.pc + 4 + disp.signExtend 64 * 4) 63 56 = 0 ∧
          (c.pc + 4 + disp.signExtend 64 * 4).toNat % 4 = 0) →
        (∀ l u, jumpOf i c = some (l, u) → Word.field u 63 56 = 0 ∧ u.toNat % 4 = 0) → c.sameSpecial d)

/-- R206, R208, R243: an instruction of graph level that completes clears BSKIP and, while STEP.SS is 1, is followed by BREAK at
the next instruction; one of system level only moves pc. -/
def Sys2Proof.Claims.completionMovesPcAndStepsUnderSs : Prop :=
  ∀ (s : State) (c : Conductor) (pc : Word64), s.executes c →
    ∃ d, (s.completed s.cur.region c pc).cond? s.cur.region = some d ∧ d.x = c.x ∧
      (c.pl = true → d.pc = pc ∧ d.bskip = c.bskip ∧ c.sameSpecial d) ∧
      (c.pl = false → c.ss = false → d.pc = pc ∧ d.bskip = false ∧ c.sameSpecial d) ∧
      (c.pl = false → c.ss = true → d.epc = pc ∧ d.pc = c.tvec ∧ d.pl = true ∧ d.ppl = false ∧ d.bskip = false ∧
        d.cause = BitVec.ofNat 64 (causeCode .brk) ∧ d.faddr = c.faddr ∧ d.finfo = c.finfo)

/-! ### Conductor loads, stores and atomics -/

/-- R217, R97: a load of mapped HBM reads the bytes at its address, little-endian, extends them as its row says and writes xd
(a load into x0 discards the value): from memory where the L1 holds no copy of the line, else from the copy. -/
def Sys2Proof.Claims.loadReadsItsBytes : Prop :=
  ∀ (s : State) (c : Conductor) (i : Instr) (n : Nat) (ext : Nat → Word64) (d a : Reg) (imm : BitVec 16) (x : Nat) (bs : List Byte),
    s.executes c → c.x.length = 32 → loadOf i = some (n, ext, d, a, imm) →
    s.reaches c (c.get a + imm.signExtend 64) n false none x →
    (c.l1.find? (fun l => l.addr == x / 128 * 128) = none ∧ s.poisoned x n = false ∧ bs = Memory.readN s.mem x n ∨
      ∃ l, c.l1.find? (fun l => l.addr == x / 128 * 128) = some l ∧ bs = (l.bytes.drop (x % 128)).take n) →
    ∃ t e, exec i s = .next t ∧ t.cond? s.cur.region = some e ∧ c.endsAt e (c.pc + 4) ∧
      e.get d = (if d = 0 then 0 else ext (Word.ofBytes bs)) ∧ (∀ q, q ≠ d → e.get q = c.get q) ∧
      (∀ r, r ≠ s.cur.region → t.cond? r = s.cond? r) ∧ s.sameBytes t

/-- R217, R94, R95: a load by a scratchpad address reads the facet SRAM of the region. -/
def Sys2Proof.Claims.loadReadsScratchpad : Prop :=
  ∀ (s : State) (c : Conductor) (i : Instr) (n : Nat) (ext : Nat → Word64) (d a : Reg) (imm : BitVec 16) (k : Nat),
    s.executes c → c.x.length = 32 → loadOf i = some (n, ext, d, a, imm) →
    s.reachesSpad (c.get a + imm.signExtend 64) n false k → s.spadPoisoned k n = false →
    ∃ t e, exec i s = .next t ∧ t.cond? s.cur.region = some e ∧ c.endsAt e (c.pc + 4) ∧
      e.get d = (if d = 0 then 0 else ext (Word.ofBytes (Memory.readN s.spad k n))) ∧
      (∀ q, q ≠ d → e.get q = c.get q) ∧ (∀ r, r ≠ s.cur.region → t.cond? r = s.cond? r) ∧ s.sameBytes t

/-- The claim loadReadsItsBytes (R217, R97). The claim loadReadsScratchpad (R217, R94, R95).
The model's choice: log entry 61.
Completes, by its own effect: ldb, ldh, ldw, ldd, ldbz, ldhz, ldwz. -/
def Obligations.LoadsReadTheirBytes : Prop :=
  loadReadsItsBytes ∧ loadReadsScratchpad

/-- R218, R97: a store to mapped HBM writes the low bytes of its data register at its address and nothing else: every byte of
memory outside them, every scratchpad byte and every register keep their values. -/
def Sys2Proof.Claims.storeWritesItsBytes : Prop :=
  ∀ (s : State) (c : Conductor) (i : Instr) (n : Nat) (d a : Reg) (imm : BitVec 16) (x : Nat),
    s.executes c → storeOf i = some (n, d, a, imm) →
    s.reaches c (c.get a + imm.signExtend 64) n true none x →
    ∃ t e, exec i s = .next t ∧ t.cond? s.cur.region = some e ∧ c.endsAt e (c.pc + 4) ∧ e.x = c.x ∧
      (∀ k, k < n → Memory.read t.mem (x + k) = BitVec.ofNat 8 ((c.get d).toNat / 256 ^ k)) ∧
      (∀ b, b < x ∨ x + n ≤ b → Memory.read t.mem b = Memory.read s.mem b) ∧
      (∀ b, Memory.read t.spad b = Memory.read s.spad b) ∧ (∀ r, r ≠ s.cur.region → t.cond? r = s.cond? r)

/-- R218, R94, R95: a store by a scratchpad address writes the facet SRAM of the region, and nothing else. -/
def Sys2Proof.Claims.storeWritesScratchpad : Prop :=
  ∀ (s : State) (c : Conductor) (i : Instr) (n : Nat) (d a : Reg) (imm : BitVec 16) (k : Nat),
    s.executes c → storeOf i = some (n, d, a, imm) → s.reachesSpad (c.get a + imm.signExtend 64) n true k →
    ∃ t e, exec i s = .next t ∧ t.cond? s.cur.region = some e ∧ c.endsAt e (c.pc + 4) ∧ e.x = c.x ∧
      (∀ r, r ≠ s.cur.region → t.cond? r = s.cond? r) ∧
      (∀ j, j < n → Memory.read t.spad (k + j) = BitVec.ofNat 8 ((c.get d).toNat / 256 ^ j)) ∧
      (∀ b, b < k ∨ k + n ≤ b → Memory.read t.spad b = Memory.read s.spad b) ∧ ∀ b, Memory.read t.mem b = Memory.read s.mem b

/-- The claim storeWritesItsBytes (R218, R97). The claim storeWritesScratchpad (R218, R94, R95).
The model's choice: log entry 61.
Completes, by its own effect: stb, sth, stw, std. -/
def Obligations.StoresWriteTheirBytes : Prop :=
  storeWritesItsBytes ∧ storeWritesScratchpad

/-- R85, R88, R94, R95: a load, a store or an atomic of the conductor whose address has a form that it does not read raises
ADDRESS_FORM: a form byte over 1, or a scratchpad address with a nonzero bit in 55:24; one of a readable form that is no multiple of its
size raises MISALIGN; one past the end of its rank's scratchpad raises ACCESS: each with FADDR the address and no other effect. -/
def Sys2Proof.Claims.badAddressTraps : Prop :=
  ∀ (s : State) (c : Conductor) (i : Instr) (va : Word64) (n : Nat), s.executes c → addressed i c = some (va, n) →
    let raises := fun k => exec i s = .next (s.tookTrap s.cur.region { cause := k, faddr := some va })
    (1 < Word.field va 63 56 → raises .addressForm) ∧
    (Word.field va 63 56 = 0 → va.toNat % n ≠ 0 → raises .misalign) ∧
    (Word.field va 63 56 = 1 →
      (Word.field va 55 24 ≠ 0 → raises .addressForm) ∧
      (Word.field va 55 24 = 0 → va.toNat % n ≠ 0 → raises .misalign) ∧
      (Word.field va 55 24 = 0 → va.toNat % n = 0 → s.spadSize s.cur.region (Word.field va 23 18) < Word.field va 17 0 + n →
        raises .access))

/-- R131: an atomic of the conductor to the host window, the CXL.mem window or the device register space raises ACCESS at its address, with
no other effect. -/
def Sys2Proof.Claims.atomicOutsideMemoryTraps : Prop :=
  ∀ (s : State) (c : Conductor) (i : Instr) (m : Amo) (pa : Nat) (p : Place), s.executes c → amoOf i = some m →
    let va := c.get m.a
    Word.field va 63 56 = 0 → va.toNat % m.n = 0 →
    s.translate s.cur.region (s.ctxOf s.cur.region) va.toNat { write := true, sys := c.pl } = .ok pa →
    s.place pa = some p → (∃ a, p = .host a ∨ p = .cxl a ∨ p = .reg a) →
    exec i s = .next (s.tookTrap s.cur.region { cause := .access, faddr := some va })

/-- The claim badAddressTraps (R85, R88, R94, R95). The claim atomicOutsideMemoryTraps (R131). -/
def Obligations.BadAddressTraps : Prop :=
  badAddressTraps ∧ atomicOutsideMemoryTraps

/-- R219, R131: an atomic on mapped HBM gives xd the old value, sign-extended, and its unit the new one; nothing else in memory
changes. -/
def Sys2Proof.Claims.amoOnMemory : Prop :=
  ∀ (s : State) (c : Conductor) (i : Instr) (m : Amo) (x : Nat),
    s.executes c → c.x.length = 32 → amoOf i = some m →
    s.reaches c (c.get m.a) m.n true (some (s.condScope s.cur.region m.lvl.val)) x → s.poisoned x m.n = false →
    let old := s.num x m.n
    let v := (c.get m.b).toNat % 2 ^ (8 * m.n)
    let e := (c.get m.d).toNat % 2 ^ (8 * m.n)
    ∃ t k, exec i s = .next t ∧ t.cond? s.cur.region = some k ∧ c.endsAt k (c.pc + 4) ∧
      k.get m.d = (if m.d = 0 then 0 else (BitVec.ofNat (8 * m.n) old).signExtend 64) ∧
      (∀ q, q ≠ m.d → k.get q = c.get q) ∧ t.num x m.n = m.new old v e ∧
      (∀ b, b < x ∨ x + m.n ≤ b → Memory.read t.mem b = Memory.read s.mem b) ∧
      ∀ b, Memory.read t.spad b = Memory.read s.spad b

/-- R219, R131, R95: an atomic by a scratchpad address acts on the facet SRAM of the region in the same way, but FADD, which raises ACCESS
there. -/
def Sys2Proof.Claims.amoOnScratchpad : Prop :=
  ∀ (s : State) (c : Conductor) (i : Instr) (m : Amo) (x : Nat),
    s.executes c → c.x.length = 32 → amoOf i = some m →
    s.reachesSpad (c.get m.a) m.n true x (some (s.condScope s.cur.region m.lvl.val)) →
    let old := Word.ofBytes (Memory.readN s.spad x m.n)
    let v := (c.get m.b).toNat % 2 ^ (8 * m.n)
    let e := (c.get m.d).toNat % 2 ^ (8 * m.n)
    ((∃ d a b l, i = .amoFadd d a b l) →
      exec i s = .next (s.tookTrap s.cur.region { cause := .access, faddr := some (c.get m.a) })) ∧
    ((∀ d a b l, i ≠ .amoFadd d a b l) → s.spadPoisoned x m.n = false →
      ∃ t k, exec i s = .next t ∧ t.cond? s.cur.region = some k ∧ c.endsAt k (c.pc + 4) ∧
        k.get m.d = (if m.d = 0 then 0 else (BitVec.ofNat (8 * m.n) old).signExtend 64) ∧
        (∀ q, q ≠ m.d → k.get q = c.get q) ∧ Word.ofBytes (Memory.readN t.spad x m.n) = m.new old v e ∧
        (∀ b, b < x ∨ x + m.n ≤ b → Memory.read t.spad b = Memory.read s.spad b) ∧
        ∀ b, Memory.read t.mem b = Memory.read s.mem b)

/-- The claim amoOnMemory (R219, R131). The claim amoOnScratchpad (R219, R131, R95). The model's choice: log entry 61.
Completes, by its own effect: amoAdd, amoAnd, amoOr, amoXor, amoMins, amoMaxs, amoMinz, amoMaxz, amoXchg, amoCas, amoFadd. -/
def Obligations.AmoReadsOldAndWritesNew : Prop :=
  amoOnMemory ∧ amoOnScratchpad

/-! ### Traps, returns and the levels -/

/-- R206, R208: a trap of the instruction at pc saves that address in EPC, the cause in CAUSE with its INFO and NODE, the level in
PPL, enters system level and goes to TVEC; FADDR and FINFO are written where the trap gives them; BSKIP is cleared at graph
level. The x registers, the L1, the instruction cache and all other state are left as they are. -/
def Sys2Proof.Claims.trapSavesAndEntersSystemLevel : Prop :=
  ∀ (s : State) (c : Conductor) (r : Nat) (t : Trap), s.cond? r = some c →
    ∃ d, (s.tookTrap r t).cond? r = some d ∧ d.epc = c.pc ∧ d.pc = c.tvec ∧ d.pl = true ∧ d.ppl = c.pl ∧
      d.cause = BitVec.ofNat 64 (t.info.toNat * 2 ^ 16 + (if t.node then 256 else 0) + causeCode t.cause) ∧
      d.faddr = t.faddr.getD c.faddr ∧ d.finfo = t.finfo.getD c.finfo ∧ d.bskip = (c.pl && c.bskip) ∧
      d.x = c.x ∧ d.l1 = c.l1 ∧ d.ic = c.ic ∧ d.tvec = c.tvec ∧ d.savea = c.savea ∧ d.saveb = c.saveb ∧ d.ss = c.ss ∧
      (∀ q, q ≠ r → (s.tookTrap r t).cond? q = s.cond? q) ∧ s.sameBytes (s.tookTrap r t)

/-- R241: TRAP and BRK trap with their cause and the code as INFO, EPC naming the instruction. -/
def Sys2Proof.Claims.sysTrapAndBrkTrap : Prop :=
  ∀ (s : State) (c : Conductor) (code : BitVec 6), s.executes c →
    exec (.sysTrap code) s = .next (s.tookTrap s.cur.region { cause := .trapInsn, info := code.setWidth 16 }) ∧
    exec (.sysBrk code) s = .next (s.tookTrap s.cur.region { cause := .brk, info := code.setWidth 16 })

/-- The claim trapSavesAndEntersSystemLevel (R206, R208). The claim sysTrapAndBrkTrap (R241). The claim
completionMovesPcAndStepsUnderSs (R206, R208, R243).
Completes, by its own effect: sysTrap, sysBrk. -/
def Obligations.TrapsAndCompletionAreTaken : Prop :=
  trapSavesAndEntersSystemLevel ∧ sysTrapAndBrkTrap ∧ completionMovesPcAndStepsUnderSs

/-- R208, R207: ERET at system level sets pc to EPC and PL to PPL. A return to graph level with a node fault pending takes the
oldest before the instruction at EPC, with NODE set, and EPC kept, or naming the HALT of a conductor that has halted (R245). The
model's choice: log entry 11.
Completes, by its own effect: eret. -/
def Obligations.EretReturnsAndTakesPendingFaults : Prop :=
  ∀ (s : State) (c : Conductor), s.executes c → c.pl = true →
    ∃ t d, exec .eret s = .next t ∧ t.cond? s.cur.region = some d ∧ d.x = c.x ∧ s.sameBytes t ∧ d.bskip = c.bskip ∧
      (c.ppl = true ∨ c.pend = [] → d.pc = c.epc ∧ d.pl = c.ppl ∧ d.epc = c.epc ∧ d.cause = c.cause ∧ d.pend = c.pend) ∧
      (∀ f fs, c.ppl = false → c.pend = f :: fs →
        d.pc = c.tvec ∧ d.epc = (if c.halted then c.haltPc else c.epc) ∧ d.pl = true ∧ d.ppl = false ∧ d.pend = fs ∧ d.faddr = f.faddr ∧ d.finfo = f.finfo ∧
        d.cause = BitVec.ofNat 64 (f.info.toNat * 2 ^ 16 + 256 + causeCode f.cause))

/-- R205: at graph level ERET, FENCE.TINV, L2CTL SETRB, SETRL and UNPIN, MFS and MTS of the registers closed to it, and loads and
stores of the device register space raise ACCESS with no other effect; HALT raises it at system level. -/
def Obligations.SystemOnlyInstructionsTrapAtGraphLevel : Prop :=
  ∀ (s : State) (c : Conductor), s.executes c →
    (c.pl = false →
      (∀ i : Instr, (i = .eret ∨ (∃ a b, i = .fenceTinv a b) ∨ (∃ a b n, i = .l2ctlSetrb a b n) ∨
          (∃ a b n, i = .l2ctlSetrl a b n) ∨ (∃ a b n, i = .l2ctlUnpin a b n) ∨
          (∃ d n, i = .mfs d n ∧ (n.toNat ≤ 7 ∨ 0x50 ≤ n.toNat ∧ n.toNat ≤ 0x5F)) ∨
          (∃ a n, i = .mts a n ∧ (n.toNat ≤ 7 ∨ 0x50 ≤ n.toNat ∧ n.toNat ≤ 0x5F ∨ 0x10 ≤ n.toNat ∧ n.toNat ≤ 0x14 ∨
            0x20 ≤ n.toNat ∧ n.toNat ≤ 0x22 ∨ n.toNat = 0x30 ∨ n.toNat = 0x40 ∨ n.toNat = 0x41))) →
        exec i s = .next (s.tookTrap s.cur.region { cause := .access })) ∧
      (∀ (i : Instr) (n : Nat) (a : Reg) (imm : BitVec 16) (w : Bool) (pa off : Nat),
        (w = false ∧ (∃ ext d, loadOf i = some (n, ext, d, a, imm)) ∨ w = true ∧ ∃ d, storeOf i = some (n, d, a, imm)) →
        let va := c.get a + imm.signExtend 64
        Word.field va 63 56 = 0 → va.toNat % n = 0 →
        s.translate s.cur.region (s.ctxOf s.cur.region) va.toNat { write := w, sys := false } = .ok pa →
        s.place pa = some (.reg off) →
        exec i s = .next (s.tookTrap s.cur.region { cause := .access, faddr := some va }))) ∧
    (c.pl = true → exec .sysHalt s = .next (s.tookTrap s.cur.region { cause := .access }))

/-- R143, R216, R243, R207, R242: what a conductor does without an instruction's own effect. A word that decodes to none raises
ILLEGAL; a fetch that faults raises its cause at the address fetched; a matched breakpoint raises BREAK before the
instruction; a pending node fault is taken at graph level, the oldest first, with EPC the next instruction, or the HALT of a conductor
that has halted, and not while an access of the conductor is under way in another device; a waiting WFI may complete.
Completes, by its own effect: breakpointMatch, nodeFaultTrap, illegal, fetchFault, wfiComplete. -/
def Obligations.ConductorStepsOfTheDevice : Prop :=
  ∀ (s : State) (r : Nat) (c : Conductor), s.cond? r = some c →
    exec (.illegal r) s = .next (s.tookTrap r { cause := .illegal }) ∧
    (∀ k a, exec (.fetchFault r k a) s = .next (s.tookTrap r { cause := k, faddr := some a })) ∧
    (c.pl = false → c.bskip = false → s.matched r c = true →
      exec (.breakpointMatch r) s = .next (s.modCond r fun d => d.trap d.pc { cause := .brk })) ∧
    (c.pl = false → s.accessBegun r c = true → exec (.nodeFaultTrap r) s = .next s) ∧
    (∀ f fs, c.pl = false → s.accessBegun r c = false → c.pend = f :: fs →
      ∃ t d, exec (.nodeFaultTrap r) s = .next t ∧ t.cond? r = some d ∧ d.epc = (if c.halted then c.haltPc else c.pc) ∧
        d.pc = c.tvec ∧ d.pl = true ∧
        d.ppl = false ∧ d.pend = fs ∧ d.faddr = f.faddr ∧ d.finfo = f.finfo ∧
        d.cause = BitVec.ofNat 64 (f.info.toNat * 2 ^ 16 + 256 + causeCode f.cause) ∧ d.x = c.x) ∧
    (c.wfi.isSome = true → exec (.wfiComplete r) s = .next (s.completed r c (c.pc + 4)))

/-! ### The conductor's system instructions -/

/-- R220, R221, R97: a fence is an ordering point of its scope; FULL, ACQ and TINV empty the conductor's L1; FULL, REL and TINV wait
while a store or an atomic of the conductor is unacknowledged; TINV, a full point at device scope, drops every entry of the regions'
TLBs and of the dies' that maps part of its range for a context it names, and waits while an access for one is under way, or a walk of any
context that was in progress when it began. -/
def Sys2Proof.Claims.fencesOrderAndInvalidate : Prop :=
  ∀ (s : State) (c : Conductor) (lvl : Level), s.executes c →
    let r := s.cur.region
    let me : Agent := .conductor r
    let sc := s.condScope r lvl.val
    exec (.fenceAcq lvl) s = .next (((s.acquire me r sc).dropL1 r).completed r c (c.pc + 4)) ∧
    (s.unacked (Issuer.isConductor r) = false →
      exec (.fenceFull lvl) s = .next ((((s.acquire me r sc).release me r sc).dropL1 r).completed r c (c.pc + 4)) ∧
      exec (.fenceRel lvl) s = .next ((s.release me r sc).completed r c (c.pc + 4))) ∧
    (s.unacked (Issuer.isConductor r) = true → exec (.fenceFull lvl) s = .next s ∧ exec (.fenceRel lvl) s = .next s) ∧
    ∀ a b : Reg, c.pl = true → Word.field (c.get b) 63 45 = 0 →
      let xb := c.get b
      let named := fun (ctx : BitVec 12) => Word.bit xb 44 = true ∨ ctx.toNat = Word.field xb 43 32
      let part := fun (va size : Nat) => Word.field xb 31 0 = 0 ∨
        va < Word.field (c.get a) 55 16 * 65536 + Word.field xb 31 0 * 65536 ∧ Word.field (c.get a) 55 16 * 65536 < va + size
      let walks := (List.range 4).flatMap s.walksAt
      -- the walks that were in progress when it began and are so yet
      let left := (c.fenced.getD walks).filter walks.contains
      (s.unacked (Issuer.isConductor r) = true ∨ (∃ x ∈ s.txns, named x.ctx) ∨ left ≠ [] →
        exec (.fenceTinv a b) s = .next (s.modCond r fun d => { d with fenced := some left })) ∧
      (s.unacked (Issuer.isConductor r) = false → (∀ x ∈ s.txns, ¬named x.ctx) → left = [] →
        ∃ t d, exec (.fenceTinv a b) s = .next (t.completed r c (c.pc + 4)) ∧ t.cond? r = some d ∧ d = { c with l1 := [] } ∧
          t.hb = ((s.acquire me r .device).release me r .device).hb ∧ s.sameBytes t ∧
          (∀ e : TlbEntry, e ∈ t.tlb ↔ e ∈ s.tlb ∧ ¬(named e.ctx ∧ part e.va e.size)) ∧
          ∀ e : DieTlbEntry, e ∈ t.dieTlb ↔ e ∈ s.dieTlb ∧ ¬(named e.ctx ∧ part e.va e.size))

/-- R222, R101, R102, R104: at system level, with xb = 0, L2CTL SETRB writes BASE and OWNER. A value with EN = 1 is refused while EN is
1, where WAYS is 0 or above 8, where LIMIT is below BASE, and where the ways of the enabled ranges would exceed 8; else the range takes the
WAYS highest-numbered ways that no enabled range holds, which WAYMASK shows, and FIRSTWAY the highest. A value with EN = 0 clears EN, and
the lines of the ways released become the most recently used. SETRL is refused while EN is 1. A nonzero RZ bit is refused by both. A refused
write raises RESERVED_FIELD, and nothing else changes. -/
def Sys2Proof.Claims.retentionRegistersAreWritten : Prop :=
  ∀ (s : State) (c : Conductor) (a b : Reg) (n : Fin 16), s.executes c → c.pl = true → c.get b = 0 → s.regs.l2rb.length = 16 →
    s.regs.l2rl.length = 16 →
    let r := s.cur.region
    let v := c.get a
    let on := Word.bit (s.regs.l2rb.getD n.val 0) 63
    let rl := s.regs.l2rl.getD n.val 0
    let refused := s.tookTrap r { cause := .reservedField }
    let wrote := fun (z : State) (reg : Word64) => { z with regs := { z.regs with l2rb := z.regs.l2rb.set n.val reg } }
    let held := fun w => (List.range 16).any fun k => Word.bit (s.regs.l2rb.getD k 0) 63 && Word.bit (s.regs.l2rb.getD k 0) (48 + w)
    let free := (List.range 12).reverse.filter fun w => !held w
    let own := free.take (Word.field rl 43 40)
    let bad := Word.field v 62 60 ≠ 0 ∨ Word.field v 43 40 ≠ 0
    let full := on = true ∨ Word.field rl 43 40 = 0 ∨ 8 < Word.field rl 43 40 ∨ Word.field rl 39 12 < Word.field v 39 12 ∨
      8 < s.waysTotal + Word.field rl 43 40
    (bad ∨ Word.bit v 63 = true ∧ full → exec (.l2ctlSetrb a b n) s = .next refused) ∧
    (¬bad → Word.bit v 63 = true → ¬full → ∃ reg, exec (.l2ctlSetrb a b n) s = .next ((wrote s reg).completed r c (c.pc + 4)) ∧
      Word.bit reg 63 = true ∧ Word.field reg 39 12 = Word.field v 39 12 ∧ Word.field reg 11 0 = Word.field v 11 0 ∧
      (∀ w, w < 12 → (Word.bit reg (48 + w) = true ↔ w ∈ own)) ∧ Word.field reg 47 44 = own.headD 0 ∧ Word.field reg 62 60 = 0 ∧
      Word.field reg 43 40 = 0) ∧
    (¬bad → Word.bit v 63 = false →
      exec (.l2ctlSetrb a b n) s = .next ((wrote (s.unpin n.val) (v &&& 0x000000FFFFFFFFFF)).completed r c (c.pc + 4))) ∧
    (on = true ∨ Word.field v 63 44 ≠ 0 ∨ Word.field v 11 0 ≠ 0 → exec (.l2ctlSetrl a b n) s = .next refused) ∧
    (on = false → Word.field v 63 44 = 0 → Word.field v 11 0 = 0 →
      exec (.l2ctlSetrl a b n) s =
        .next ({ s with regs := { s.regs with l2rl := s.regs.l2rl.set n.val v } }.completed r c (c.pc + 4))) ∧
    (c.get a = 0 → exec (.l2ctlUnpin a b n) s = .next ((s.unpin n.val).completed r c (c.pc + 4))) ∧
    -- clearing EN
    (s.unpin n.val).regs.l2rb = s.regs.l2rb.set n.val (s.regs.l2rb.getD n.val 0 &&& 0x000000FFFFFFFFFF) ∧
    (s.unpin n.val).l2.map (fun y => { y with used := 0 }) = s.l2.map (fun y => { y with used := 0 }) ∧
    (on = false → (s.unpin n.val).l2 = s.l2) ∧
    (on = true → ∀ y ∈ (s.unpin n.val).l2, Word.bit (s.regs.l2rb.getD n.val 0) (48 + y.way) = true → y.way < 12 →
      ∀ z ∈ s.l2, z.slice = y.slice → z.set = y.set → z.used < y.used)

/-- R223: WBINV with xb = 0 does nothing; over one page it waits for the walk of a page that the TLBs do not hold, raises PAGE_FAULT at
one that is not mapped and ACCESS at one that it may not write, and else writes back and invalidates every line that overlaps the
range. It changes no byte. -/
def Sys2Proof.Claims.linesAreWrittenBack : Prop :=
  ∀ (s : State) (c : Conductor) (a b : Reg), s.executes c →
    let r := s.cur.region
    let va := (c.get a).toNat
    let n := (c.get b).toNat
    (n = 0 → exec (.l2ctlWbinv a b) s = .next (s.completed r c (c.pc + 4))) ∧
    (n ≠ 0 → va % 65536 + n ≤ 65536 → va < 2 ^ 56 →
      (s.tlbLeaf r (s.ctxOf r) va = none →
        exec (.l2ctlWbinv a b) s = .next (s.askWalk ⟨dieOf r, r, s.ctxOf r, BitVec.ofNat 64 va, { sys := c.pl }⟩)) ∧
      ∀ leaf base, s.tlbLeaf r (s.ctxOf r) va = some (leaf, base) →
        (pteV leaf.toNat = false →
          exec (.l2ctlWbinv a b) s = .next (s.tookTrap r { cause := .pageFault, faddr := some (c.get a) })) ∧
        (pteV leaf.toNat = true → forbids leaf.toNat { write := true, sys := c.pl } = true →
          exec (.l2ctlWbinv a b) s = .next (s.tookTrap r { cause := .access, faddr := some (c.get a) })) ∧
        ∀ x, pteV leaf.toNat = true → forbids leaf.toNat { write := true, sys := c.pl } = false →
          s.place (pteAddr leaf.toNat + (va - base)) = some (.hbm x) →
          exec (.l2ctlWbinv a b) s = .next ((s.wbinv x n).completed r c (c.pc + 4)) ∧ s.sameBytes (s.wbinv x n) ∧
          ((∀ y ∈ s.l2, y.bad = false) → ∀ y, y ∈ (s.wbinv x n).l2 ↔
            y ∈ s.l2 ∧ ¬(y.line * 1024 < x + n ∧ x < y.line * 1024 + 1024)))

/-- The claim fencesOrderAndInvalidate (R220, R221, R97). The claim retentionRegistersAreWritten (R222, R101, R102, R104). The claim
linesAreWrittenBack (R223).
Completes, by its own effect: fenceFull, fenceAcq, fenceRel, fenceTinv, l2ctlSetrb, l2ctlSetrl, l2ctlUnpin, l2ctlWbinv. -/
def Obligations.FencesAndL2Controls : Prop :=
  fencesOrderAndInvalidate ∧ retentionRegistersAreWritten ∧ linesAreWrittenBack

/-- R224: MFS gives xd the register, MTS writes it under its own rule; a number outside the table raises ILLEGAL. -/
def Sys2Proof.Claims.systemRegisterAccess : Prop :=
  ∀ (s : State) (c : Conductor) (n : BitVec 16), s.executes c →
    let r := s.cur.region
    (s.sysReg r c n.toNat = none → (∀ d, exec (.mfs d n) s = .next (s.tookTrap r { cause := .illegal })) ∧
      ∀ a, exec (.mts a n) s = .next (s.tookTrap r { cause := .illegal })) ∧
    ∀ v, s.sysReg r c n.toNat = some v →
      (c.pl = true ∨ 0x10 ≤ n.toNat ∧ n.toNat ≤ 0x43 →
        ∀ d, exec (.mfs d n) s = .next ((s.setX r d v).completed r c (c.pc + 4))) ∧
      (c.pl = true ∨ 0x31 ≤ n.toNat ∧ n.toNat ≤ 0x34 ∨ n.toNat = 0x42 ∨ n.toNat = 0x43 →
        ∀ a, exec (.mts a n) s = .next (settle s r c (s.setSysReg r c n.toNat (c.get a))))

/-- R225, R226: after MTS at system level the register reads as written, its reserved bits zero: EPC, FADDR, SAVEA and SAVEB whole,
TVEC without bits 1:0, CAUSE, FINFO, BKPTA0 and BKPTC0 by their fields; STATUS keeps PL; the ranges of RATEWIN and LZTIMEOUT
refuse a value outside them. -/
def Sys2Proof.Claims.systemRegistersKeepTheirFields : Prop :=
  ∀ (s : State) (c : Conductor) (a : Reg), s.executes c → c.pl = true → c.bkpta.length = 8 → c.bkptc.length = 8 →
    let r := s.cur.region
    let v := c.get a
    (∀ n mask, (n, mask) ∈ ([(0x001, -1), (0x002, 0xFFFF01FF), (0x003, -1), (0x004, -4), (0x005, 0xFFFFFFFF01FF7FFF),
        (0x006, -1), (0x007, -1), (0x050, 0x00FFFFFFFFFFFFFD), (0x058, 0xFFF)] : List (BitVec 16 × Word64)) →
      ∃ t d, exec (.mts a n) s = .next t ∧ t.cond? r = some d ∧ t.sysReg r d n.toNat = some (v &&& mask)) ∧
    (∃ t d, exec (.mts a 0) s = .next t ∧ t.cond? r = some d ∧
      t.sysReg r d 0 = some ((v &&& 6) ||| 1)) ∧
    (Word.field v 4 0 < 6 ∨ 16 < Word.field v 4 0 → exec (.mts a 0x31) s = .next (s.tookTrap r { cause := .reservedField })) ∧
    (Word.field v 9 0 < 1 ∨ 1000 < Word.field v 9 0 → exec (.mts a 0x34) s = .next (s.tookTrap r { cause := .reservedField }))

/-- The claim systemRegisterAccess (R224). The claim systemRegistersKeepTheirFields (R225, R226).
Completes, by its own effect: mfs, mts. -/
def Obligations.SystemRegistersAreReadAndWritten : Prop :=
  systemRegisterAccess ∧ systemRegistersKeepTheirFields

/-- R228, R230, R210: in the lead conductor TOKIN and TOKTRY pop the head token of the port, with xd and TOKHI its payload and TOKSB
its side band, EMPTY 0; a poisoned token is popped and raises POISON with xd, TOKHI and TOKSB kept; at an empty port TOKIN
waits, and TOKTRY sets xd to 0 and EMPTY. -/
def Sys2Proof.Claims.tokenReceived : Prop :=
  ∀ (s : State) (c : Conductor) (d a : Reg) (q : CPort), s.executes c → c.x.length = 32 → c.lead = true →
    (c.get a).toNat ≤ 4095 → c.cports.find? (fun q => q.port == (c.get a).toNat) = some q →
    let r := s.cur.region
    (∀ i : Instr, (i = .tokin d a ∨ i = .toktry d a) → ∀ t ts, q.toks = t :: ts → ∃ u e, exec i s = .next u ∧ u.cond? r = some e ∧
      (e.cports.find? fun q => q.port == (c.get a).toNat).map CPort.toks = some ts ∧
      (t.psn = false → e.get d = (if d = 0 then 0 else t.payload.extractLsb' 0 64) ∧ e.tokhi = t.payload.extractLsb' 64 64 ∧
        e.toksb = t.side &&& 0xFFFFFFFFFFFF001F ∧ c.goesTo e (c.pc + 4)) ∧
      (t.psn = true → e.x = c.x ∧ e.tokhi = c.tokhi ∧ e.toksb = c.toksb ∧ e.pc = c.tvec ∧ e.epc = c.pc ∧
        e.cause = BitVec.ofNat 64 (causeCode .poison))) ∧
    (q.toks = [] → exec (.tokin d a) s = .next s ∧
      ∃ u e, exec (.toktry d a) s = .next u ∧ u.cond? r = some e ∧ e.get d = 0 ∧ e.tokhi = c.tokhi ∧
        e.toksb = c.toksb ||| 0x8000 ∧ c.goesTo e (c.pc + 4))

/-- R229, R210: in the lead conductor TOKOUT waits for a free entry of the port; it emits TOKOHI and xb under TOKOSB, with VER and
PSN 0, and TOKOSB.SEQ rises by 1 modulo 2^16. -/
def Sys2Proof.Claims.tokenEmitted : Prop :=
  ∀ (s : State) (c : Conductor) (a b : Reg) (q : PPort), s.executes c → c.lead = true → (c.get a).toNat ≤ 4095 →
    c.pports.find? (fun q => q.port == (c.get a).toNat) = some q → q.ended = false →
    let r := s.cur.region
    (4 ≤ q.entries.length → exec (.tokout a b) s = .next s) ∧
    (q.entries.length < 4 → ∃ t e p o, exec (.tokout a b) s = .next t ∧ t.cond? r = some e ∧
      e.pports.find? (fun q => q.port == (c.get a).toNat) = some p ∧ p.entries = q.entries ++ [o] ∧
      o.tok.payload = BitVec.append c.tokohi (c.get b) ∧ o.tok.kind = Word.field c.tokosb 1 0 ∧ o.tok.tag = c.tokosb.extractLsb' 2 2 ∧
      o.tok.seq = c.tokosb.extractLsb' 16 16 ∧ o.tok.ver = 0 ∧ o.tok.psn = false ∧
      Word.field e.tokosb 31 16 = (Word.field c.tokosb 31 16 + 1) % 65536 ∧ e.x = c.x)

/-- The claim tokenReceived (R228, R230, R210). The claim tokenEmitted (R229, R210).
Completes, by its own effect: tokin, tokout, toktry. -/
def Obligations.TokensOfTheLeadConductor : Prop :=
  tokenReceived ∧ tokenEmitted

/-- R242, R244, R241, R267, R245: WFI that has been woken completes and one not yet woken waits; ICINV waits for its conductor's stores and
drops, from every conductor's instruction cache and from the configuration caches, the lines of its context that overlap the range, and
no others; BEAT restarts the timer of the instance's queue; CEASE sends the last SEQ popped at the port up a versioned arc; HALT, once its
producer ports have room, emits END on each and halts the conductor where it stands, with its consumer ports emptied. The model's
choice: log entry 90, the EPC of a stepped HALT.
Completes, by its own effect: wfi, icinv, sysBeat, sysCease, sysHalt. -/
def Obligations.SysInstructionsHaveTheirEffects : Prop :=
  ∀ (s : State) (c : Conductor), s.executes c →
    let r := s.cur.region
    (c.wfi = some true → exec .wfi s = .next (s.completed r c (c.pc + 4))) ∧
    (c.wfi = some false → exec .wfi s = .next s) ∧
    (∀ a b : Reg, (c.get b).toNat = 0 → exec (.icinv a b) s = .next (s.completed r c (c.pc + 4))) ∧
    (∀ a b : Reg, (c.get b).toNat ≠ 0 → s.unacked (Issuer.isConductor r) = true → exec (.icinv a b) s = .next s) ∧
    (∀ a b : Reg, (c.get b).toNat ≠ 0 → s.unacked (Issuer.isConductor r) = false →
      let hit := fun (l : TextLine) => l.ctx = s.ctxOf r ∧ l.va < (c.get a).toNat + (c.get b).toNat ∧
        (c.get a).toNat < l.va + l.bytes.length
      ∃ t, exec (.icinv a b) s = .next (t.completed r c (c.pc + 4)) ∧ s.sameBytes t ∧
        (∀ k d, s.cond? k = some d → ∃ e, t.cond? k = some e ∧ e = { d with ic := e.ic } ∧ ∀ l, l ∈ e.ic ↔ l ∈ d.ic ∧ ¬hit l) ∧
        ∀ l, l ∈ t.cfgCache ↔ l ∈ s.cfgCache ∧ ¬hit l) ∧
    (∀ code i, s.instOf r = some i →
      exec (.sysBeat code) s = .next ((s.modQueue i.queue fun q => { q with timer := 0 }).completed r c (c.pc + 4))) ∧
    (∀ (code : BitVec 6) (q : CPort) (a : ArcSt) (seq : BitVec 16), c.lead = true →
      c.cports.find? (fun q => q.port == code.toNat) = some q → s.arcInto (c.inst.getD 0) true code.toNat 0 = some a →
      q.lastSeq = some seq →
      exec (.sysCease code) s = .next ((if a.vs then { s with ceases := s.ceases ++ [⟨a.inst, a.idx, seq, false⟩] } else s).completed r c (c.pc + 4))) ∧
    (c.pl = false → (c.pports.map PPort.port).Nodup →
      (c.lead = true → (∃ q ∈ c.pports, 4 ≤ q.entries.length) → exec .sysHalt s = .next s) ∧
      (c.lead = false ∨ (∀ q ∈ c.pports, q.entries.length < 4) →
        ∃ t d, exec .sysHalt s = .next t ∧ t.cond? r = some d ∧ d.halted = true ∧ d.haltPc = c.pc ∧ c.goesTo d c.pc ∧ d.x = c.x ∧
          (∀ q ∈ d.cports, q.toks = []) ∧ d.stray = [] ∧ s.sameBytes t ∧
          d.pports.map (fun q => (q.port, q.ended, q.entries.map OutEntry.tok)) = c.pports.map fun q =>
            if c.lead then (q.port, true, q.entries.map OutEntry.tok ++ [endOf (s.hbOf (.conductor r))])
            else (q.port, q.ended, q.entries.map OutEntry.tok)))

/-! ### Configurations, layouts and launches -/

/-- R233, R33, R153, R54: what a configuration that is started leaves. It starts where its nodes find their places; then each placed facet
node stands there with every member of its chain, with the slots, registers, presence bits and predicates of its block and the initial
tokens of the block's records; each island and each engine node stands at its place; the arcs are the image's, in its order, their rings one
after another; no merge or splitter of the instance is left, and what belongs to another instance is as it was. -/
def Sys2Proof.Claims.imageIsStarted : Prop :=
  ∀ (s : State) (i : Inst) (im : Image) (spill : Word64), s.inst? i.id = some i →
    let placed := im.place (s.room (s.handles.filter fun h => h.inst == i.id)) i.regions
    ((s.startImage i.id im spill).isSome ↔ placed.toOption.isSome) ∧
    ∀ t spots, placed = .ok spots → s.startImage i.id im spill = some t →
      (t.inst? i.id).map (fun j => (j.image, j.active, j.spillBase, j.ctx, j.layver, j.regions, j.queue)) =
        some (im, true, spill, i.ctx, i.layver, i.regions, i.queue) ∧
      (∀ k, k ≠ i.id → t.inst? k = s.inst? k) ∧
      (∀ u ∈ t.facets, u.inst = i.id → ∃ x ∈ spots, ∃ b k, im.nodes[x.node]? = some b ∧ b.kind = 0 ∧ k < b.chain ∧
        u.node = x.node ∧ u.clone = 0 ∧ u.pos = k ∧ u.chain = b.chain ∧ u.region = x.region ∧ u.rank = snakeRank (x.unit + k) ∧
        u.slots = (List.range 16).map b.slot ∧ u.konst = BitVec.ofNat 128 (b.field 0x80 16) ∧
        u.regs = (List.range 16).map (fun q => BitVec.ofNat 128 (b.field (0x90 + 16 * q) 16)) ∧
        u.pres = BitVec.ofNat 16 (b.field 0x190 2) ∧ u.preds = BitVec.ofNat 8 (b.field 0x194 1) ∧
        (∀ p : Fin 4, u.ins.getD p.val [] = b.initial p.val k b.chain) ∧ u.l1 = [] ∧ u.finished = false ∧ u.halted = false) ∧
      (∀ x ∈ spots, ∀ b, im.nodes[x.node]? = some b →
        (b.kind = 0 → ∀ k, k < b.chain → ∃ u ∈ t.facets, u.inst = i.id ∧ u.node = x.node ∧ u.pos = k) ∧
        (b.kind = 1 → b.island i.id x.node x.region x.unit ∈ t.islands) ∧
        (2 ≤ b.kind → ∃ e ∈ t.engines, e.inst = i.id ∧ e.node = x.node ∧ e.region = x.region ∧ e.unit = x.unit ∧
          (e.isChord = true ↔ b.kind = 3))) ∧
      t.arcs = (s.arcs.filter fun a => a.inst != i.id) ++ arcsOf i.id im.arcs 0 0 ∧
      (∀ m ∈ t.merges, m.inst ≠ i.id) ∧ (∀ x ∈ t.splitters, x.inst ≠ i.id) ∧
      t.facets.filter (fun u => u.inst != i.id) = s.facets.filter (fun u => u.inst != i.id) ∧
      t.islands.filter (fun u => u.inst != i.id) = s.islands.filter (fun u => u.inst != i.id) ∧
      t.engines.filter (fun u => u.inst != i.id) = s.engines.filter (fun u => u.inst != i.id) ∧ t.handles = s.handles ∧ s.sameBytes t

/-- R55: the spill pages of an image are held: one entry for each 64 KiB page of the area in order, of the instance's context, none of them
in the device register space; and nothing is held where a page is not mapped and writable. -/
def Sys2Proof.Claims.spillPagesAreHeld : Prop :=
  ∀ (s : State) (inst : Nat) (ctx : BitVec 12) (im : Image) (spill : Word64),
    (s.pinSpill ctx im spill = none → s.holdSpill inst ctx im spill = s) ∧
    ∀ z ps, s.pinSpill ctx im spill = some (z, ps) →
      s.holdSpill inst ctx im spill = z.modInst inst (fun i => { i with pinned := i.pinned ++ ps }) ∧
      ps.length = im.spillSize / 65536 ∧ z.insts = s.insts ∧
      ∀ k p, ps[k]? = some p → p.ctx = ctx ∧ p.va = spill.toNat + 65536 * k ∧ p.size = 65536 ∧
        (s.latent = [] → (∀ y ∈ s.l2, y.bad = false) → ∃ pl, s.place p.pa = some pl ∧ ∀ off, pl ≠ .reg off)

/-- R312, R234: a wavefront begins with its change and its affected set, no node switched, and the places as they are; SWITCH goes behind the
last token emitted on each arc into an affected node, under SWITCH on the conductor's producer ports alone; nothing else changes. -/
def Sys2Proof.Claims.wavefrontBegins : Prop :=
  ∀ (s : State) (i j : Inst) (ch : Change), s.inst? i.id = some j → (s.arcs.map fun a => (a.inst, a.idx)).Nodup →
    let t := s.startWave i ch
    let affected := ch.affected i.image
    (∃ w, t.inst? i.id = some { j with ctl := { j.ctl with state := .wave, wave := some w } } ∧ w.change = ch ∧ w.affected = affected ∧
      w.switched = [] ∧ w.stood = s.standing i) ∧
    (∀ k, k ≠ i.id → t.inst? k = s.inst? k) ∧
    t.arcs = s.arcs.map (fun a =>
      if a.inst = i.id ∧ ch.starts a = true ∧ a.cc = false ∧ a.cnode ∈ affected then
        { a with switchAt := some (a.taken + s.pendingOn a) }
      else a) ∧
    t = { s with insts := t.insts, arcs := t.arcs }

/-- R232, R233, R234, R55: CFGLD of an image that passes its checks pins its spill pages, puts it in the lowest free stage and gives that stage's number, or
2^64 - 1 where none is free; CFGGO, once the configuration has finished, starts the stage and gives 0; SWITCH starts the
wavefront of the stage and gives 0. CFGGO and SWITCH free the stage, and give 1 with no effect where the configuration is
active, or is none. CFGGO gives 1 too, and keeps the stage, where the staged nodes no longer find their places. -/
def Sys2Proof.Claims.configurationIsStagedAndStarted : Prop :=
  ∀ (s : State) (c : Conductor) (i : Inst) (d a b : Reg), s.executes c → c.lead = true → s.instOf s.cur.region = some i →
    let r := s.cur.region
    let k := (c.get a).toNat
    let freed := fun k => s.modInst i.id fun i => { i with stages := i.stages.set k none }
    ((∀ k, k < 4 → i.stages.getD k none ≠ none) →
      exec (.cfgld d a b) s = .next ((s.setX r d 0xFFFFFFFFFFFFFFFF).completed r c (c.pc + 4))) ∧
    (∀ k s' x, k < 4 → i.stages.getD k none = none → (∀ j, j < k → i.stages.getD j none ≠ none) →
      (c.get b).toNat % 65536 = 0 →
      s.readImage (readerOf (s.condActor r c)) i.ctx (s.slotKey i.ctx).isSome (c.get a).toNat = .ok s' x →
      (x.spillSize = 0 ↔ c.get b = 0) → x.codeSize = 0 →
      s'.refusedImage i.ctx (fun _ => s.handles.filter fun h => h.inst == i.id) i.regions x (c.get b) = none →
      exec (.cfgld d a b) s = .next ((((s'.holdSpill i.id i.ctx (x.image (s.slotKey i.ctx)) (c.get b)).modInst i.id fun i =>
        { i with stages := i.stages.set k (some (x.image (s.slotKey i.ctx), c.get b)) }).setX r d (BitVec.ofNat 64 k)).completed r c
          (c.pc + 4))) ∧
    (∀ im spill, k < 4 → i.stages.getD k none = some (im, spill) →
      (s.configActive i.id = true → exec (.cfggo d a) s = .next ((s.setX r d 1).completed r c (c.pc + 4))) ∧
      (∀ t, s.configActive i.id = false → (freed k).startImage i.id (im.underLaunch i.image) spill = some t →
        exec (.cfggo d a) s = .next ((t.setX r d 0).completed r c (c.pc + 4))) ∧
      (s.configActive i.id = false → (freed k).startImage i.id (im.underLaunch i.image) spill = none →
        exec (.cfggo d a) s = .next ((s.setX r d 1).completed r c (c.pc + 4))) ∧
      (im.replaces i.image = true →
        (s.configActive i.id = false ∨ i.ctl.wave.isSome = true →
          exec (.switch d a) s = .next ((s.setX r d 1).completed r c (c.pc + 4))) ∧
        (s.configActive i.id = true → i.ctl.wave = none →
          exec (.switch d a) s = .next ((((freed k).startWave i (.switch im)).setX r d 0).completed r c (c.pc + 4)))))

/-- R236, R143: the REWIRE forms steer the layout controller of the instance and give the layout version: HINT sets the clone target of
a node or, with 0, clears it; PIN and UNPIN pin a node and clear its pin; LOCK and UNLOCK a subgraph, LOCK giving 1
while a wavefront touches it and 0 otherwise, one in flight elsewhere among them. A node or a level that the image does not have raises
RESERVED_FIELD, and a nonzero field B of LOCK, UNLOCK, PIN and UNPIN, which do not use it, ILLEGAL. The other bits of xa and xb are not
read. -/
def Sys2Proof.Claims.rewireSteersTheLayout : Prop :=
  ∀ (s : State) (c : Conductor) (i : Inst) (d a b : Reg), s.executes c → s.instOf s.cur.region = some i →
    let r := s.cur.region
    let n := Word.field (c.get a) 11 0
    let gave := fun (v : Word64) (f : LayoutCtl → LayoutCtl) =>
      (.next ((((s.setX r d (BitVec.ofNat 64 i.layver.toNat)).modCtl i.id f).setX r d v).completed r c (c.pc + 4)) : Out)
    let done := fun (f : LayoutCtl → LayoutCtl) =>
      (.next (((s.setX r d (BitVec.ofNat 64 i.layver.toNat)).modCtl i.id f).completed r c (c.pc + 4)) : Out)
    let refused := s.tookTrap r { cause := .reservedField }
    (b ≠ 0 → ∀ j ∈ [Instr.rewireLock d a b, .rewireUnlock d a b, .rewirePin d a b, .rewireUnpin d a b],
      exec j s = .next (s.tookTrap r { cause := .illegal })) ∧
    (n < i.image.nodes.length →
      (Word.field (c.get b) 3 0 ≤ 8 → exec (.rewireHint d a b) s = done fun k =>
        { k with hints := if Word.field (c.get b) 3 0 = 0 then k.hints.filter fun p => p.1 != n
          else assign k.hints n (Word.field (c.get b) 3 0) }) ∧
      (8 < Word.field (c.get b) 3 0 → exec (.rewireHint d a b) s = .next refused) ∧
      exec (.rewirePin d a 0) s = (done fun k =>
        { k with pins := if k.pins.contains n then k.pins else k.pins ++ [n], unpins := k.unpins.filter fun x => x != n }) ∧
      exec (.rewireUnpin d a 0) s = done fun k =>
        { k with unpins := if k.unpins.contains n then k.unpins else k.unpins ++ [n], pins := k.pins.filter fun x => x != n }) ∧
    (n < i.image.levels.length →
      exec (.rewireUnlock d a 0) s = (done fun k => { k with locks := k.locks.filter fun x => x != n }) ∧
      (i.ctl.wave = none → exec (.rewireLock d a 0) s = gave 0 fun k =>
        { k with locks := if k.locks.contains n then k.locks else k.locks ++ [n] }) ∧
      ∀ w, i.ctl.wave = some w →
        ((∃ m ∈ w.affected, within i.image.levels n (i.sub m) = true) →
          exec (.rewireLock d a 0) s = gave 1 fun k => { k with locks := if k.locks.contains n then k.locks else k.locks ++ [n] }) ∧
        ((∀ m ∈ w.affected, within i.image.levels n (i.sub m) = false) →
          exec (.rewireLock d a 0) s = gave 0 fun k => { k with locks := if k.locks.contains n then k.locks else k.locks ++ [n] })) ∧
    (i.image.nodes.length ≤ n → exec (.rewireHint d a b) s = .next refused ∧ exec (.rewirePin d a 0) s = .next refused ∧
      exec (.rewireUnpin d a 0) s = .next refused) ∧
    (i.image.levels.length ≤ n → exec (.rewireLock d a 0) s = .next refused ∧ exec (.rewireUnlock d a 0) s = .next refused)

/-- R237: LAYVER, with A = B = 0, sets xd to the layout version at which it executes, zero-extended.
Completes, by its own effect: layver. -/
def Obligations.LayverReadsTheLayoutVersion : Prop :=
  (∀ d a b : Reg, Decode.conductor (Encode.formR 0x34 d a b 0) =
    if a = 0 ∧ b = 0 then .ok (.layver d) else .error .unusedField) ∧
  ∀ (s : State) (c : Conductor) (i : Inst) (d : Reg), s.executes c → s.instOf s.cur.region = some i →
    exec (.layver d) s =
      .next ((s.setX s.cur.region d (i.layver.setWidth 64)).completed s.cur.region c (c.pc + 4))

/-- R238, R239: LAYQ of a clone gives the layout version, the region and the unit at which the clone stands under that version (while a
wavefront is in flight, where it stood as that began), the kind of its node, the number of clones and bit 0 set, and bit 0 clear where
the node has no such clone; RATE gives the counter of the last completed window, and 0 before one has completed. -/
def Sys2Proof.Claims.layoutIsRead : Prop :=
  ∀ (s : State) (c : Conductor) (i : Inst) (d a b : Reg), s.executes c → s.instOf s.cur.region = some i →
    let r := s.cur.region
    let n := Word.field (c.get a) 11 0
    let k := Word.field (c.get a) 14 12
    (Word.field (c.get a) 63 15 = 0 → n < i.image.nodes.length →
      exec (.layq d a) s = .next ((s.setX r d (s.layq i n k)).completed r c (c.pc + 4)) ∧
      Word.field (s.layq i n k) 63 32 = i.layver.toNat ∧
      (∀ reg unit fold kind, s.whereIs i n k = some (reg, unit, fold) → reg < 256 → unit < 64 → i.image.kindOf n = some kind →
        kind < 4 → s.clonesAt i n ≤ 8 →
        let v := s.layq i n k
        Word.field v 31 24 = reg ∧ Word.field v 23 18 = unit ∧ Word.field v 17 16 = kind ∧
          Word.field v 15 13 = s.clonesAt i n - 1 ∧ Word.bit v 12 = i.isPinned n ∧ Word.bit v 11 = i.locked n ∧
          Word.bit v 10 = fold ∧ Word.bit v 0 = true) ∧
      (s.whereIs i n k = none → s.clonesAt i n ≤ 8 → (i.image.kindOf n).getD 0 < 4 → Word.bit (s.layq i n k) 0 = false) ∧
      (∀ u, i.ctl.wave = none → s.facet? i.id n k 0 = some u →
        s.whereIs i n k = some (u.region, u.rank, decide (1 < (s.facetsAt u.region u.rank).length))) ∧
      (∀ w x, i.ctl.wave = some w → w.stood.find? (fun x => x.node == n && x.clone == k) = some x →
        s.whereIs i n k = some (x.region, x.unit, x.fold)) ∧
      ((c.get b).toNat ≤ 11 → i.winDone = 0 → exec (.rate d a b) s = .next ((s.setX r d 0).completed r c (c.pc + 4))) ∧
      (∀ u, s.facet? i.id n k 0 = some u → 0 < i.winDone →
        (∀ x, ([(0, u.last.firings), (1, u.last.full), (2, u.last.blocked), (3, u.last.ins.getD 0 0), (4, u.last.ins.getD 1 0),
            (5, u.last.ins.getD 2 0), (6, u.last.ins.getD 3 0), (7, u.last.outs.getD 0 0), (8, u.last.outs.getD 1 0),
            (9, u.last.outs.getD 2 0), (10, u.last.outs.getD 3 0), (11, (i.winIndex - 1).toNat)] : List (Nat × Nat)).contains
              ((c.get b).toNat, x) = true →
          exec (.rate d a b) s = .next ((s.setX r d (BitVec.ofNat 64 x)).completed r c (c.pc + 4))))) ∧
    (Word.field (c.get a) 63 15 ≠ 0 ∨ i.image.nodes.length ≤ n →
      exec (.layq d a) s = .next (s.tookTrap r { cause := .reservedField }) ∧
      exec (.rate d a b) s = .next (s.tookTrap r { cause := .reservedField }))

/-- The claim rewireSteersTheLayout (R236, R143). The claim layoutIsRead (R238, R239). The model's choice: log entry 57.
Completes, by its own effect: rewireHint, rewireLock, rewireUnlock, rewirePin, rewireUnpin, layq, rate. -/
def Obligations.LayoutIsSteeredAndRead : Prop :=
  rewireSteersTheLayout ∧ layoutIsRead

/-- R240, R342: LAUNCH of a LAUNCH packet to a queue of the context puts the copy into the pool and gives 0; it gives 1 at 4,096
entries and 2 at the context's quota, with no entry added; an entry that left in this clk still counts. The entry follows what the
conductor knew, and is a release point of the conductor (R129). -/
def Sys2Proof.Claims.launchEntersThePool : Prop :=
  ∀ (s s' : State) (c : Conductor) (d a b : Reg) (q : Queue) (bs : List Byte), s.executes c →
    s.queue? (c.get b).toNat = some q → q.ctx = s.ctxOf s.cur.region → (c.get a).toNat % 64 = 0 →
    s.condLoad s.cur.region c (c.get a) 64 = .ok s' bs → fieldAt bs 0 1 = 1 →
    let r := s.cur.region
    let quota := ((s'.context? q.ctx).map Context.quota).getD 0
    let mine := (s'.pool.filter fun e => e.ctx == q.ctx).length + (s'.poolGone.filter fun x => x == q.ctx).length
    let all := s'.pool.length + s'.poolGone.length
    (4096 ≤ all → exec (.launch d a b) s = .next ((s'.setX r d 1).completed r c (c.pc + 4))) ∧
    (all < 4096 → quota ≤ mine → exec (.launch d a b) s = .next ((s'.setX r d 2).completed r c (c.pc + 4))) ∧
    (all < 4096 → mine < quota → ∃ t e, exec (.launch d a b) s = .next ((t.setX r d 0).completed r c (c.pc + 4)) ∧
      t.pool = s'.pool ++ [e] ∧ e.queue = (c.get b).toNat ∧ e.ctx = q.ctx ∧ e.packet = bs ∧ e.vc = (s'.hbOf (.conductor r)).vc ∧
      t.hb = (s'.release (.conductor r) r .device).hb ∧ t.conds = s'.conds ∧ s'.sameBytes t)

/-- R240: LAUNCH to a queue that is not registered or belongs to another context raises ACCESS, a packet address that is no multiple of 64
MISALIGN at it, and a packet that is no LAUNCH RESERVED_FIELD, each with no other effect. -/
def Sys2Proof.Claims.launchIsRefused : Prop :=
  ∀ (s : State) (c : Conductor) (d a b : Reg), s.executes c →
    let r := s.cur.region
    let raises := fun t => exec (.launch d a b) s = .next (s.tookTrap r t)
    (s.queue? (c.get b).toNat = none → raises { cause := .access }) ∧
    ∀ q, s.queue? (c.get b).toNat = some q →
      (q.ctx ≠ s.ctxOf r → raises { cause := .access }) ∧
      (q.ctx = s.ctxOf r → (c.get a).toNat % 64 ≠ 0 → raises { cause := .misalign, faddr := some (c.get a) }) ∧
      ∀ s' bs, q.ctx = s.ctxOf r → (c.get a).toNat % 64 = 0 → s.condLoad r c (c.get a) 64 = .ok s' bs → fieldAt bs 0 1 ≠ 1 →
        raises { cause := .reservedField }

/-- The claim imageIsStarted (R233, R33, R153, R54). The claim spillPagesAreHeld (R55). The claim wavefrontBegins (R312, R234). The claim
configurationIsStagedAndStarted (R232, R233, R234). The claim launchEntersThePool (R240). The claim launchIsRefused (R240).
The model's choice: log entries 53, 65, 68, 77, 92.
Completes, by its own effect: cfgld, cfggo, switch, launch. -/
def Obligations.ConfigurationsAndLaunches : Prop :=
  imageIsStarted ∧ spillPagesAreHeld ∧ wavefrontBegins ∧ configurationIsStagedAndStarted ∧ launchEntersThePool ∧ launchIsRefused

/-! ### Streams, handles, tiles and chords from a conductor -/

/-- R289, R283, R129: STRM of a descriptor that matches its FREE slot queues the command on the streamer that bit 0 of the handle names,
the slot goes to FILLING and xd is 0, the command being a release point of the conductor; with the slot in another state xd is 1,
with 16 commands held it is 2, and nothing else changes. STRMST does the same with a FULL slot, which goes to DRAINING. -/
def Sys2Proof.Claims.streamCommandsAreQueued : Prop :=
  ∀ (s s' : State) (c : Conductor) (d a b : Reg) (store : Bool) (h : Handle) (bs : List Byte), s.executes c →
    let r := s.cur.region
    let i : Instr := if store then .strmst d a b else .strm d a b
    let n := Word.field (c.get b) 7 0
    let sl := Word.field (c.get b) 11 8
    let x := Desc.ofBytes bs
    (c.get b).toNat < (if store then 0x2000 else 0x1000) → s.readBlock (s.condActor r c) (c.get a) 64 true = .ok s' bs →
    s'.handleFor r n (s.ctxOf r) = some h → sl < h.slots.length → x.bad store = false →
    (x.mc = true → ∃ i, s'.inst? h.inst = some i ∧ x.maskOk r i.regions = true) → (x.kind = 1 → x.fmt = h.fmt) → x.need = h.bytes →
    let ready := if store then (h.slot sl).state = .full else s'.isFree (h.slot sl) = true
    (¬ready → exec i s = .next ((s'.setX r d 1).completed r c (c.pc + 4))) ∧
    (ready → 16 ≤ (s'.stream r (n % 2)).length → exec i s = .next ((s'.setX r d 2).completed r c (c.pc + 4))) ∧
    (ready → (s'.stream r (n % 2)).length < 16 → ∃ t y g, exec i s = .next ((t.setX r d 0).completed r c (c.pc + 4)) ∧
      t.stream r (n % 2) = s'.stream r (n % 2) ++ [y] ∧ y.desc = bs ∧ y.handle = n ∧ y.slot = sl ∧ y.store = store ∧
      y.free = Word.bit (c.get b) 12 ∧ y.off = 0 ∧ y.issuer = .conductor r ∧
      y.vc = (s'.hbOf (.conductor r)).vc ∧ t.hb = (s'.release (.conductor r) r .device).hb ∧
      t.handle? r n = some g ∧ (g.slot sl).state = (if store then .draining else .filling) ∧ s'.sameBytes t)

/-- R231, R282: WAITH of a slot in the state named completes with xd its HSTAT word, whose fields are the slot's; in another
state it waits; a handle number above 255 or a slot that the handle does not have raises RESERVED_FIELD, and a handle
of another context ACCESS. -/
def Sys2Proof.Claims.waithWaitsForTheState : Prop :=
  ∀ (s : State) (c : Conductor) (d a b : Reg) (st : SlotState), s.executes c →
    let r := s.cur.region
    let n := (c.get a).toNat
    let sl := (c.get b).toNat
    (255 < n → exec (.waith d a b st) s = .next (s.tookTrap r { cause := .reservedField })) ∧
    (n ≤ 255 → s.handleFor r n (s.ctxOf r) = none → exec (.waith d a b st) s = .next (s.tookTrap r { cause := .access })) ∧
    ∀ h, n ≤ 255 → s.handleFor r n (s.ctxOf r) = some h →
      (h.slots.length ≤ sl → exec (.waith d a b st) s = .next (s.tookTrap r { cause := .reservedField })) ∧
      (sl < h.slots.length → (h.slot sl).state ≠ st → exec (.waith d a b st) s = .next s) ∧
      (sl < h.slots.length → h.slots.length ≤ 16 → (h.slot sl).state = st → (h.slot sl).wptr < 2 ^ 32 → h.fmt < 16 →
        ∃ t v, exec (.waith d a b st) s = .next ((t.setX r d v).completed r c (c.pc + 4)) ∧
          t = (if st = .full then s.orderAfter (.conductor r) (h.slot sl).vc else s).seePtr (.conductor r) h sl ∧
          Word.field v 63 32 = (h.slot sl).wptr ∧ Word.field v 13 10 = h.fmt ∧ Word.bit v 9 = (h.slot sl).poison ∧
          Word.bit v 8 = (h.slot sl).oob ∧ Word.field v 6 3 = sl ∧ Word.field v 2 0 = slotCode st)

/-- The claim streamCommandsAreQueued (R289, R283, R129). The claim waithWaitsForTheState (R231, R282).
The model's choice: log entry 77.
Completes, by its own effect: waith, strm, strmst. -/
def Obligations.StreamCommandsAndSlotStates : Prop :=
  streamCommandsAreQueued ∧ waithWaitsForTheState

/-- R252, R278, R81: TDSET and PRSET of an island node give the word or the precision register as last written; with RD 0 they write it,
its reserved bits as zero, where its map takes the value, from the next clk on, and raise RESERVED_FIELD where it does not, with
nothing written; a number that names no island node raises CONFIG. The model's choice: log entry 50.
Completes, by its own effect: tdset, prset. -/
def Obligations.IslandRegistersAreReadAndWritten : Prop :=
  ∀ (s : State) (c : Conductor) (d a b : Reg), s.executes c → Word.field (c.get a) 63 17 = 0 →
    let r := s.cur.region
    let rd := Word.bit (c.get a) 16
    let w := Word.field (c.get a) 15 13
    let t := Word.field (c.get a) 12 12
    let v := c.get b
    (rd = true → v = 0) →
    let unit := s.islands.find? fun u => some u.inst == c.inst && u.node == Word.field (c.get a) 11 0
    (unit = none → exec (.tdset d a b) s = .next (s.tookTrap r { cause := .config }) ∧
      (w = 0 → exec (.prset d a b) s = .next (s.tookTrap r { cause := .config }))) ∧
    ∀ u, unit = some u →
      let accept := fun (x : IslandWrite) => s.modIsland u.region u.isl fun y => { y with writes := y.writes ++ [x] }
      (rd = true → exec (.tdset d a b) s = .next ((s.setX r d (u.written.word t w)).completed r c (c.pc + 4)) ∧
        (w = 0 → exec (.prset d a b) s = .next ((s.setX r d (u.written.tile t).preg).completed r c (c.pc + 4)))) ∧
      (rd = false →
        (5 ≤ w ∨ wordRefused w v = true → exec (.tdset d a b) s = .next (s.tookTrap r { cause := .reservedField })) ∧
        (w < 5 → wordRefused w v = false → exec (.tdset d a b) s =
          .next (((accept ⟨false, t, w, v⟩).setX r d (u.written.word t w)).completed r c (c.pc + 4))) ∧
        (w = 0 →
          (pregRefused v = true → exec (.prset d a b) s = .next (s.tookTrap r { cause := .reservedField })) ∧
          (pregRefused v = false → exec (.prset d a b) s =
            .next (((accept ⟨true, t, w, v⟩).setX r d (u.written.tile t).preg).completed r c (c.pc + 4))))) ∧
      (u.tiles.length = 2 →
        (w < 5 → ({ u with writes := u.writes ++ [⟨false, t, w, v⟩] } : IslandUnit).clockEdge.word t w = v &&& wordMask w) ∧
        (({ u with writes := u.writes ++ [⟨true, t, w, v⟩] } : IslandUnit).clockEdge.tile t).preg = v)

/-- R299, R354, R129: a put that its record and its chord engine take is queued there, SENDING with ACKED the start; LZSEND's local slot
goes to DRAINING. A range that is misaligned or does not fit the record raises RESERVED_FIELD; a record that is sending gives 1, and
one that is not valid, or an LZSEND of a slot that is not FULL, gives 2, with nothing changed. -/
def Sys2Proof.Claims.putStartsSending : Prop :=
  ∀ (s : State) (x : Actor) (issuer : Issuer) (eng : Nat) (h : Handle) (sl : Nat) (lzsend : Bool) (src start fin : Nat) (i : Inst),
    s.handle? h.region h.num = some h → sl < h.slots.length → sl < h.recs.length →
    let y := h.record sl
    let fits := start % 16 = 0 ∧ start ≤ fin ∧ (y.valid = true → fin ≤ y.rbytes)
    (¬fits → s.put x issuer eng h sl lzsend src start fin = .bad .reservedField none) ∧
    (fits → Word.field y.status 1 0 = 1 → s.put x issuer eng h sl lzsend src start fin = .status s 1) ∧
    (fits → Word.field y.status 1 0 ≠ 1 → y.valid = false ∨ lzsend = true ∧ (h.slot sl).state ≠ .full →
      s.put x issuer eng h sl lzsend src start fin = .status s 2) ∧
    (fits → Word.field y.status 1 0 ≠ 1 → y.valid = true → (lzsend = true → (h.slot sl).state = .full) →
      start < fin → start < 2 ^ 32 →
      ((s.chord eng).puts.filter fun p => s.running p.inst).length < 40 →
      s.inst? h.inst = some i → i.image.routeVa = none → s.reachable routeDefault y.target = true →
      ∃ t p g, s.put x issuer eng h sl lzsend src start fin = .status t 0 ∧ (t.chord eng).puts = (s.chord eng).puts ++ [p] ∧
        p.start = start ∧ p.fin = fin ∧ p.next = start ∧ p.acked = start ∧ p.src = src ∧ p.lzsend = lzsend ∧ p.issuer = issuer ∧
        p.target = y.target ∧ p.ztag = y.ztag ∧ p.slot = sl ∧ p.vc = (s.hbOf x.agent).vc ∧ p.behind = s.behindNow x.agent ∧
        t.handle? h.region h.num = some g ∧ Word.field (g.record sl).status 1 0 = 1 ∧ Word.field (g.record sl).status 63 32 = start ∧
        (lzsend = true → (g.slot sl).state = .draining) ∧ s.sameBytes t)

/-- R299, R302, R301, R298: CHORD gives the status of its put; LZCTL RESERVE sends its request, waits for the answer and gives the answer
word, gives a grant again that came after a freeze had ended its wait, and of a valid record otherwise gives BUSY; RELEASE invalidates a valid record and gives 0, and 1 of one that is not; STATUS gives
the chord status word; RESUME and CLEAR bring an ABORTED slot to FILLING and to RESERVED and give 0, and give 1 of a
slot in another state. -/
def Sys2Proof.Claims.chordInstructionsOfTheConductor : Prop :=
  ∀ (s : State) (c : Conductor) (h : Handle) (d a b : Reg), s.executes c →
    let r := s.cur.region
    let xb := c.get b
    (∀ s' s'' bs st, Word.field xb 63 12 = 0 → s.handleFor r (Word.field xb 7 0) (s.ctxOf r) = some h →
      Word.field xb 11 8 < h.slots.length → s.condLoad r c (c.get a) 16 = .ok s' bs → fieldAt bs 12 4 % 16 = 0 → fieldAt bs 8 4 % 16 = 0 →
      s'.put (s'.condActor r c) (.conductor r) (engineOf r) h (Word.field xb 11 8) false (fieldAt bs 0 8) (fieldAt bs 8 4)
        (fieldAt bs 8 4 + fieldAt bs 12 4) = .status s'' st →
      exec (.chord d a b) s = .next ((s''.setX r d (BitVec.ofNat 64 st)).completed r c (c.pc + 4))) ∧
    (Word.field (c.get a) 63 8 = 0 → s.handleFor r (c.get a).toNat (s.ctxOf r) = some h →
      (∀ sl, targetBad xb = false → sl = Word.field xb 35 32 → sl < h.slots.length →
        let mine := fun (v : Resv) => v.issuer == .conductor r && v.region == h.region && v.handle == h.num && v.slot == sl
        (s.resvs.find? mine = none → s.grantKept h sl = none → (h.record sl).valid = true →
          exec (.lzctlReserve d a b) s = .next ((s.setX r d 1).completed r c (c.pc + 4))) ∧
        (∀ v w, s.resvs.find? mine = none → s.grantKept h sl = some (v, w) →
          exec (.lzctlReserve d a b) s = .next
            ((((s.answerTaken v).orderAfter (.conductor r) v.vc).setX r d w).completed r c (c.pc + 4)) ∧
          v ∈ s.resvs ∧ v.answer = some w ∧ v.issuer = .hub ∧ v.slot = sl ∧ (h.record sl).valid = true ∧
          Word.field w 63 32 = (h.record sl).ztag.toNat) ∧
        (∀ v w, s.resvs.find? mine = some v → v.answer = some w →
          exec (.lzctlReserve d a b) s = .next
            ((((s.answerTaken v).orderAfter (.conductor r) v.vc).setX r d w).completed r c (c.pc + 4))) ∧
        (∀ v, s.resvs.find? mine = some v → v.answer = none → exec (.lzctlReserve d a b) s = .next s) ∧
        ∀ i p, s.resvs.find? mine = none → (h.record sl).valid = false → s.heldBack (s.behindNow (.conductor r)) = false →
          s.inst? h.inst = some i → i.image.routeVa = none → s.reachable routeDefault xb = true → s.firstPort routeDefault = some p →
          ∃ t v f, exec (.lzctlReserve d a b) s = .next t ∧ t.resvs = s.resvs ++ [v] ∧ v.target = xb ∧ v.answer = none ∧
            v.issuer = .conductor r ∧ v.slot = sl ∧ t.left = s.left ++ [(.scaleUp, p, f)] ∧ f.typ = 9 ∧
            f.txid = BitVec.ofNat 16 v.tx ∧ t.conds = s.conds) ∧
      (Word.field xb 63 4 = 0 → xb.toNat < h.slots.length →
        let sl := xb.toNat
        exec (.lzctlStatus d a b) s = .next ((s.setX r d (h.record sl).status).completed r c (c.pc + 4)) ∧
        ((h.record sl).valid = false → exec (.lzctlRelease d a b) s = .next ((s.setX r d 1).completed r c (c.pc + 4))) ∧
        (∀ i, (h.record sl).valid = true → s.heldBack (s.behindNow (.conductor r)) = false → s.inst? h.inst = some i →
          i.image.routeVa = none → exec (.lzctlRelease d a b) s = .next (((((s.commandPoint (.conductor r) r).sendRelease routeDefault
            (h.record sl).target h.inst h.ctx (h.record sl).ztag false).modRec r h.num sl fun z => { z with valid := false }).setX r d
              0).completed r c (c.pc + 4))) ∧
        (h.rw = false → exec (.lzctlResume d a b) s = .next (s.tookTrap r { cause := .access }) ∧
          exec (.lzctlClear d a b) s = .next (s.tookTrap r { cause := .access })) ∧
        (h.rw = true → (h.slot sl).state ≠ .aborted →
          exec (.lzctlResume d a b) s = .next ((s.setX r d 1).completed r c (c.pc + 4)) ∧
          exec (.lzctlClear d a b) s = .next ((s.setX r d 1).completed r c (c.pc + 4))) ∧
        (h.rw = true → (h.slot sl).state = .aborted → s.handle? h.region h.num = some h →
          (∃ (t : State) (g : Handle), exec (.lzctlResume d a b) s = .next ((t.setX r d 0).completed r c (c.pc + 4)) ∧ t.handle? h.region h.num = some g ∧
            (g.slot sl).state = .filling ∧ (g.slot sl).wptr = (h.slot sl).wptr) ∧
          ∃ (t : State) (g : Handle), exec (.lzctlClear d a b) s = .next ((t.setX r d 0).completed r c (c.pc + 4)) ∧ t.handle? h.region h.num = some g ∧
            (g.slot sl).state = .reserved ∧ (g.slot sl).wptr = 0 ∧ (g.slot sl).poison = false)))

/-- The claim putStartsSending (R299, R354, R129). The claim chordInstructionsOfTheConductor (R299, R302, R301, R298). The model's choice:
log entries 56, 77.
Completes, by its own effect: chord, lzctlReserve, lzctlRelease, lzctlStatus, lzctlResume, lzctlClear. -/
def Obligations.PutsAndChordsOfTheConductor : Prop :=
  putStartsSending ∧ chordInstructionsOfTheConductor

/-! ### The facet's tables (R172 to R192) -/

namespace Sys2Proof.Claims

/-- A lane of `n` bits read as signed. -/
def sg (n x : Nat) : Int := if x < 2 ^ (n - 1) then x else (x : Int) - 2 ^ n

/-- A number held between two limits. -/
def clamp (lo hi x : Int) : Int := max lo (min hi x)

/-- The integer rows of R180 and R182: the element size, and the row's expression over the lanes of A, B and C read unsigned. -/
def laneOf (i : Instr) : Option (Size × (Nat → Nat → Nat → Nat → Int)) :=
  match i with
  | .facetAdd sz _ => some (sz, fun _ a b _ => a + b)
  | .facetSub sz _ => some (sz, fun _ a b _ => a - b)
  | .addss sz _ => some (sz, fun n a b _ => clamp (-2 ^ (n - 1)) (2 ^ (n - 1) - 1) (sg n a + sg n b))
  | .addsz sz _ => some (sz, fun n a b _ => clamp 0 (2 ^ n - 1) (a + b))
  | .subss sz _ => some (sz, fun n a b _ => clamp (-2 ^ (n - 1)) (2 ^ (n - 1) - 1) (sg n a - sg n b))
  | .subsz sz _ => some (sz, fun n a b _ => clamp 0 (2 ^ n - 1) (a - b))
  | .facetMul sz _ => some (sz, fun _ a b _ => a * b)
  | .facetMulhs sz _ => some (sz, fun n a b _ => sg n a * sg n b / 2 ^ n)
  | .facetMulhz sz _ => some (sz, fun n a b _ => (a * b : Int) / 2 ^ n)
  | .facetMins sz _ => some (sz, fun n a b _ => min (sg n a) (sg n b))
  | .facetMinz sz _ => some (sz, fun _ a b _ => min (a : Int) b)
  | .facetMaxs sz _ => some (sz, fun n a b _ => max (sg n a) (sg n b))
  | .facetMaxz sz _ => some (sz, fun _ a b _ => max (a : Int) b)
  | .abs sz _ => some (sz, fun n a _ _ => |sg n a|)
  | .mac sz _ => some (sz, fun _ a b c => a * b + c)
  | .facetClz sz _ => some (sz, fun n a _ _ => if a = 0 then n else (n : Int) - 1 - Nat.log2 a)
  | .facetShl sz _ => some (sz, fun n a b _ => if n ≤ b then 0 else a * 2 ^ b)
  | .facetShrz sz _ => some (sz, fun n a b _ => if n ≤ b then 0 else (a : Int) / 2 ^ b)
  | .facetShrs sz _ => some (sz, fun n a b _ => sg n a / 2 ^ min b (n - 1))
  | _ => none

/-- The compares of R183. -/
def compareOf (i : Instr) : Option (Size × (Nat → Nat → Nat → Bool)) :=
  match i with
  | .cmpeq sz _ => some (sz, fun _ a b => decide (a = b))
  | .cmplts sz _ => some (sz, fun n a b => decide (sg n a < sg n b))
  | .cmpltz sz _ => some (sz, fun _ a b => decide (a < b))
  | .test sz _ => some (sz, fun _ a b => decide (a &&& b ≠ 0))
  | _ => none

/-- The 12-bit immediate of MOVI and MOVIS (R140). -/
def imm12Of (w : FWord) : BitVec 12 := BitVec.ofNat 12 (64 * w.b.code + w.c.code)

/-- Byte `k` of a word. -/
def byteOf (x : Word128) (k : Nat) : Nat := x.toNat / 2 ^ (8 * k) % 256

/-- A word of bytes. -/
def ofBytes16 (f : Nat → Nat) : Word128 := BitVec.ofNat 128 (((List.range 16).map fun k => f k % 256 * 2 ^ (8 * k)).sum)

/-- The whole-register rows of R172, R181, R190, R191 and R197: what is written to D, if anything is, and the condition. -/
def wholeOf (c : Fire) (i : Instr) : Option (Option Word128 × Bool) :=
  let a := c.a .whole
  let b := c.b .whole
  let z := c.c .whole
  let write := fun (v : Word128) => some (some v, decide (v ≠ 0))
  match i with
  | .nop _ => some (none, false)
  | .mov _ => write a
  | .movi w => write ((imm12Of w).setWidth 128)
  | .movis w => write ((imm12Of w).signExtend 128)
  | .sel _ => write ((a &&& z) ||| (b &&& ~~~z))
  | .drop _ => some (none, decide (a ≠ 0))
  | .facetAnd _ => write (a &&& b)
  | .facetOr _ => write (a ||| b)
  | .facetXor _ => write (a ^^^ b)
  | .facetAndn _ => write (a &&& ~~~b)
  | .shuf _ => write (ofBytes16 fun k =>
      let x := byteOf b k
      if x / 128 = 1 then 0 else if x / 16 % 2 = 0 then byteOf a (x % 16) else byteOf z (x % 16))
  | .bcast w => write (BitVec.ofNat 128 (a.toNat / 2 ^ (32 * (w.b.code - 48)) % 2 ^ 32 * (1 + 2 ^ 32 + 2 ^ 64 + 2 ^ 96)))
  | .extr _ => write (BitVec.ofNat 128 ((b.toNat * 2 ^ 128 + a.toNat) / 2 ^ (8 * (z.toNat % 16))))
  | .getp _ => write (c.u.preds.setWidth 128)
  | _ => none

/-- The rows of R184 whose result is rounded or chosen lane by lane, but for FSCALE. -/
def floatOf (i : Instr) : Option (FFmt × (Machine.Float.Fmt → Nat → Machine.Float.Val → Machine.Float.Val → Machine.Float.Val →
    Machine.Float.Rounded)) :=
  let rnd := Machine.Float.encode
  match i with
  | .fadd fm _ => some (fm, fun f h a b _ => rnd f h (Machine.Float.add h a b))
  | .fsub fm _ => some (fm, fun f h a b _ => rnd f h (Machine.Float.add h a (Machine.Float.neg b)))
  | .fmul fm _ => some (fm, fun f h a b _ => rnd f h (Machine.Float.mul a b))
  | .ffma fm _ => some (fm, fun f h a b c => rnd f h (Machine.Float.add h (Machine.Float.mul a b) c))
  | .fmin fm _ => some (fm, fun f _ a b _ => rnd f 0 (Machine.Float.fmin a b))
  | .fmax fm _ => some (fm, fun f _ a b _ => rnd f 0 (Machine.Float.fmax a b))
  | .fneg fm _ => some (fm, fun f _ a _ _ => rnd f 0 (Machine.Float.neg a))
  | .fabs fm _ => some (fm, fun f _ a _ _ => rnd f 0 (Machine.Float.abs a))
  | .frcp fm _ => some (fm, fun f h a _ _ => Machine.Float.rcp f h a)
  | .frsq fm _ => some (fm, fun f h a _ _ => Machine.Float.rsq f h a)
  | .fexp2 fm _ => some (fm, fun f h a _ _ => Machine.Float.exp2 f h a)
  | .flog2 fm _ => some (fm, fun f h a _ _ => Machine.Float.log2 f h a)
  | _ => none

/-- The floating-point compares of R184 and R186. -/
def floatTestOf (i : Instr) : Option (FFmt × (Machine.Float.Val → Machine.Float.Val → Bool)) :=
  match i with
  | .fcmpeq fm _ => some (fm, Machine.Float.eq)
  | .fcmplt fm _ => some (fm, Machine.Float.lt)
  | .fcmple fm _ => some (fm, fun a b => Machine.Float.lt a b || Machine.Float.eq a b)
  | _ => none

/-- The lanes of a format decoded. -/
def decoded (f : Machine.Float.Fmt) (x : Word128) : List Machine.Float.Val :=
  (List.range (128 / f.width)).map fun l => Machine.Float.decode f (lane f.width x l)

/-- The rounded lanes that FSCALE, the conversions, the F32 reductions and DOT4.TF8 write, with the format of their lanes
(R184, R187 to R189, R192, R200). -/
def roundedOf (c : Fire) (i : Instr) : Option (Machine.Float.Fmt × List Machine.Float.Rounded) :=
  let rnd := Machine.Float.encode
  let h := c.w.h.toNat
  let f32 := Machine.Float.f32
  let a32 := c.a (.float f32)
  let x := fun k => Machine.Float.decode f32 (lane 32 a32 k)
  let sum := fun a b => rnd f32 h (Machine.Float.add h (Machine.Float.decode f32 a) (Machine.Float.decode f32 b))
  let zero : Machine.Float.Rounded := { bits := 0 }
  match i with
  | .fscale fm _ =>
    let f := Machine.Float.ofRow fm
    some (f, (List.range (128 / f.width)).map fun l => Machine.Float.scale f h (sg f.width (lane f.width (c.b (.int f.width)) l))
      (Machine.Float.decode f (lane f.width (c.a (.float f)) l)))
  | .cvtn .f16 _ => some (Machine.Float.f16, (decoded f32 a32 ++ decoded f32 (c.b (.float f32))).map (rnd Machine.Float.f16 h))
  | .cvtn .bf16 _ => some (Machine.Float.bf16, (decoded f32 a32 ++ decoded f32 (c.b (.float f32))).map (rnd Machine.Float.bf16 h))
  | .cvtw .f16 w =>
    some (f32, ((decoded Machine.Float.f16 (c.a (.float Machine.Float.f16))).drop (4 * (w.b.code - 48)) |>.take 4).map (rnd f32 0))
  | .cvtw .bf16 w =>
    some (f32, ((decoded Machine.Float.bf16 (c.a (.float Machine.Float.bf16))).drop (4 * (w.b.code - 48)) |>.take 4).map (rnd f32 0))
  | .cvtw .tf8 w => some (Machine.Float.bf16, (List.range 8).map fun l => rnd Machine.Float.bf16 0
      (Machine.Float.decodeTaper Machine.Float.tf8 (byteOf (c.a (.taper Machine.Float.tf8)) (8 * (w.b.code - 48) + l))))
  | .cvtw .tf6 w => some (Machine.Float.bf16, (List.range 8).map fun l => rnd Machine.Float.bf16 0
      (Machine.Float.decodeTaper Machine.Float.tf6 (byteOf (c.a (.taper Machine.Float.tf6)) (8 * (w.b.code - 48) + l) % 64)))
  | .cvtif _ => some (f32, (List.range 4).map fun l =>
      let v := sg 32 (lane 32 (c.a (.int 32)) l)
      rnd f32 h (.fin (decide (v < 0)) v.natAbs 0))
  | .lsumF32 _ =>
    some (f32, [sum (sum (lane 32 a32 0) (lane 32 a32 1)).bits (sum (lane 32 a32 2) (lane 32 a32 3)).bits, zero, zero, zero])
  | .lmaxF32 _ =>
    some (f32, [rnd f32 0 (Machine.Float.fmax (Machine.Float.fmax (x 0) (x 1)) (Machine.Float.fmax (x 2) (x 3))), zero, zero, zero])
  | .dot4Tf8 _ => some (f32, (List.range 4).map fun l =>
      let p := fun q => Machine.Float.mul
        (Machine.Float.decodeTaper Machine.Float.tf8 (byteOf (c.a (.taper Machine.Float.tf8)) (4 * l + q)))
        (Machine.Float.decodeTaper Machine.Float.tf8 (byteOf (c.b (.taper Machine.Float.tf8)) (4 * l + q)))
      let add := Machine.Float.add h
      rnd f32 h (add (add (add (add (Machine.Float.decode f32 (lane 32 (c.c (.float f32)) l)) (p 0)) (p 1)) (p 2)) (p 3)))
  | _ => none

/-- Four numbers in ascending order. -/
def ascending (xs : List Int) : Prop := xs.Pairwise (· ≤ ·)

end Sys2Proof.Claims

/-! ### Facet moves, integers and floating point -/

/-- R138, R139, R51: what a source specifier reads: a register (the combined value of the clones where it holds their partial states
and is not the destination), the head of a channel, KONST, ZERO; an immediate sign-extended in every
integer lane, or in 128 bits, or converted in every lane of a format; LANEID the lane's index, counted on along a chain. -/
def Sys2Proof.Claims.sourcesReadTheirOperand : Prop :=
  ∀ (c : Fire) (rd : Reading),
    (∀ n, c.readsCombined n = false → c.src rd (.reg n) = c.u.regs.getD n.val 0) ∧
    (∀ n, c.u.cls.toNat % 4 = 1 → c.u.combmask.getLsbD n.val = true → c.w.d ≠ .reg n →
      1 < (c.s.clonesOf c.u.inst c.u.node).length → c.src rd (.reg n) = c.s.combined c.u n.val) ∧
    (∀ k t, c.u.head k.val = some t → c.src rd (.pop k) = t.payload ∧ c.src rd (.peek k) = t.payload) ∧
    c.src rd .konst = c.u.konst ∧ c.src rd .zero = 0 ∧
    ∀ v : Fin 32, c.src .whole (.imm v) = BitVec.ofInt 128 ((v.val : Int) - 16) ∧ c.src .whole .laneid = BitVec.ofNat 128 c.u.pos ∧
      (∀ n ∈ [8, 16, 32, 64], ∀ l, l < 128 / n → lane n (c.src (.int n) (.imm v)) l = (((v.val : Int) - 16) % 2 ^ n).toNat ∧
        lane n (c.src (.int n) .laneid) l = (c.u.pos * (128 / n) + l) % 2 ^ n) ∧
      ∀ f ∈ [Machine.Float.f32, Machine.Float.f16, Machine.Float.bf16], ∀ l, l < 128 / f.width →
        Machine.Float.decode f (lane f.width (c.src (.float f) (.imm v)) l) =
          Machine.Float.decode f (Machine.Float.encode f 0 (.fin (decide (v.val < 16)) ((v.val : Int) - 16).natAbs 0)).bits

/-- R137, R49, R197, R204: after a firing's own write of predicates, its update sets the predicate named to the condition, to 1, to
0, or leaves it; every other predicate keeps its value; a follower that is not the leader is written under S.W alone. -/
def Sys2Proof.Claims.predicatesAreUpdated : Prop :=
  ∀ (w : FWord) (lead cond : Bool) (setp : Option (BitVec 8 × BitVec 8)) (p : BitVec 8) (k : Fin 8),
    let before := match setp with
      | some (m, v) => if m.getLsbD k.val then v.getLsbD k.val else p.getLsbD k.val
      | none => p.getLsbD k.val
    (predsAfter w lead setp cond p).getLsbD k.val =
      if lead = false ∧ w.sw = false then p.getLsbD k.val
      else if k = w.puIdx ∧ w.puAct = 1 then cond
      else if k = w.puIdx ∧ w.puAct = 2 then true
      else if k = w.puIdx ∧ w.puAct = 3 then false
      else before

/-- The claim sourcesReadTheirOperand (R138, R139, R51). The claim predicatesAreUpdated (R137, R49, R197, R204).
The model's choice: log entry 71. -/
def Obligations.OperandsAndPredicates : Prop :=
  sourcesReadTheirOperand ∧ predicatesAreUpdated

/-- R168, R169: the SEQ of an emission is SEQNEXT where that is valid, else a forwarded token's, else that of the DATA token of the
lowest-numbered channel read, else LASTSEQ in a node with inputs, else SEQCNT, which rises; SEQNEXT is used once. TAG is the
forwarded token's, else TAGREG; PSN is 0; VER is 0 under S.V = 0, a forwarded token's, or composed from the versioned
inputs: the largest version, F of them all, X of any, and SEQ. -/
def Obligations.EmissionTakesItsSideBand : Prop :=
  ∀ (u : FacetUnit) (w : FWord) (o : Fin 4) (kind : Nat) (fwd : Option Token) (data : List Token),
    u.seqnext.length = 4 → u.seqcnt.length = 4 → kind < 4 →
    let r := u.sideFor w o.val kind fwd data
    let t : Token := { payload := 0, side := r.1 }
    let next := u.seqnext.getD o.val none
    let counted := next = none ∧ fwd = none ∧ data = [] ∧ u.indecl.toNat % 16 = 0
    let vs := data.filter fun t => t.ver != 0
    t.seq = (match next, fwd, data with
      | some v, _, _ => v
      | none, some f, _ => f.seq
      | none, none, x :: _ => x.seq
      | none, none, [] => if u.indecl.toNat % 16 ≠ 0 then u.lastseq else u.seqcnt.getD o.val 0) ∧
    t.tag = (match fwd with
      | some f => f.tag
      | none => u.tagreg.getD o.val 0) ∧
    t.psn = false ∧ t.kind = kind ∧
    (w.sv = false → t.ver = 0) ∧ (∀ f, w.sv = true → fwd = some f → t.ver = f.ver) ∧
    (w.sv = true → fwd = none → vs = [] → t.ver = 0) ∧
    (w.sv = true → fwd = none → vs ≠ [] →
      (∀ x ∈ vs, Word.field x.ver 4 0 ≤ Word.field t.ver 4 0) ∧ (∃ x ∈ vs, Word.field t.ver 4 0 = Word.field x.ver 4 0) ∧
      (t.ver.getLsbD 5 = true ↔ ∀ x ∈ vs, x.ver.getLsbD 5 = true) ∧ (t.ver.getLsbD 6 = true ↔ ∃ x ∈ vs, x.ver.getLsbD 6 = true) ∧
      Word.field t.ver 15 7 = 0x100 ∧ t.ver.extractLsb' 16 16 = t.seq) ∧
    r.2.seqnext.getD o.val none = none ∧ r.2.seqcnt.getD o.val 0 = (if counted then u.seqcnt.getD o.val 0 + 1 else u.seqcnt.getD o.val 0)

/-- R172, R181, R190, R191, R197, R166: a whole-register firing writes D as its row says and gives the condition that any bit is set; NOP
and DROP write nothing. Nothing else changes but the tokens popped and the predicate updated.
Completes, by its own effect: nop, mov, movi, movis, sel, drop, facetAnd, facetOr, facetXor, facetAndn, shuf, bcast, extr,
getp. -/
def Obligations.WholeRegisterFiringWritesItsResult : Prop :=
  ∀ (s : State) (u : FacetUnit) (i : Instr) (val : Option Word128) (cond : Bool),
    s.fires u → s.clean u i → wholeOf (s.fire1 i u) i = some (val, cond) →
    ∃ t, exec i s = .next t ∧ s.gave t i u val cond ∧ s.sameBytes t

/-- R180, R182, R166: an integer firing gives every lane of D the row's expression modulo 2^n; its condition is that lane 0 is
nonzero. Nothing else changes but the tokens popped and the predicate updated. -/
def Sys2Proof.Claims.integerFiringWritesItsLanes : Prop :=
  ∀ (s : State) (u : FacetUnit) (i : Instr) (sz : Size) (f : Nat → Nat → Nat → Nat → Int),
    s.fires u → s.clean u i → laneOf i = some (sz, f) →
    let n := sz.bits
    let c := s.fire1 i u
    ∃ t v, exec i s = .next t ∧ s.gave t i u (some v) (decide (lane n v 0 ≠ 0)) ∧ s.sameBytes t ∧
      ∀ l, l < 128 / n → lane n v l =
        (f n (lane n (c.a (.int n)) l) (lane n (c.b (.int n)) l) (lane n (c.c (.int n)) l) % 2 ^ n).toNat

/-- R183, R184, R186, R166: a compare writes all ones in every lane where its test holds and 0 in the others; its condition is that some
lane holds. -/
def Sys2Proof.Claims.compareFiringWritesItsLanes : Prop :=
  ∀ (s : State) (u : FacetUnit) (i : Instr), s.fires u → s.clean u i →
    let c := s.fire1 i u
    (∀ sz f, compareOf i = some (sz, f) →
      let n := sz.bits
      let holds := fun l => f n (lane n (c.a (.int n)) l) (lane n (c.b (.int n)) l)
      ∃ t v, exec i s = .next t ∧ s.gave t i u (some v) (decide (∃ l < 128 / n, holds l = true)) ∧ s.sameBytes t ∧
        ∀ l, l < 128 / n → lane n v l = if holds l = true then 2 ^ n - 1 else 0) ∧
    ∀ fm g, floatTestOf i = some (fm, g) →
      let f := Machine.Float.ofRow fm
      let holds := fun l => g (Machine.Float.decode f (lane f.width (c.a (.float f)) l)) (Machine.Float.decode f (lane f.width (c.b (.float f)) l))
      ∃ t v, exec i s = .next t ∧ s.gave t i u (some v) (decide (∃ l < 128 / f.width, holds l = true)) ∧ s.sameBytes t ∧
        ∀ l, l < 128 / f.width → lane f.width v l = if holds l = true then 2 ^ f.width - 1 else 0

/-- The claim integerFiringWritesItsLanes (R180, R182, R166). The claim compareFiringWritesItsLanes (R183, R184, R186, R166).
Completes, by its own effect: facetAdd, facetSub, addss, addsz, subss, subsz, facetMul, facetMulhs, facetMulhz, facetMins,
facetMinz, facetMaxs, facetMaxz, abs, mac, facetClz, facetShl, facetShrz, facetShrs, cmpeq, cmplts, cmpltz, test, fcmpeq,
fcmplt, fcmple. -/
def Obligations.IntegerAndCompareFirings : Prop :=
  integerFiringWritesItsLanes ∧ compareFiringWritesItsLanes

/-- R184, R61, R166: a floating-point firing gives every lane of D the row's expression, rounded once; a nonzero subnormal lane raises
SUBNORMAL_ASSIST with no effect, and otherwise the condition is that lane 0 without its sign is nonzero.
The model's choice: log entries 15, 17.
Completes, by its own effect: fadd, fsub, fmul, ffma, fmin, fmax, fneg, fabs, frcp, frsq, fexp2, flog2. -/
def Obligations.FloatFiringWritesItsLanes : Prop :=
  ∀ (s : State) (u : FacetUnit) (i : Instr) (fm : FFmt)
    (g : Machine.Float.Fmt → Nat → Machine.Float.Val → Machine.Float.Val → Machine.Float.Val → Machine.Float.Rounded),
    s.fires u → s.clean u i → floatOf i = some (fm, g) →
    let f := Machine.Float.ofRow fm
    let c := s.fire1 i u
    let x := fun (o : Word128) l => Machine.Float.decode f (lane f.width o l)
    let r := fun l => g f i.word.h.toNat (x (c.a (.float f)) l) (x (c.b (.float f)) l) (x (c.c (.float f)) l)
    ((∃ l < 128 / f.width, (r l).subnormal = true) →
      exec i s = .next (s.facetFault u s.cur.slot { cause := .subnormalAssist })) ∧
    ((∀ l, l < 128 / f.width → (r l).subnormal = false) →
      ∃ t v, exec i s = .next t ∧ s.gave t i u (some v) (decide (lane f.width v 0 % 2 ^ (f.width - 1) ≠ 0)) ∧ s.sameBytes t ∧
        ∀ l, l < 128 / f.width → lane f.width v l = (r l).bits % 2 ^ f.width)

/-- R184, R187 to R189, R192, R200: FSCALE, the conversions into and out of F32, F16 and BF16, LSUM.F32, LMAX.F32 and DOT4.TF8 write their
rounded lanes, and raise SUBNORMAL_ASSIST where one of them is subnormal. -/
def Sys2Proof.Claims.conversionFiringWritesItsLanes : Prop :=
  ∀ (s : State) (u : FacetUnit) (i : Instr) (f : Machine.Float.Fmt) (rs : List Machine.Float.Rounded),
    s.fires u → s.clean u i → roundedOf (s.fire1 i u) i = some (f, rs) →
    ((∃ r ∈ rs, r.subnormal = true) → exec i s = .next (s.facetFault u s.cur.slot { cause := .subnormalAssist })) ∧
    ((∀ r ∈ rs, r.subnormal = false) →
      ∃ t v, exec i s = .next t ∧ s.gave t i u (some v) (decide (lane f.width v 0 % 2 ^ (f.width - 1) ≠ 0)) ∧ s.sameBytes t ∧
        ∀ l, l < 128 / f.width → lane f.width v l = (rs.getD l { bits := 0 }).bits % 2 ^ f.width)

/-- R187, R189, R192, R201: CVTN to a tapered format writes the encodings of its sixteen BF16 lanes, CVTFI the rounded and saturated
integers with 0 for NaN, LSUM.W the sum of the four lanes in lane 0 and 0 in the others, and SORT4.W the four lanes in
ascending order. -/
def Sys2Proof.Claims.narrowingFiringWritesItsLanes : Prop :=
  ∀ (s : State) (u : FacetUnit) (w : FWord), s.fires u →
    let a32 := fun i : Instr => (s.fire1 i u).a (.int 32)
    (∀ nf t, (nf, t) ∈ [(NFmt.tf8, Machine.Float.tf8), (NFmt.tf6, Machine.Float.tf6)] →
      let i : Instr := .cvtn nf w
      let c := s.fire1 i u
      let xs := decoded Machine.Float.bf16 (c.a (.float Machine.Float.bf16)) ++ decoded Machine.Float.bf16 (c.b (.float Machine.Float.bf16))
      s.clean u i → ∃ z v, exec i s = .next z ∧ s.gave z i u (some v) (decide (byteOf v 0 ≠ 0)) ∧ s.sameBytes z ∧
        ∀ l, l < 16 → byteOf v l = (Machine.Float.encodeTaper t w.h.toNat (xs.getD l .nan)).bits % 256) ∧
    (let i : Instr := .cvtfi w
      let xs := decoded Machine.Float.f32 ((s.fire1 i u).a (.float Machine.Float.f32))
      s.clean u i → ∃ z v, exec i s = .next z ∧ s.gave z i u (some v) (decide (lane 32 v 0 ≠ 0)) ∧ s.sameBytes z ∧
        ∀ l, l < 4 → sg 32 (lane 32 v l) = match xs.getD l .nan with
          | .nan => 0
          | .inf true => -2 ^ 31
          | .inf false => 2 ^ 31 - 1
          | .fin neg m e => clamp (-2 ^ 31) (2 ^ 31 - 1) (Machine.Float.toInt w.h.toNat neg m e)) ∧
    (let i : Instr := .lsumW w;
      s.clean u i → ∃ z v, exec i s = .next z ∧ s.gave z i u (some v) (decide (lane 32 v 0 ≠ 0)) ∧ s.sameBytes z ∧
        v.toNat = (lane 32 (a32 i) 0 + lane 32 (a32 i) 1 + lane 32 (a32 i) 2 + lane 32 (a32 i) 3) % 2 ^ 32) ∧
    (let i : Instr := .sort4W w;
      s.clean u i → ∃ z v, exec i s = .next z ∧ s.gave z i u (some v) (decide (lane 32 v 0 ≠ 0)) ∧ s.sameBytes z ∧
        List.Perm ((List.range 4).map (lane 32 v)) ((List.range 4).map (lane 32 (a32 i))) ∧
        ascending ((List.range 4).map fun l => sg 32 (lane 32 v l)))

/-- The claim conversionFiringWritesItsLanes (R184, R187 to R189, R192, R200). The claim narrowingFiringWritesItsLanes (R187,
R189, R192, R201). The model's choice: log entries 23, 40, 74.
Completes, by its own effect: fscale, cvtn, cvtw, cvtfi, cvtif, lsumW, lsumF32, lmaxF32, dot4Tf8, sort4W. -/
def Obligations.ConversionsWriteTheirLanes : Prop :=
  conversionFiringWritesItsLanes ∧ narrowingFiringWritesItsLanes

namespace Sys2Proof.Claims

/-- The scaled offset in C (R140): a signed number of 16-byte units. -/
def offsetOf (w : FWord) : Int := 16 * sg 6 w.c.code

/-- A scratchpad address of 32 bits with the offset added (R293). -/
def spadAddr (w : FWord) (a : Nat) : Nat := (((a : Int) + offsetOf w) % 2 ^ 32).toNat

/-- A global address with the offset added (R293). -/
def globAddr (w : FWord) (a : Word128) : Word64 := BitVec.ofInt 64 (a.toNat + offsetOf w)

/-- What a token instruction sends for a value written to D, and the registers after it. -/
def sentTo (w : FWord) (v : Word128) : List (Nat × Word128 × Nat) :=
  match w.d with
  | .out p => [(p.val, v, 0)]
  | _ => []

def regsTo (w : FWord) (v : Word128) (regs : List Word128) : List Word128 :=
  match w.d with
  | .reg n => regs.set n.val v
  | _ => regs

/-- The context of a facet's instance. -/
def ctxOfUnit (s : State) (u : FacetUnit) : BitVec 12 := ((s.inst? u.inst).map Inst.ctx).getD 0

/-- The copy of the sector of byte `a` that a facet's L1 gives a load under `hint` (R96). -/
def facetCopy (s : State) (u : FacetUnit) (hint a : Nat) : Option CacheLine :=
  if s.l1Size u.region u.rank = 0 ∨ hint = 3 then none else (s.l1At u.region u.rank).find? fun l => l.addr == a / 128 * 128

/-- The atomics of R295: the new value of a unit of `n` bytes, by the AMO code, from the old value, the operand and the value
expected. -/
def newOf (code n old v e : Nat) : Nat :=
  match code with
  | 0 => (old + v) % 2 ^ (8 * n)
  | 1 => old &&& v
  | 2 => old ||| v
  | 3 => old ^^^ v
  | 4 => signedMin n old v
  | 5 => signedMax n old v
  | 6 => min old v
  | 7 => max old v
  | 8 => v
  | 9 => if old = e then v else old
  | _ => (Machine.Float.encode Machine.Float.f32 0 (Machine.Float.add 0 (Machine.Float.decode Machine.Float.f32 old)
      (Machine.Float.decode Machine.Float.f32 v))).bits

end Sys2Proof.Claims

/-! ### Facet steering and control tokens -/

/-- R173, R45: STEER sends A to the output D when the control token is 0 and to its partner when it is 1; STEERX also sends a NULL to
the other. The control token and the tokens popped go; the condition is the control value. -/
def Sys2Proof.Claims.steerFollowsTheControlToken : Prop :=
  ∀ (s : State) (u : FacetUnit) (both : Bool) (w : FWord) (d : Fin 4) (k : Fin 2), s.fires u → w.d = .out d → w.c.code = k.val →
    let i : Instr := if both then .steerx w else .steer w
    s.clean u i → ∀ t ts, (s.seen u).cins.getD k.val [] = t :: ts →
      let bit := t.payload.getLsbD 0
      let mate := if d.val % 2 = 0 then d.val + 1 else d.val - 1
      let dest := if bit then mate else d.val
      let rest := if bit then d.val else mate
      ∃ z, exec i s = .next z ∧ s.passed z u (popsOf i.sources) (some k)
        ((dest, (s.fire1 i u).a .whole, 0) :: if both then [(rest, 0, 1)] else []) u.regs (predsAfter w true none bit u.preds)

/-- R174: MERGE takes A on a control token of 0 and B on 1: the head of the one taken must be DATA and the head of the other NULL. It
pops both and the control token and gives D the payload; heads that do not agree raise PRED_MISMATCH with no effect, its word the
control value and the two kinds. -/
def Sys2Proof.Claims.mergeFollowsTheControlToken : Prop :=
  ∀ (s : State) (u : FacetUnit) (w : FWord) (a b : Fin 4) (k : Fin 2) (x y t : Token), s.fires u →
    w.a = .pop a → w.b = .pop b → w.c.code = k.val → (s.seen u).head a.val = some x → (s.seen u).head b.val = some y →
    ((s.seen u).cins.getD k.val []).head? = some t → s.clean u (.merge w) →
    let bit := t.payload.getLsbD 0
    let yes := if bit then y else x
    let no := if bit then x else y
    (yes.kind = 0 → no.kind = 1 → ∃ z, exec (.merge w) s = .next z ∧
      s.passed z u (popsOf [.pop a, .pop b]) (some k) (sentTo w yes.payload) (regsTo w yes.payload u.regs)
        (predsAfter w true none bit u.preds)) ∧
    (yes.kind ≠ 0 ∨ no.kind ≠ 1 →
      exec (.merge w) s = .next (s.facetFault u s.cur.slot { cause := .predMismatch, other := mergeWord bit x.kind y.kind }))

/-- R175: MERGEU takes A when its head is DATA, else B: it pops that token and the control token and gives D the payload; its
condition says whether B was taken. -/
def Sys2Proof.Claims.mergeuTakesWhicheverHasData : Prop :=
  ∀ (s : State) (u : FacetUnit) (w : FWord) (a b : Fin 4) (k : Fin 2) (y : Token), s.fires u →
    w.a = .pop a → w.b = .pop b → w.c.code = k.val →
    let isA := match (s.seen u).head a.val with
      | some x => decide (x.kind = 0)
      | none => false
    let c := if isA then a else b
    (s.seen u).head c.val = some y → y.kind = 0 → s.clean u (.mergeu w) → ∃ z, exec (.mergeu w) s = .next z ∧
      s.passed z u [c] (some k) (sentTo w y.payload) (regsTo w y.payload u.regs) (predsAfter w true none (!isA) u.preds)

/-- The claim steerFollowsTheControlToken (R173, R45). The claim mergeFollowsTheControlToken (R174). The claim
mergeuTakesWhicheverHasData (R175). The model's choice: log entries 47, 72.
Completes, by its own effect: steer, steerx, merge, mergeu. -/
def Obligations.SteersAndMergesFollowTheirTokens : Prop :=
  steerFollowsTheControlToken ∧ mergeFollowsTheControlToken ∧ mergeuTakesWhicheverHasData

/-- R177, R178, R271: EMITN sends a NULL on D; CTL sends the predicate as it stands before the firing on the control output, and gives it
as the condition; VFIN sends A on D, its condition that some versioned input had F = 0. -/
def Sys2Proof.Claims.tokensAreSent : Prop :=
  ∀ (s : State) (u : FacetUnit) (w : FWord), s.fires u →
    (∀ d : Fin 4, w.d = .out d → s.clean u (.emitn w) → ∃ z, exec (.emitn w) s = .next z ∧
      s.passed z u (popsOf (Instr.emitn w).sources) none [(d.val, 0, 1)] u.regs (predsAfter w true none false u.preds)) ∧
    (∀ (p : Fin 8) (k : Fin 2), w.d = .none → w.a.code = 48 + p.val → w.c.code = k.val → ∃ z, exec (.ctl w) s = .next z ∧
      s.passed z u [] none [(4 + k.val, BitVec.ofNat 128 (u.preds.getLsbD p.val).toNat, 0)] u.regs
        (predsAfter w true none (u.preds.getLsbD p.val) u.preds)) ∧
    ∀ d : Fin 4, w.d = .out d → s.clean u (.vfin w) → w.c = .none →
      let vs := ((s.seen u).reads (channelsOf [w.a, w.b])).filter fun t => t.ver != 0
      ∃ z, exec (.vfin w) s = .next z ∧
        s.passed z u (popsOf (Instr.vfin w).sources) none [(d.val, (s.fire1 (.vfin w) u).a .whole, 0)] u.regs
          (predsAfter w true none (vs.any fun t => !t.ver.getLsbD 5) u.preds)

/-- R179: HALT emits END on every declared output and control output and finishes the node, which holds no token from then on; its
predicate update is made. -/
def Sys2Proof.Claims.haltFinishesTheNode : Prop :=
  ∀ (s : State) (u : FacetUnit) (w : FWord), s.fires u → w.d = .none →
    ∃ z v, exec (.halt w) s = .next z ∧ z.facet? u.inst u.node u.clone 0 = some v ∧ v.halted = true ∧
      (∀ l ∈ v.ins, l = []) ∧ (∀ l ∈ v.cins, l = []) ∧ v.regs = u.regs ∧ v.preds = predsAfter w true none false u.preds ∧
      (∀ o : Fin 4, ∃ es, v.outs.getD o.val [] = u.outs.getD o.val [] ++ es ∧
        es.map (fun e => e.tok.side) = if u.outdecl.getLsbD o.val then [2] else []) ∧
      (∀ k : Fin 2, ∃ es, v.couts.getD k.val [] = u.couts.getD k.val [] ++ es ∧
        es.map (fun e => e.tok.side) = if u.outdecl.getLsbD (4 + k.val) then [2] else []) ∧ s.sameBytes z ∧ z.conds = s.conds

/-- The claim tokensAreSent (R177, R178, R271). The claim haltFinishesTheNode (R179). The model's choice: log entries 19, 24,
40, 73.
Completes, by its own effect: emitn, ctl, vfin, halt. -/
def Obligations.TokensAreSentAndHaltFinishes : Prop :=
  tokensAreSent ∧ haltFinishesTheNode

/-! ### Facet memory (R96, R293 to R296) -/

/-- R294, R293, R94: LDS reads the 16 scratchpad bytes at bits 31:0 of A plus the offset, LDSW four bytes for each lane's own
address. -/
def Sys2Proof.Claims.facetLoadReadsScratchpad : Prop :=
  ∀ (s : State) (u : FacetUnit) (w : FWord), s.fires u →
    (∀ k, let c := s.fire1 (.lds w) u
      s.clean u (.lds w) → (c.a .whole).toNat < 2 ^ 32 →
      s.facetSpad (.lds w) u (spadAddr w (c.a .whole).toNat) 16 false none k → s.spadPoisoned k 16 = false →
      let v := BitVec.ofNat 128 (Word.ofBytes (Memory.readN s.spad k 16))
      ∃ t, exec (.lds w) s = .next t ∧ s.gave t (.lds w) u (some v) (decide (v ≠ 0)) ∧ s.sameBytes t) ∧
    ∀ k : Nat → Nat, let c := s.fire1 (.ldsw w) u
      s.clean u (.ldsw w) →
      (∀ l, l < 4 → s.facetSpad (.ldsw w) u (spadAddr w (lane 32 (c.a (.int 32)) l)) 4 false none (k l) ∧
        s.spadPoisoned (k l) 4 = false) →
      ∃ t v, exec (.ldsw w) s = .next t ∧ s.gave t (.ldsw w) u (some v) (decide (v ≠ 0)) ∧ s.sameBytes t ∧
        ∀ l, l < 4 → lane 32 v l = Word.ofBytes (Memory.readN s.spad (k l) 4)

/-- R294, R96, R310: LDG reads 16 bytes of mapped HBM, and LDGB 4 bytes into every lane: from the copy that the L1 of the facet holds,
which folded nodes share, else from memory. -/
def Sys2Proof.Claims.facetLoadReadsGlobalMemory : Prop :=
  ∀ (s : State) (u : FacetUnit) (w : FWord) (i : Instr) (n a : Nat) (bs : List Byte), s.fires u → s.clean u i →
    (i = .ldg w ∧ n = 16 ∨ i = .ldgb w ∧ n = 4) →
    s.facetReaches i u (globAddr w ((s.fire1 i u).a .whole)) n false none a →
    (facetCopy s u w.h.toNat a = none ∧ s.poisoned a n = false ∧ bs = Memory.readN s.mem a n ∨
      ∃ l, facetCopy s u w.h.toNat a = some l ∧ bs = (l.bytes.drop (a % 128)).take n) → bs.length = n →
    ∃ t s' v, exec i s = .next t ∧ s.sameButL1 s' u ∧ s'.gave t i u (some v) (decide (v ≠ 0)) ∧ s.sameBytes t ∧
      (n = 16 → v = BitVec.ofNat 128 (Word.ofBytes bs)) ∧ (n = 4 → ∀ l, l < 4 → lane 32 v l = Word.ofBytes bs)

/-- The claim facetLoadReadsScratchpad (R294, R293, R94). The claim facetLoadReadsGlobalMemory (R294, R96). The model's choice: log
entries 24, 40.
Completes, by its own effect: lds, ldsw, ldg, ldgb. -/
def Obligations.FacetLoadsReadTheirBytes : Prop :=
  facetLoadReadsScratchpad ∧ facetLoadReadsGlobalMemory

/-- R294, R293: STS writes the 16 bytes of B in the scratchpad, STSW each lane of B at its own address, in lane order; every other byte
of the scratchpads, and all of memory, keep their values. -/
def Sys2Proof.Claims.facetStoreWritesScratchpad : Prop :=
  ∀ (s : State) (u : FacetUnit) (w : FWord), s.fires u →
    (∀ k, let c := s.fire1 (.sts w) u
      s.clean u (.sts w) → (c.a .whole).toNat < 2 ^ 32 →
      s.facetSpad (.sts w) u (spadAddr w (c.a .whole).toNat) 16 true none k →
      ∃ t, exec (.sts w) s = .next t ∧ s.gave t (.sts w) u none false ∧ t.mem = s.mem ∧
        (∀ j, j < 16 → Memory.read t.spad (k + j) = BitVec.ofNat 8 (byteOf (c.b .whole) j)) ∧
        ∀ b, b < k ∨ k + 16 ≤ b → Memory.read t.spad b = Memory.read s.spad b) ∧
    ∀ k : Nat → Nat, let c := s.fire1 (.stsw w) u
      s.clean u (.stsw w) →
      (∀ l, l < 4 → s.facetSpad (.stsw w) u (spadAddr w (lane 32 (c.a (.int 32)) l)) 4 true none (k l)) →
      let put := fun (m : List Host.Cell) l => Memory.writeN m (k l) (Word.toBytes 4 (lane 32 (c.b (.int 32)) l))
      ∃ t, exec (.stsw w) s = .next t ∧ s.gave t (.stsw w) u none false ∧ t.mem = s.mem ∧
        t.spad = put (put (put (put s.spad 0) 1) 2) 3

/-- R294, R293: STG writes the 16 bytes of B at a global address, STGE its lane l only where p(4 + l) is set; every other byte of
memory, and the scratchpads, keep their values. -/
def Sys2Proof.Claims.facetStoreWritesGlobalMemory : Prop :=
  ∀ (s : State) (u : FacetUnit) (w : FWord), s.fires u →
    (∀ a, let c := s.fire1 (.stg w) u
      s.clean u (.stg w) → s.facetReaches (.stg w) u (globAddr w (c.a .whole)) 16 true none a →
      ∃ t, exec (.stg w) s = .next t ∧ s.gave t (.stg w) u none false ∧ t.spad = s.spad ∧
        (∀ j, j < 16 → Memory.read t.mem (a + j) = BitVec.ofNat 8 (byteOf (c.b .whole) j)) ∧
        ∀ b, b < a ∨ a + 16 ≤ b → Memory.read t.mem b = Memory.read s.mem b) ∧
    ∀ a : Nat → Nat, let c := s.fire1 (.stge w) u
      s.clean u (.stge w) →
      (∀ l, l < 4 → u.preds.getLsbD (4 + l) = true →
        s.facetReaches (.stge w) u (globAddr w (c.a .whole) + BitVec.ofNat 64 (4 * l)) 4 true none (a l)) →
      let put := fun (m : List Host.Cell) l => if u.preds.getLsbD (4 + l) = true
        then Memory.writeN m (a l) (Word.toBytes 4 (lane 32 (c.b .whole) l)) else m
      ∃ t, exec (.stge w) s = .next t ∧ s.gave t (.stge w) u none false ∧ t.spad = s.spad ∧
        t.mem = put (put (put (put s.mem 0) 1) 2) 3

/-- The claim facetStoreWritesScratchpad (R294, R293). The claim facetStoreWritesGlobalMemory (R294, R293).
The model's choice: log entries 24, 40, 46.
Completes, by its own effect: sts, stsw, stg, stge. -/
def Obligations.FacetStoresWriteTheirBytes : Prop :=
  facetStoreWritesScratchpad ∧ facetStoreWritesGlobalMemory

/-- R294, R293, R96: PREF of an address whose form byte is 0 completes unless a walk is due: a translation or access fault discards it,
and nothing but the L1 of the facet can change; another form byte raises ADDRESS_FORM. -/
def Sys2Proof.Claims.prefetchChangesNothingElse : Prop :=
  ∀ (s : State) (u : FacetUnit) (w : FWord), s.fires u → s.clean u (.pref w) →
    let va := globAddr w ((s.fire1 (.pref w) u).a .whole) &&& 0xFFFFFFFFFFFFFF80
    (Word.field va 63 56 ≠ 0 → exec (.pref w) s = .next (s.facetFault u s.cur.slot { cause := .addressForm, faddr := va })) ∧
    (Word.field va 63 56 = 0 → (∀ k, s.translate u.region (ctxOfUnit s u) va.toNat {} ≠ .miss k) →
      ∃ t s', exec (.pref w) s = .next t ∧ s.sameButL1 s' u ∧ s'.gave t (.pref w) u none false ∧ s.sameBytes t)

/-- R295, R131: an atomic gives D the old value, sign-extended from its 32 or 64 bits, and its unit the new one: ATOMG and CASG in
global memory, ATOMS and CASS in a scratchpad. The condition is that the old value is nonzero, or for a compare-exchange (CASS, CASG
and OPER 9) that it was the one expected. A control field out of range raises RESERVED_FIELD, and FADD in a scratchpad or on 64 bits
ACCESS. The model's choice: log entries 24, 40.
Completes, by its own effect: atoms, atomg, cass, casg. -/
def Obligations.FacetAtomicReadsOldAndWritesNew : Prop :=
  ∀ (s : State) (u : FacetUnit) (w : FWord) (i : Instr) (cas onSpad : Bool), s.fires u → s.clean u i →
    i = (match cas, onSpad with
      | false, true => .atoms w
      | false, false => .atomg w
      | true, true => .cass w
      | true, false => .casg w) →
    let c := s.fire1 i u
    let A := c.a .whole
    let B := c.b .whole
    let n := if A.getLsbD 67 then 8 else 4
    let oper := Word.field A 71 68
    let code := if cas then 9 else oper
    let v := B.toNat % 2 ^ (8 * n)
    let e := B.toNat / 2 ^ 64 % 2 ^ (8 * n)
    let scope := (s.observed i u).facetScope u (Word.field A 66 64)
    let good := Word.field A 127 72 = 0 ∧ Word.field A 66 64 ≤ 4 ∧ (if cas then oper = 0 else oper ≤ 10)
    (¬good → exec i s = .next (s.facetFault u s.cur.slot { cause := .reservedField })) ∧
    (good → code = 10 → onSpad = true ∨ n = 8 → exec i s = .next (s.facetFault u s.cur.slot { cause := .access })) ∧
    (good → (code = 10 → onSpad = false ∧ n = 4) →
      let gave := fun (t : State) (old : Nat) => s.gave t i u (some ((BitVec.ofInt 64 (sg (8 * n) old)).setWidth 128))
        (if code = 9 then decide (old = e) else decide (old ≠ 0))
      (∀ k, onSpad = true → Word.field A 63 32 = 0 → s.facetSpad i u (spadAddr w (Word.field A 31 0)) n true (some scope) k →
        s.spadPoisoned k n = false →
        let old := Word.ofBytes (Memory.readN s.spad k n)
        ∃ t, exec i s = .next t ∧ gave t old ∧ t.mem = s.mem ∧ Word.ofBytes (Memory.readN t.spad k n) = newOf code n old v e ∧
          ∀ b, b < k ∨ k + n ≤ b → Memory.read t.spad b = Memory.read s.spad b) ∧
      ∀ a, onSpad = false → s.facetReaches i u (globAddr w A) n true (some scope) a → s.poisoned a n = false →
        let old := s.num a n
        ∃ t, exec i s = .next t ∧ gave t old ∧ t.spad = s.spad ∧ t.num a n = newOf code n old v e ∧
          ∀ b, b < a ∨ a + n ≤ b → Memory.read t.mem b = Memory.read s.mem b)

/-- R296, R117: FENCE, ACQ and REL are ordering points at the scope that their level names and change no byte; FENCE and REL complete
only when every earlier store and atomic of the facet has been acknowledged, and hold the firing until then. -/
def Sys2Proof.Claims.facetOrderingPoints : Prop :=
  ∀ (s : State) (u : FacetUnit) (w : FWord), s.fires u →
    let lvl := w.a.code - 48
    let waits := s.unacked (Issuer.isFacet u.inst u.node u.clone)
    let scope := fun i => (s.observed i u).facetScope u lvl
    let done := fun (i : Instr) (f : State → State) => ∃ t, exec i s = .next t ∧ s.gave t i u none false ∧ s.sameBytes t ∧
      t.hb = (f (s.observed i u)).hb
    done (.acq w) (fun x => x.acquire u.agent u.region (scope (.acq w))) ∧
    (waits = false → done (.rel w) (fun x => x.release u.agent u.region (scope (.rel w))) ∧
      done (.fence w) fun x => (x.acquire u.agent u.region (scope (.fence w))).release u.agent u.region (scope (.fence w))) ∧
    (waits = true → ∀ i, i = .rel w ∨ i = .fence w → ∃ t, exec i s = .next t ∧ s.sameBytes t ∧
      t.facet? u.inst u.node u.clone 0 = some { u with chainFire := some (s.cur.slot, 1) })

/-- The claim facetOrderingPoints (R296, R117). The claim prefetchChangesNothingElse (R294, R293, R96).
The model's choice: log entry 75.
Completes, by its own effect: pref, fence, rel, acq. -/
def Obligations.FacetOrderingAndPrefetch : Prop :=
  facetOrderingPoints ∧ prefetchChangesNothingElse

/-! ### Handles, landing zones and tiles from a facet -/

/-- R297, R282, R283: HSTAT gives the slot's state word, with the condition that it is FULL; HTAKE takes a FULL slot to DRAINING and gives
the word after the change, slot 16 naming the one that became FULL first, and holds while there is none; HFREE frees a slot
that is neither FREE nor FILLING, with a new generation (and holds while the slot is FILLING, or a packet or grant has met it in this
clk); WPTR gives the write pointer, and WPWAIT gives it once it has reached
C, or the slot is FULL or ABORTED. No handle of the context raises ACCESS, and a slot that the handle does not have
RESERVED_FIELD. -/
def Sys2Proof.Claims.handleInstructionsUseTheirSlot : Prop :=
  ∀ (s : State) (u : FacetUnit) (w : FWord), s.fires u →
    let n := (u.hbase.toNat + w.a.code) % 256
    let own := s.handleFor u.region n (ctxOfUnit s u)
    let b := fun i : Instr => ((s.fire1 i u).b .whole).toNat
    (own = none → ∀ i, (i = .hstat w ∨ i = .htake w ∨ i = .hfree w ∨ i = .wptr w ∨ i = .wpwait w) → s.clean u i →
      exec i s = .next (s.facetFault u s.cur.slot { cause := .access })) ∧
    ∀ h, own = some h → h.slots.length ≤ 16 →
      (∀ i, (i = .hstat w ∨ i = .hfree w ∨ i = .wptr w ∨ i = .wpwait w) → s.clean u i → h.slots.length ≤ b i →
        exec i s = .next (s.facetFault u s.cur.slot { cause := .reservedField })) ∧
      ∀ sl, sl < h.slots.length →
        let x := h.slot sl
        (s.clean u (.hstat w) → b (.hstat w) = sl → ∃ t, exec (.hstat w) s = .next t ∧
          s.gave t (.hstat w) u (some ((h.hstat sl).setWidth 128)) (decide (x.state = .full)) ∧ s.sameBytes t ∧ t.handles = s.handles) ∧
        (s.clean u (.htake w) →
          (x.state = .full → b (.htake w) = sl ∨ b (.htake w) = 16 ∧ (∀ k, k < sl → (h.slot k).state = .full → x.fullAt < (h.slot k).fullAt) ∧
              (∀ k, sl < k → k < h.slots.length → (h.slot k).state = .full → x.fullAt ≤ (h.slot k).fullAt) →
            ∃ t g, exec (.htake w) s = .next t ∧ t.handle? u.region n = some g ∧ (g.slot sl).state = .draining ∧
              s.gave t (.htake w) u (some ((g.hstat sl).setWidth 128)) true ∧ s.sameBytes t) ∧
          (b (.htake w) = sl → x.state ≠ .full → ∃ t, exec (.htake w) s = .next t ∧ t.handles = s.handles ∧
            t.facet? u.inst u.node u.clone 0 = some { u with chainFire := some (s.cur.slot, 1) })) ∧
        (s.clean u (.hfree w) → b (.hfree w) = sl →
          (x.metAt ≠ some s.clk → x.state = .free → ∃ t, exec (.hfree w) s = .next t ∧ s.gave t (.hfree w) u none false ∧ t.handles = s.handles) ∧
          (x.metAt ≠ some s.clk → x.state ≠ .free → x.state ≠ .filling → ∃ t g, exec (.hfree w) s = .next t ∧ s.gave t (.hfree w) u none true ∧
            t.handle? u.region n = some g ∧ (g.slot sl).state = .free ∧ (g.slot sl).wptr = 0 ∧ (g.slot sl).poison = false ∧
            (g.slot sl).oob = false ∧ (g.slot sl).gen = x.gen + 1 ∧ s.sameBytes t) ∧
          (x.metAt = some s.clk ∨ x.state = .filling → ∃ t, exec (.hfree w) s = .next t ∧ t.handles = s.handles ∧
            t.facet? u.inst u.node u.clone 0 = some { u with chainFire := some (s.cur.slot, 1) })) ∧
        (s.clean u (.wptr w) → b (.wptr w) = sl → ∃ t, exec (.wptr w) s = .next t ∧
          s.gave t (.wptr w) u (some (BitVec.ofNat 128 (x.wptr % 2 ^ 32))) (decide (x.wptr ≠ 0)) ∧ s.sameBytes t) ∧
        (s.clean u (.wpwait w) → b (.wpwait w) = sl →
          (((s.fire1 (.wpwait w) u).c .whole).toNat % 2 ^ 32 ≤ x.wptr ∨ x.state = .full ∨ x.state = .aborted) →
          ∃ t, exec (.wpwait w) s = .next t ∧
            s.gave t (.wpwait w) u (some (BitVec.ofNat 128 (x.wptr % 2 ^ 32))) (decide (x.state = .full)) ∧ s.sameBytes t)

/-- R297, R289: TREQ of a descriptor in mapped HBM that matches its slot queues the command on the streamer that bit 0 of the handle
names, the slot goes to FILLING, or to DRAINING for a store, and D is 0; with the slot in another state D is 1, and with 16 commands
held 2, with nothing changed. -/
def Sys2Proof.Claims.facetStreamCommand : Prop :=
  ∀ (s : State) (u : FacetUnit) (w : FWord) (h : Handle) (a : Nat), s.fires u →
    let n := (u.hbase.toNat + w.a.code) % 256
    s.handleFor u.region n (ctxOfUnit s u) = some h →
    let i : Instr := .treq w
    let b := (s.fire1 i u).b .whole
    let sl := Word.field b 67 64
    let store := b.getLsbD 68
    let bs := Memory.readN s.mem a 64
    let x := Desc.ofBytes bs
    s.clean u i → Word.field b 127 70 = 0 → (b.getLsbD 69 = true → store = true) →
    s.facetReaches i u (b.extractLsb' 0 64) 64 false none a → s.poisoned a 64 = false →
    sl < h.slots.length → x.bad store = false → (x.mc = true → ∃ j, s.inst? h.inst = some j ∧ x.maskOk u.region j.regions = true) →
    (x.kind = 1 → x.fmt = h.fmt) → x.need = h.bytes →
    let ready := if store then (h.slot sl).state = .full else s.isFree (h.slot sl) = true
    let old := s.stream u.region (n % 2)
    (¬ready → ∃ t, exec i s = .next t ∧ s.gave t i u (some 1) false ∧ s.sameBytes t ∧ t.handles = s.handles ∧ t.streams = s.streams) ∧
    (ready → 16 ≤ old.length →
      ∃ t, exec i s = .next t ∧ s.gave t i u (some 2) false ∧ s.sameBytes t ∧ t.handles = s.handles ∧ t.streams = s.streams) ∧
    (ready → old.length < 16 → ∃ t y g, exec i s = .next t ∧ s.gave t i u (some 0) true ∧ s.sameBytes t ∧
      t.stream u.region (n % 2) = old ++ [y] ∧ y.desc = bs ∧ y.handle = n ∧ y.slot = sl ∧ y.store = store ∧ y.free = b.getLsbD 69 ∧
      t.handle? u.region n = some g ∧ (g.slot sl).state = if store then .draining else .filling)

/-- R297, R298, R299: LZSEND of a FULL slot to a valid record that takes the range starts the put, which sends from the offset on, and
gives 0; of a record that is sending it gives 1, and of one that is not valid, or from a slot that is not FULL, 2. LZRES of a valid
record gives BUSY, and of a reservation that has been answered the answer word. -/
def Sys2Proof.Claims.facetRequestsGiveTheirStatus : Prop :=
  ∀ (s : State) (u : FacetUnit) (w : FWord) (h : Handle), s.fires u →
    s.handleFor u.region ((u.hbase.toNat + w.a.code) % 256) (ctxOfUnit s u) = some h →
    (let i : Instr := .lzsend w
      let b := (s.fire1 i u).b .whole
      let sl := Word.field b 3 0
      let off := Word.field b 63 32
      let y := h.record sl
      let none := fun (k : Nat) => ∃ t, exec i s = .next t ∧ s.gave t i u (some (BitVec.ofNat 128 k)) false ∧ s.sameBytes t ∧
        t.chords = s.chords ∧ t.handles = s.handles
      s.clean u i → b.toNat < 2 ^ 64 → Word.field b 31 4 = 0 → off % 16 = 0 → off < h.bytes → sl < h.slots.length → sl < h.recs.length →
      (y.valid = true → h.bytes ≤ y.rbytes) →
      (Word.field y.status 1 0 = 1 → none 1) ∧
      (Word.field y.status 1 0 ≠ 1 → y.valid = false ∨ (h.slot sl).state ≠ .full → none 2) ∧
      (∀ j, Word.field y.status 1 0 ≠ 1 → y.valid = true → (h.slot sl).state = .full →
        ((s.chord (engineOf u.region)).puts.filter fun p => s.running p.inst).length < 40 →
        s.inst? h.inst = some j → j.image.routeVa = Option.none → s.reachable routeDefault y.target = true →
        ∃ t p g, exec i s = .next t ∧ s.gave t i u (some 0) true ∧ s.sameBytes t ∧
          (t.chord (engineOf u.region)).puts = (s.chord (engineOf u.region)).puts ++ [p] ∧ p.start = off ∧ p.fin = h.bytes ∧
          p.lzsend = true ∧ p.target = y.target ∧ p.ztag = y.ztag ∧ p.slot = sl ∧
          t.handle? h.region h.num = some g ∧ Word.field (g.record sl).status 1 0 = 1 ∧ (g.slot sl).state = .draining)) ∧
    (let i : Instr := .lzres w
      let b := (s.fire1 i u).b .whole
      let target := b.extractLsb' 0 64
      let sl := Word.field target 35 32
      let me := (s.fire1 i u).actor.issuer
      let mine := fun (v : Resv) => v.issuer == me && v.region == h.region && v.handle == h.num && v.slot == sl
      s.clean u i → b.toNat < 2 ^ 64 → targetBad target = false → sl < h.slots.length →
      (s.resvs.find? mine = none → s.grantKept h sl = none → (h.record sl).valid = true → ∃ t, exec i s = .next t ∧ s.gave t i u (some 1) false ∧ s.sameBytes t) ∧
      ∀ v z, s.resvs.find? mine = some v → v.answer = some z → ∃ t, exec i s = .next t ∧
        s.gave t i u (some (z.setWidth 128)) (decide (Word.field z 2 0 = 0)) ∧ t.resvs = (s.answerTaken v).resvs ∧ s.sameBytes t)

/-- R301: LZSTAT gives the chord status word, the target with bit 31 saying whether the record is valid, and the tag; LZRESET of an ABORTED
slot resumes it to FILLING with its write pointer kept, or clears it to RESERVED; of a slot in another state it has no
effect, and of a handle with RW = 0 it raises ACCESS. -/
def Sys2Proof.Claims.landingZoneIsReadAndReset : Prop :=
  ∀ (s : State) (u : FacetUnit) (w : FWord) (h : Handle), s.fires u →
    let n := (u.hbase.toNat + w.a.code) % 256
    s.handleFor u.region n (ctxOfUnit s u) = some h →
    (∀ sl, s.clean u (.lzstat w) → ((s.fire1 (.lzstat w) u).b .whole).toNat = sl → sl < 16 → sl < h.slots.length →
      let y := h.record sl
      ∃ t v, exec (.lzstat w) s = .next t ∧ s.gave t (.lzstat w) u (some v) (decide (Word.field y.status 1 0 = 2)) ∧ s.sameBytes t ∧
        v.extractLsb' 0 64 = y.status ∧ Word.field v 91 64 = Word.field y.target 27 0 ∧ v.getLsbD 95 = y.valid ∧
        v.extractLsb' 96 32 = y.ztag) ∧
    ∀ sl, let b := (s.fire1 (.lzreset w) u).b .whole
      s.clean u (.lzreset w) → b.toNat < 512 → Word.field b 7 4 = 0 → Word.field b 3 0 = sl → sl < h.slots.length →
      (h.rw = false → exec (.lzreset w) s = .next (s.facetFault u s.cur.slot { cause := .access })) ∧
      (h.rw = true →
        ((h.slot sl).state ≠ .aborted → ∃ t, exec (.lzreset w) s = .next t ∧ s.gave t (.lzreset w) u none false ∧ t.handles = s.handles) ∧
        ((h.slot sl).state = .aborted → ∃ t g, exec (.lzreset w) s = .next t ∧ s.gave t (.lzreset w) u none true ∧ s.sameBytes t ∧
          t.handle? u.region n = some g ∧
          (g.slot sl).state = (if b.getLsbD 8 then .reserved else .filling) ∧
          (g.slot sl).wptr = if b.getLsbD 8 then 0 else (h.slot sl).wptr))

/-- The claim facetStreamCommand (R297, R289). The claim facetRequestsGiveTheirStatus (R297, R298, R299). The claim
landingZoneIsReadAndReset (R301). The model's choice: log entries 24, 40, 56, 77.
Completes, by its own effect: treq, lzres, lzsend, lzstat, lzreset. -/
def Obligations.FacetLandingZones : Prop :=
  facetStreamCommand ∧ facetRequestsGiveTheirStatus ∧ landingZoneIsReadAndReset

/-- R272, R273: ACCRD gives the snapshot accumulator, the version word and the anchor of the tile that the handle records, and 0 where
none is recorded; TEMPTY gives TSTAT and INVROW, its condition that the tile is EMPTY or none is recorded. -/
def Sys2Proof.Claims.tilesAreReadThroughHandles : Prop :=
  ∀ (s : State) (u : FacetUnit) (w : FWord) (h : Handle), s.fires u →
    s.handleFor u.region ((u.hbase.toNat + w.a.code) % 256) (ctxOfUnit s u) = some h →
    (s.clean u (.accrd w) →
      let k := ((s.fire1 (.accrd w) u).b .whole).toNat % 4096
      ((s.recorded u.inst h).bind Tile.snap = none → ∃ t, exec (.accrd w) s = .next t ∧ s.gave t (.accrd w) u (some 0) false ∧ s.sameBytes t) ∧
      ∀ x, (s.recorded u.inst h).bind Tile.snap = some x → ∃ t v, exec (.accrd w) s = .next t ∧
        s.gave t (.accrd w) u (some v) (decide (Word.field x.ver 4 0 ≠ 0)) ∧ s.sameBytes t ∧
        v.extractLsb' 0 64 = BitVec.ofInt 64 (x.acc.getD k 0) ∧ v.extractLsb' 64 32 = x.ver ∧ v.extractLsb' 96 32 = BitVec.ofInt 32 x.anchor) ∧
    (s.clean u (.tempty w) →
      (s.recorded u.inst h = none → ∃ t, exec (.tempty w) s = .next t ∧ s.gave t (.tempty w) u (some 0) true ∧ s.sameBytes t) ∧
      ∀ x, s.recorded u.inst h = some x → ∃ t v, exec (.tempty w) s = .next t ∧
        s.gave t (.tempty w) u (some v) (decide (x.state = .empty)) ∧ s.sameBytes t ∧
        v.extractLsb' 0 64 = x.tstat ∧ v.extractLsb' 64 64 = x.invrow)

/-- The claim handleInstructionsUseTheirSlot (R297, R282, R283). The claim tilesAreReadThroughHandles (R272, R273).
The model's choice: log entries 24, 40, 65.
Completes, by its own effect: hstat, htake, hfree, wptr, wpwait, accrd, tempty. -/
def Obligations.HandlesAndTilesOfFacets : Prop :=
  handleInstructionsUseTheirSlot ∧ tilesAreReadThroughHandles

/-! ### Versions and the facet's system group -/

/-- R267, R270: CEASE sends the head token's SEQ up a versioned arc when the token has a version, and nothing otherwise; VERS gives the
version word, its bound as F32, VERSION and F + 2X. -/
def Sys2Proof.Claims.versionsAreReadAndCeased : Prop :=
  ∀ (s : State) (u : FacetUnit) (w : FWord) (k : Fin 4) (x : Token), s.fires u → (w.a = .pop k ∨ w.a = .peek k) →
    (s.seen u).head k.val = some x → x.psn = false →
    (∀ a, s.arcInto u.inst false u.node k.val = some a →
      (a.vs = true → x.ver ≠ 0 → ∃ t, exec (.cease w) s = .next t ∧ s.gave t (.cease w) u none true ∧ s.sameBytes t ∧
        t.ceases = s.ceases ++ [{ inst := a.inst, arc := a.idx, seq := x.seq }]) ∧
      (a.vs = false ∨ x.ver = 0 → ∃ t, exec (.cease w) s = .next t ∧ s.gave t (.cease w) u none false ∧ s.sameBytes t ∧
        t.ceases = s.ceases)) ∧
    (s.arcInto u.inst false u.node k.val = none → ∃ t, exec (.cease w) s = .next t ∧ s.gave t (.cease w) u none false ∧ s.sameBytes t ∧
      t.ceases = s.ceases) ∧
    ∃ t v, exec (.vers w) s = .next t ∧ s.gave t (.vers w) u (some v) (decide (Word.field x.ver 4 0 ≠ 0)) ∧ s.sameBytes t ∧
      lane 32 v 0 = x.ver.toNat ∧ lane 32 v 2 = Word.field x.ver 4 0 ∧
      lane 32 v 3 = (x.ver.getLsbD 5).toNat + 2 * (x.ver.getLsbD 6).toNat ∧
      (Word.field x.ver 15 8 = 0x80 → Machine.Float.decode Machine.Float.f32 (lane 32 v 1) = .inf false) ∧
      (Word.field x.ver 15 8 ≠ 0x80 → ∃ m e, Machine.Float.decode Machine.Float.f32 (lane 32 v 1) = .fin false m e ∧ m = 2 ^ 23 ∧
        e + 23 = max (sg 8 (Word.field x.ver 15 8)) (-126))

/-- R193, R194, R206, R50, R44: TRAP and BRK end their firing with no effect and their cause, TRAP with bits 15:0 of A as the code; any
firing that would read a poisoned token or register ends so with POISON, before any other fault. A fault of a firing is pending at the
region's conductor with the unit's party word, and the unit waits; its registers, predicates and tokens, every other unit and every byte
keep their values. The model's choice: log entries 41, 78.
Completes, by its own effect: trap, brk. -/
def Obligations.FacetTrapsLeaveNoEffect : Prop :=
  ∀ (s : State) (u : FacetUnit) (w : FWord), s.fires u →
    (s.clean u (.trap w) → exec (.trap w) s = .next (s.facetFault u s.cur.slot { cause := .trapInsn, info := ((s.fire1 (.trap w) u).a .whole).extractLsb' 0 16 })) ∧
    (s.clean u (.brk w) → exec (.brk w) s = .next (s.facetFault u s.cur.slot { cause := .brk })) ∧
    (∀ i : Instr, i.form.isSome = true → ¬s.clean u i → exec i s = .next (s.facetFault u s.cur.slot { cause := .poison })) ∧
    ∀ (f : FacetFault) (k : Nat), let t := s.facetFault u k f
      (∀ c, s.cond? u.region = some c → ∃ x, t.cond? u.region = some { c with pend := c.pend ++ [x] } ∧ x.cause = f.cause ∧ x.info = f.info ∧
        x.faddr = f.faddr ∧ x.finfo = s.facetParty u k ∧ x.other = f.other) ∧
      (∀ r, r ≠ u.region → t.cond? r = s.cond? r) ∧ s.sameBytes t ∧
      ∃ v, t.facet? u.inst u.node u.clone 0 = some v ∧ v.regs = u.regs ∧ v.preds = u.preds ∧ v.ins = u.ins ∧ v.outs = u.outs ∧
        v.cins = u.cins ∧ v.couts = u.couts ∧ (f.cause ≠ .brk → v.faulted = some k) ∧ (f.cause = .brk → v.brk = some k)

/-- R195 to R199: RDCNT gives a counter of the last completed window and its index; RDST the identity word, the region's energy or the
cycle count; LAYV the layout version; SETPV writes the predicates under its mask; BEAT restarts the timer of the instance's
queue; SEQ and SETTAG set the next SEQ and the TAG of an output. -/
def Sys2Proof.Claims.facetSystemGroup : Prop :=
  ∀ (s : State) (u : FacetUnit) (w : FWord) (j : Inst), s.fires u → s.inst? u.inst = some j →
    let sel := w.b.code - 48
    (∀ x, ([(0, u.last.firings), (1, u.last.full), (2, u.last.blocked), (3, u.last.ins.getD 0 0), (4, u.last.ins.getD 1 0),
        (5, u.last.ins.getD 2 0), (6, u.last.ins.getD 3 0), (7, u.last.outs.getD 0 0), (8, u.last.outs.getD 1 0),
        (9, u.last.outs.getD 2 0), (10, u.last.outs.getD 3 0)] : List (Nat × Nat)).contains (sel, x) = true → x < 2 ^ 64 →
      ∃ t v, exec (.rdcnt w) s = .next t ∧ s.gave t (.rdcnt w) u (some v) (decide (x ≠ 0)) ∧ s.sameBytes t ∧ Word.field v 63 0 = x ∧
        Word.field v 95 64 = (if j.winDone = 0 then 0 else (j.winIndex - 1).toNat) ∧ Word.field v 127 96 = 0) ∧
    (sel ≤ 2 → ∃ t v, exec (.rdst w) s = .next t ∧ s.gave t (.rdst w) u (some v) (decide (v ≠ 0)) ∧ s.sameBytes t ∧
      (sel = 0 → u.node < 4096 → u.clone < 8 → u.rank < 64 → u.region < 256 → j.part < 64 → j.ctl.wave = none →
        Word.field v 11 0 = u.node ∧ Word.field v 14 12 = u.clone ∧ Word.field v 29 24 = u.rank ∧ Word.field v 37 30 = u.region ∧
        Word.field v 51 46 = j.part ∧ Word.field v 63 52 = j.ctx.toNat ∧ Word.field v 95 64 = j.layver.toNat) ∧
      (sel = 1 → v.toNat = s.nanojoules u.region % 2 ^ 64) ∧ (sel = 2 → v.toNat = (s.clk - s.resetAt) % 2 ^ 64)) ∧
    (j.ctl.wave = none → ∃ t v, exec (.layv w) s = .next t ∧ s.gave t (.layv w) u (some v) (decide (v ≠ 0)) ∧ s.sameBytes t ∧
      v.toNat = j.layver.toNat) ∧
    (s.clean u (.setpv w) → let x := (s.fire1 (.setpv w) u).a .whole
      let m := x.extractLsb' 8 8
      ∃ t, exec (.setpv w) s = .next t ∧ s.passed t u (popsOf (Instr.setpv w).sources) none [] u.regs
        (predsAfter w true (some (m, x.extractLsb' 0 8)) (decide (m ≠ 0)) u.preds)) ∧
    (∃ t, exec (.beat w) s = .next t ∧ s.gave t (.beat w) u none false ∧ s.sameBytes t ∧
      ∀ q, s.queue? j.queue = some q → t.queue? j.queue = some { q with timer := 0 }) ∧
    ∀ o : Fin 4, w.a.code = 48 + o.val → u.seqnext.length = 4 → u.seqcnt.length = 4 → u.tagreg.length = 4 → w.d = .none →
      (s.clean u (.seq w) → let x := ((s.fire1 (.seq w) u).b .whole).extractLsb' 0 16
        ∃ t v, exec (.seq w) s = .next t ∧ s.passed t u (popsOf (Instr.seq w).sources) none [] u.regs (predsAfter w true none false u.preds) ∧
          t.facet? u.inst u.node u.clone 0 = some v ∧ v.seqnext.getD o.val none = some x ∧ v.tagreg = u.tagreg ∧
          v.seqcnt = (if u.indecl.toNat % 16 = 0 then u.seqcnt.set o.val (x + 1) else u.seqcnt)) ∧
      (s.clean u (.settag w) → ∃ t v, exec (.settag w) s = .next t ∧
        s.passed t u (popsOf (Instr.settag w).sources) none [] u.regs (predsAfter w true none false u.preds) ∧
        t.facet? u.inst u.node u.clone 0 = some v ∧ v.seqnext = u.seqnext ∧
        v.tagreg.getD o.val 0 = ((s.fire1 (.settag w) u).b .whole).extractLsb' 0 2)

/-- The claim versionsAreReadAndCeased (R267, R270). The claim facetSystemGroup (R195 to R199).
Completes, by its own effect: cease, vers, rdcnt, rdst, setpv, beat, layv, seq, settag. -/
def Obligations.FacetSystemInstructions : Prop :=
  versionsAreReadAndCeased ∧ facetSystemGroup

/-! ### The device's own steps: the hub -/

namespace Sys2Proof.Claims

/-- No uncorrectable error of HBM or of the L2 waits to be found (R368). -/
def sound (s : State) : Prop := s.latent = [] ∧ ∀ y ∈ s.l2, y.bad = false

/-- Queue `n` acts as the holder of its partition: `s'` is the state with the pages of the wait events of the partition's queues marked
read (R92) and the partition taken (R327, R328). -/
def takes (s s' : State) (n : Nat) : Prop :=
  ∃ part, ((s.queue? n).bind fun q => s.partOf q.ctx) = some part ∧ (s.readAllWaits part).takePartition n = some s'

/-- Queue `n` holds its partition and dispatches packet `b` of type `t`, from the pool where `pool` says so (R323 to R328,
R336): a pool entry's conductor has its earlier stores acknowledged (R97). -/
structure dispatches (s s' : State) (n : Nat) (q : Queue) (b : List Byte) (t : Nat) (pool : Bool) : Prop where
  on : s.stopped = false
  holds : takes s s' n
  acked : s'.poolHeld n = false
  queue : s'.queue? n = some q
  packet : s'.nextPacket q = some b
  source : (s'.poolHead n).isSome = pool
  kind : fieldAt b 0 1 = t
  good : s'.packetOk q.ctx b = true
  waits : s'.waitsHold q.ctx b = true

/-- An instruction of HREG ended well (R383). -/
def hregDone (t : State) : Prop := t.regs.hregBusy = false ∧ t.regs.hregState = 2 ∧ t.regs.hregReason = 0

end Sys2Proof.Claims

/-- R318 to R321, R338, R383: a registration whose block passes its checks is DONE with reason 0: the partition, the context (ACTIVE)
or the queue (READY, its pages pinned, its STATUS written in its block) has the fields of its block; REREAD_QUADS gives the partition the
block's quads, and those it loses stay its own until they are empty. A block that is not 64-byte aligned in HBM is REFUSED
with reason 1. -/
def Sys2Proof.Claims.registrationTakesTheBlock : Prop :=
  ∀ (s : State) (addr : Word64), s.regs.hregBusy = true → s.stopped = false →
    (s.block addr = none → ∀ i : Instr, (i = .registerPartition addr ∨ i = .registerContext addr ∨ (∃ n, i = .registerQueue addr n) ∨
        i = .rereadQuads addr) →
      ∃ t, exec i s = .next t ∧ t.regs.hregBusy = false ∧ t.regs.hregState = 3 ∧ t.regs.hregReason = 1 ∧ t.parts = s.parts ∧
        t.ctxs = s.ctxs ∧ t.queues = s.queues ∧ s.sameBytes t) ∧
    ∀ a b, s.block addr = some (a, b) →
      (let id := fieldAt b 8 1;
        let quads := BitVec.ofNat 48 (fieldAt b 0 8);
        s.quadTaken id quads = false →
        (partitionOk b = true → ∃ t p, exec (.registerPartition addr) s = .next t ∧ hregDone t ∧ t.part? id = some p ∧
          p.quads = quads ∧ p.addr = a ∧ p.prio = fieldAt b 9 1 ∧ p.weight = fieldAt b 0xA 1 ∧ p.fdom = fieldAt b 0xB 1 ∧
          p.eshare = fieldAt b 0xC 2 ∧ p.quantum = (if fieldAt b 0xE 2 = 0 then 1000 else fieldAt b 0xE 2) ∧ s.sameBytes t) ∧
        ∀ p, fieldAt b 6 2 = 0 → s.part? id = some p → ∃ t r, exec (.rereadQuads addr) s = .next t ∧ hregDone t ∧
          t.part? id = some r ∧ r.quads = quads ∧ r.leaving = (p.leaving ||| p.quads) &&& ~~~quads ∧ r.prio = p.prio ∧ s.sameBytes t) ∧
      (let id := BitVec.ofNat 12 (fieldAt b 8 2);
        contextOk b = true → (s.context? id).map Context.state ≠ some 1 → (s.part? (fieldAt b 0xA 1)).isSome = true →
        s.keyOk (fieldAt b 0x14 4) (fieldAt b 0xA 1) = true →
        ∃ t c, exec (.registerContext addr) s = .next t ∧ hregDone t ∧ t.context? id = some c ∧
          c.root = BitVec.ofNat 64 (fieldAt b 0 8) ∧ c.part = fieldAt b 0xA 1 ∧ c.prio = fieldAt b 0xB 1 ∧ c.weight = fieldAt b 0xC 1 ∧
          c.fdom = fieldAt b 0xD 1 ∧ c.eshare = fieldAt b 0xE 2 ∧ c.quota = fieldAt b 0x10 2 ∧ c.state = 0 ∧
          Memory.read t.mem (a + 0x12) = 0 ∧ ∀ x, x ≠ a + 0x12 → Memory.read t.mem x = Memory.read s.mem x) ∧
      ∀ n, n < 1024 → let ctx := BitVec.ofNat 12 (fieldAt b 0xC 2);
        queueOk b = true → (s.context? ctx).map Context.state = some 0 →
        let pins := s.pinRanges ctx [(fieldAt b 0 8, 64 + 64 * fieldAt b 8 4), (fieldAt b 0x18 8, fieldAt b 0x20 8),
          (fieldAt b 0x28 8, fieldAt b 0x30 4)]
        (pins = none → exec (.registerQueue addr n) s = .next (s.hregEnd 4)) ∧
        ∀ z pages, pins = some (z, pages) → ∃ t q, exec (.registerQueue addr n) s = .next t ∧ hregDone t ∧ t.queue? n = some q ∧ q.base = BitVec.ofNat 64 (fieldAt b 0 8) ∧
          q.nent = fieldAt b 8 4 ∧ q.ctx = ctx ∧ q.prio = fieldAt b 0xE 1 ∧ q.weight = fieldAt b 0xF 1 ∧ q.fdom = fieldAt b 0x10 1 ∧
          q.eshare = fieldAt b 0x12 2 ∧ q.wdog = (if fieldAt b 0x14 4 = 0 then 2000 else fieldAt b 0x14 4) ∧ q.state = 1 ∧
          q.errcnt = 0 ∧ q.pinned = pages ∧ t.num (a + 0x34) 4 = 1 ∧
          ∀ x, x < a + 0x34 ∨ a + 0x38 ≤ x → Memory.read t.mem x = Memory.read z.mem x

/-- R340, R383, R380: KILL of an ACTIVE context ends DONE once the kill has started: the context is KILLED with its cause, its
instances are discarded without a signal, and its queues go into ERROR. KILL_COMPLETE, once no instance, no access and
no release of it is left, makes it DEAD, with no pool entry of it left, and interrupts the host. -/
def Sys2Proof.Claims.killStartsAndCompletes : Prop :=
  ∀ (s : State) (ctx : BitVec 12) (c : Context), s.stopped = false → s.context? ctx = some c →
    (∀ cause, s.regs.hregBusy = true → c.state = 0 → ∃ t d, exec (.kill ctx cause) s = .next t ∧ hregDone t ∧ t.context? ctx = some d ∧
      d.state = 1 ∧ d.killCause = some cause ∧ (∀ i ∈ t.insts, i.ctx = ctx → i.state = .discarding ∧ i.signals = false) ∧
      (∀ e ∈ t.pool, e.ctx ≠ ctx) ∧ ∀ q ∈ t.queues, q.ctx = ctx → q.state = 3) ∧
    (sound s → c.state = 1 → (∀ i ∈ s.insts, i.ctx ≠ ctx) → (∀ x ∈ s.txns, x.ctx ≠ ctx) → c.id = ctx → (∀ q ∈ s.queues, q.ctx = ctx → q.state = 3) →
      ∃ t d, exec (.killComplete ctx) s = .next t ∧ t.context? ctx = some d ∧ d.state = 2 ∧ Memory.read t.mem (c.addr + 0x12) = 2 ∧
        t.interrupts = s.interrupts ++ [(0, 1)] ∧ (∀ e ∈ t.pool, e.ctx ≠ ctx) ∧ ∀ x ∈ t.tracked, x.2.ctx ≠ ctx)

/-- The claim registrationTakesTheBlock (R318 to R321, R338, R383). The claim killStartsAndCompletes (R340, R383, R380).
The model's choice: log entry 58.
Completes, by its own effect: registerPartition, registerContext, registerQueue, rereadQuads, kill, killComplete. -/
def Obligations.RegistrationsAndKills : Prop :=
  registrationTakesTheBlock ∧ killStartsAndCompletes

/-- R323, R325, R326, R329, R330, R336: the queue that holds its partition carries out the packet at its head once its waits hold: NOP
takes it from the ring, EVENT makes its signal, COPY begins the hub's copy, and LAUNCH, from the ring or from the pool,
starts an instance of its image on regions that fit, where its save record has room. An EVENT waits for the hub's own earlier writes in other
devices. The end of a copy, its remote writes acknowledged, makes the copy's signal. The packet at the head of a ring is the one that the
read index names modulo the entries, and it is present while its TYPE is not 0; a packet taken has TYPE 0 written and the index raised. A packet that cannot be carried out puts the queue into ERROR with cause CONFIG. -/
def Sys2Proof.Claims.packetsAreCarriedOut : Prop :=
  ∀ (s s' : State) (n : Nat) (q : Queue) (b : List Byte),
    (dispatches s s' n q b 4 false → exec (.packetNop n) s = .next (s'.consume q)) ∧
    (s.hubWrites s.nextTx = true → exec (.packetEvent n) s = .next s) ∧
    (s.hubWrites s.nextTx = false → dispatches s s' n q b 3 false →
      exec (.packetEvent n) s = .next ((s'.consume q).signal q b (s'.packetBefore q b))) ∧
    (dispatches s s' n q b 2 false → q.copy = none → ∃ t r k, exec (.packetCopy n) s = .next t ∧ t.queue? n = some r ∧ r.copy = some k ∧
      k.src = BitVec.ofNat 64 (fieldAt b 8 8) ∧ k.dst = BitVec.ofNat 64 (fieldAt b 0x10 8) ∧ k.len = fieldAt b 4 4 ∧ k.packet = b ∧
      k.upto = none ∧ t.mem = (s'.consume q).mem) ∧
    (∀ k, s.stopped = false → s.queue? n = some q → q.copy = some k →
      let done := fun (t : State) => (t.modQueue n fun q => { q with copy := none, copyVc := {} }).signal q k.packet q.copyVc
      let moved := s.copyUnits (hubActor q.ctx (.queue n) q.arrived) k.src.toNat k.dst.toNat (k.len / 16) (k.len / 128 + 1)
      (k.upto = none → ∀ z, moved = .ok z () →
        let t := z.modQueue n fun q => { q with arrived := [] }
        (t.hubWrites t.nextTx = false → exec (.copyDone n) s = .next (done t)) ∧
        (t.hubWrites t.nextTx = true →
          exec (.copyDone n) s = .next (t.modQueue n fun q => { q with copy := some { k with upto := some t.nextTx } }))) ∧
      (k.upto = none → ∀ c a, moved = .bad c a → exec (.copyDone n) s = .next (s.queueError n c)) ∧
      (k.upto = none → ∀ z, moved = .ask z → exec (.copyDone n) s = .next (s.sent z)) ∧
      ∀ m, k.upto = some m → s.hubWrites m = false → exec (.copyDone n) s = .next (done s)) ∧
    (∀ p regions pool s'' x off (i : Instr), dispatches s s' n q b 1 pool →
      i = (if pool = true then .poolDispatch n regions else .packetLaunch n regions) →
      (s'.context? q.ctx).bind (fun c => s'.part? c.part) = some p →
      regions.length = (if fieldAt b 4 2 = 0 then (s'.usable p).length else fieldAt b 4 2) → 0 < regions.length →
      regions.length ≤ (s'.usable p).length → s'.placeable p regions = true →
      s'.readImage (runtimeReader (hubActor q.ctx (.queue q.num) q.arrived)) q.ctx (s'.slotKey q.ctx).isSome (fieldAt b 8 8) = .ok s'' x →
      let z := s''.modQueue q.num fun q => { q with arrived := [] }
      let spill := if x.spillSize = 0 then 0 else Config.launchSpill q.ctx.toNat (fieldAt b 8 8) &&& 0x00FFFFFFFFFF0000
      let im := x.image (s'.slotKey q.ctx)
      let size := saveMax regions.length im.ports im.chordNodes
      (∀ f, z.refusedImage q.ctx (z.handlesOn z.nextInst q.ctx regions) regions x spill = some f →
        exec i s = .next (z.launchFault q b f)) ∧
      (z.refusedImage q.ctx (z.handlesOn z.nextInst q.ctx regions) regions x spill = none →
        (q.savesize < size → exec i s = .next (z.queueError q.num .config)) ∧
        (size ≤ q.savesize → z.saveSlot q size = some off → exec i s = .next (z.startInst q b regions im off size spill)))) ∧
    (s.stopped = false → takes s s' n → s'.poolHeld n = false → s'.queue? n = some q → s'.nextPacket q = some b → s'.packetOk q.ctx b = false →
      ∀ i : Instr, (s'.poolHead n = none ∧ (i = .packetNop n ∨ i = .packetEvent n ∨ i = .packetCopy n ∨ ∃ rs, i = .packetLaunch n rs) ∨
        s'.poolHead n ≠ none ∧ ∃ rs, i = .poolDispatch n rs) →
      exec i s = .next (s'.queueError n .config)) ∧
    (∀ x, s.peek q (q.base.toNat + 64 + 64 * (s.readIndex q % q.nent)) 64 = some x →
      s.ringHead q = if fieldAt x 0 1 = 0 then none else some x) ∧
    (s.poolHead q.num = none → ∀ t u, s.storeVa q.ctx (q.base.toNat + 64 + 64 * (s.readIndex q % q.nent)) [0] false q.pinned = .ok t →
      t.storeVa q.ctx (q.base.toNat + 8) (Word.toBytes 8 (s.readIndex q + 1)) false q.pinned = .ok u → s.consume q = u) ∧
    ∀ (c : Conductor) inst idx num args base (im : Image), let d := c.start inst idx num args base im
      d.get 1 = args ∧ d.get 2 = BitVec.ofNat 64 idx ∧ d.get 3 = BitVec.ofNat 64 num ∧ d.get 4 = base ∧ (∀ r, 4 < r.val → d.get r = 0) ∧
      d.pl = false ∧ d.pc = base + BitVec.ofNat 64 (im.codeOff + im.entry) ∧ d.tvec = c.tvec

/-- R209, R326, R330: an instance started has the packet's queue, context, priority, fault domain and energy share, its image and its
regions; each region's conductor stands at the entry of the image's code with its index and the number of regions; the handles of its
image are added with their slots as the slots last were. A launch whose image is refused makes an instance on no region, on which the
fault acts. -/
def Sys2Proof.Claims.instanceIsStarted : Prop :=
  ∀ (s : State) (q : Queue) (b : List Byte), s.inst? s.nextInst = none →
    (∀ (regions : List Nat) (im : Image) (off size : Nat) (spill : Word64), regions.Nodup →
      let t := s.startInst q b regions im off size spill
      t.nextInst = s.nextInst + 1 ∧
      (∃ j, t.inst? s.nextInst = some j ∧ j.ctx = q.ctx ∧ j.queue = q.num ∧ j.part = ((s.context? q.ctx).map Context.part).getD 0 ∧
        j.packet = b ∧ j.regions = regions ∧ j.image = im ∧ j.saveOff = off ∧ j.savemax = size ∧ j.state = .running ∧
        j.prio = s.launchPrio q b ∧ j.fdom = (s.queueEff q).2.2.1 ∧ j.share = energyShare (s.queueEff q).2.2.2 (fieldAt b 3 1) ∧
        j.layver = 1 ∧ j.signals = true ∧ j.fault = none) ∧
      (∀ k, k ≠ s.nextInst → t.inst? k = s.inst? k) ∧
      (∀ k r c, regions[k]? = some r → s.cond? r = some c → ∃ d, t.cond? r = some d ∧
        d = { c.start s.nextInst k regions.length (BitVec.ofNat 64 (fieldAt b 0x10 8)) im.base im with
          cports := d.cports, stray := d.stray, pports := d.pports }) ∧
      t.handles = s.handles ++ s.handlesOn s.nextInst q.ctx regions im) ∧
    ∀ f : Refused, let t := s.launchFault q b f
      ∃ j, t.inst? s.nextInst = some j ∧ j.regions = [] ∧ j.queue = q.num ∧ j.ctx = q.ctx ∧ (j.fault.map NodeFault.cause) = some f.cause

/-- R327, R328, R338, R339, R342: PREEMPT makes the holder of a partition yield to a queue ready at a higher priority; with its deficit
used up and no retirement due it yields to a ready queue of its own priority, or else its deficit is raised by its slice; a PAUSED
queue whose instances are all saved and would each find their regions is READY again; and of a queue that holds its partition for its
watchdog's time without progress the instances are discarded with no signal, and once they have retired it goes into ERROR with cause
WATCHDOG, the regions of its partition reset. -/
def Sys2Proof.Claims.partitionsAreShared : Prop :=
  ∀ (s : State) (p : Partition) (q : Queue), s.part? p.id = some p → s.queue? q.num = some q →
    -- the hub has read the wait events of the partition's queues (R92)
    let z := if s.stopped then s else s.readAllWaits p.id
    (p.holder = some q.num → p.yielding = false → q.biting = false →
      ((q.state = 1 → s.startedOf q.num ≠ [] → q.timer < q.wdog * 1000000) →
        (∃ r ∈ z.readyQueues p.id, r.num ≠ q.num ∧ z.queuePrio r < z.queuePrio q) → ∃ t, exec (.preempt p.id) s = .next t ∧
          (∃ r, t.part? p.id = some r ∧ r.yielding = true ∧ r.holder = some q.num ∧ r.quads = p.quads) ∧ t.queues = s.queues) ∧
      (q.deficit ≤ 0 → s.retireDue q.num = false →
        ((∃ r ∈ z.readyQueues p.id, r.num ≠ q.num ∧ z.queuePrio r = z.queuePrio q) →
          exec (.deficitExpiry p.id) s = .next (z.modPart p.id fun p => { p with yielding := true })) ∧
        ((∀ r ∈ z.readyQueues p.id, r.num ≠ q.num → z.queuePrio r ≠ z.queuePrio q) →
          exec (.deficitExpiry p.id) s =
            .next (z.modQueue q.num fun x => { x with deficit := x.deficit + (z.queueEff x).2.1 * p.quantum })))) ∧
    ((s.context? q.ctx).map Context.part = some p.id →
      (p.holder = some q.num → p.yielding = false → q.biting = false → q.state = 1 → s.takePartition q.num = some s) ∧
      (q.state = 2 → s.unsaved q.num = false → (∀ i ∈ s.startedOf q.num, i.state = .saved → i.regions.length ≤ (s.usable p).length) →
        ∃ t r, exec (.queueUnpause q.num) s = .next t ∧ t.queue? q.num = some r ∧ r.state = 1 ∧ r.cause = none ∧ t.conds = s.conds) ∧
      (s.stopped = false → p.holder = some q.num → q.state = 1 → s.retireDue q.num = false → s.othersSaved p q.num = true →
        (q.biting = false → s.startedOf q.num ≠ [] → q.wdog * 1000000 ≤ q.timer →
          ∃ t r, exec (.watchdog q.num) s = .next t ∧ t.queue? q.num = some r ∧ r.biting = true ∧ r.state = 1 ∧
            ∀ j ∈ s.startedOf q.num, ∃ k, t.inst? j.id = some k ∧ k.state = .discarding ∧ k.signals = false) ∧
        (q.biting = true → (∀ i ∈ s.insts, i.queue ≠ q.num) →
          ∃ t r, exec (.watchdog q.num) s = .next t ∧ t.queue? q.num = some r ∧ r.state = 3 ∧ r.cause = some .watchdog ∧
            (∀ k c, k < 192 → p.owned.getLsbD (k / 4) = true → s.cond? k = some c → t.cond? k = some {}) ∧
            ∀ k, (192 ≤ k ∨ p.owned.getLsbD (k / 4) = false) → t.cond? k = s.cond? k)))

/-- The claim packetsAreCarriedOut (R323, R325, R326, R329, R330, R336). The claim instanceIsStarted (R209, R326, R330). The claim
partitionsAreShared (R327, R328, R338, R339, R342). The model's choice: log entries 10, 26, 58, 59, 84.
Completes, by its own effect: packetLaunch, packetCopy, copyDone, packetEvent, packetNop, poolDispatch, preempt,
deficitExpiry, watchdog, queueUnpause. -/
def Obligations.PacketsAndPartitions : Prop :=
  packetsAreCarriedOut ∧ instanceIsStarted ∧ partitionsAreShared

/-! ### The device's own steps: instances -/

/-- R335, R125: a saved instance put on new regions runs again, or stays frozen where a cause had stopped it; its layout version rises where
the regions are others than before; each of its units stands on the region with the same place in its list, and is otherwise as it was,
facets with an empty L1; the conductors come back with every register, their data caches empty; the scratchpad bytes below each
high-water mark stand in the new region. -/
def Sys2Proof.Claims.savedInstanceIsRestored : Prop :=
  ∀ (s : State) (i : Inst) (regions : List Nat), s.inst? i.id = some i → s.wf → regions.length = i.regions.length → regions.Nodup →
    i.regions.Nodup → (∀ r ∈ regions, r < 192) → (∀ r ∈ i.regions, 256 ≤ r) →
    let t := s.restore i regions
    let place := regionMap (i.regions.zip regions)
    (∃ j, t.inst? i.id = some j ∧ j.state = (if i.stopCause.isSome then .frozen else .running) ∧ j.regions = regions ∧
      j.layver = (if regions = i.dir then i.layver else i.layver + 1) ∧ j.image = i.image ∧ j.ctx = i.ctx ∧ j.queue = i.queue) ∧
    (∀ u ∈ t.facets, u.inst = i.id → ∃ v ∈ s.facets, v.inst = i.id ∧ u = { v with region := place v.region, l1 := [] }) ∧
    (∀ u ∈ t.islands, u.inst = i.id → ∃ v ∈ s.islands, v.inst = i.id ∧ u = { v with region := place v.region }) ∧
    (∀ e ∈ t.engines, e.inst = i.id → ∃ v ∈ s.engines, v.inst = i.id ∧ e = { v with region := place v.region }) ∧
    (∀ u, u.inst ≠ i.id → (u ∈ t.facets ↔ u ∈ s.facets)) ∧
    (∀ (k r : Nat) (c d : Conductor), regions[k]? = some r → i.saved[k]? = some c → s.cond? r = some d → ∃ e, t.cond? r = some e ∧
      e = { c with l1 := [], ic := d.ic, pend := e.pend, handling := e.handling }) ∧ t.mem = s.mem ∧
    ∀ k r r' x : Nat, i.regions[k]? = some r → regions[k]? = some r' → x < 0x1000000 →
      x % 0x40000 < (lookup s.spadHigh 0 (r * 64 + x / 0x40000) + 1023) / 1024 * 1024 →
      Memory.read t.spad (r' * 0x1000000 + x) = Memory.read s.spad (r * 0x1000000 + x)

/-- R337, R369: the first fault of an instance is the one recorded, and it alone acts: at domain 1 the instance is discarded, its signal made, and
its queue's error count rises; at domain 2 the queue goes into ERROR with the cause, and its instances are discarded without a signal; at
domain 3 the context is killed with the cause. Consumed poison acts on the context whatever the domain. A later fault only counts. -/
def Sys2Proof.Claims.faultActsOnItsDomain : Prop :=
  ∀ (s : State) (i : Inst) (f : NodeFault) (es : List Word64), s.inst? i.id = some i →
    let t := s.actOn i.id f es
    let domain := if f.cause = .poison then 3 else i.fdom
    (∀ g, i.fault = some g → t.inst? i.id = some { i with later := i.later + 1 } ∧ t.queues = s.queues ∧ t.ctxs = s.ctxs) ∧
    (i.fault = none → (t.inst? i.id).bind Inst.fault = some f ∧
      (domain = 1 → (∃ j, t.inst? i.id = some j ∧ j.state = .discarding ∧ j.signals = true) ∧
        (∀ q, s.queue? i.queue = some q → t.queue? i.queue = some { q with errcnt := min 65535 (q.errcnt + 1) }) ∧
        ∀ n, n ≠ i.queue → t.queue? n = s.queue? n) ∧
      (domain = 2 → ∀ q, s.queue? i.queue = some q →
        (∃ r, t.queue? i.queue = some r ∧ r.state = 3 ∧ r.cause = some f.cause) ∧
        ∀ k ∈ s.startedOf i.queue, ∃ j, t.inst? k.id = some j ∧ j.state = .discarding ∧ j.signals = false) ∧
      (3 ≤ domain → ∀ c, s.context? i.ctx = some c → c.state = 0 →
        (∃ d, t.context? i.ctx = some d ∧ d.state = 1 ∧ d.killCause = some f.cause) ∧
        ∀ k ∈ t.insts, k.ctx = i.ctx → k.state = .discarding ∧ k.signals = false))

/-- R58, R59, R331 to R337, R330, R342: the detector ends an instance that holds nothing, has no fault standing and whose sinks are
done; one that holds tokens with nothing outstanding for 65,536 cycles freezes with cause DEADLOCK, and the fault acts, after the save where
a freeze is due; FREEZE of an instance that is due leaves it freezing, a reload, a firing held at an assist and the conductors' own wait
for a reservation given up; SAVE_DONE, its streams standing at a
128-byte boundary, writes its record and gives up its regions; RESUME of an intact record places it on regions that fit; RETIRE
removes an ended instance, restarts its queue's timer and makes its signal; and the runtime's action on the fault in hand acts on the
instance's domain, at once, or after the save where a freeze is due. -/
def Sys2Proof.Claims.instanceSteps : Prop :=
  ∀ (s : State) (i : Inst), s.inst? i.id = some i → s.stopped = false →
    (i.state = .running → s.holdsTokens i.id = false → (∀ c ∈ s.condsOf i.id, c.holds = false) → s.sinksDone i.id = true →
      s.commandsOut i.id = false → s.faultsOut i.id = false →
      exec (.complete i.id) s = .next (s.modInst i.id fun i => { i with state := .complete })) ∧
    (i.state = .running → s.holdsTokens i.id = true ∨ (∃ c ∈ s.condsOf i.id, c.holds = true) → 65536 ≤ i.sinceFiring →
      s.outstanding i = false →
      let f : NodeFault := { cause := .deadlock, finfo := BitVec.ofNat 64 (i.layver.toNat * 2 ^ 32) }
      let t := s.modInst i.id fun i => { i with state := .frozen, stopCause := some .deadlock }
      exec (.deadlock i.id) s = .next (
        if s.freezeDue i then t.modInst i.id fun i => { i with owed := i.owed ++ [(f, s.deadlockEntries i)] }
        else t.actOn i.id f (s.deadlockEntries i))) ∧
    (i.state = .running ∨ i.state = .frozen → s.freezeDue i = true → s.atBoundary i = true →
      ∃ t j, exec (.freeze i.id) s = .next t ∧ t.inst? i.id = some j ∧ j.state = .freezing ∧ s.sameBytes t ∧
        (∀ r c, s.cond? r = some c → t.cond? r = some (if c.inst = some i.id then c.freeze else c)) ∧
        (∀ u ∈ t.islands, u.inst = i.id → u.reload = none) ∧ (∀ u ∈ t.facets, u.inst = i.id → u.assist = none) ∧
        ∀ v ∈ t.resvs, v.inst = i.id → ∀ r c, v.issuer = .conductor r → s.cond? r = some c → c.pl = true) ∧
    (i.state = .freezing → s.pins.shdn = false → i.owed = [] → (∀ r ∈ i.regions, ∀ c, s.cond? r = some c → c.letsSave = true) → s.streamsStand i.id = true →
      ∃ t j, exec (.saveDone i.id) s = .next t ∧ t.inst? i.id = some j ∧ j.state = .saved ∧ j.saved = i.regions.filterMap s.cond? ∧
        j.dir = i.regions ∧ ∀ r ∈ i.regions, ∀ c, s.cond? r = some c → t.cond? r = some c.freed) ∧
    (∀ s' regions, i.state = .saved → s.takePartition i.queue = some s' → s'.resumable i regions = true →
      (s'.recordIntact i = true → exec (.resume i.id regions) s = .next (s'.restore i regions)) ∧
      (s'.recordIntact i = false → exec (.resume i.id regions) s =
        .next (s'.actOn i.id { cause := .killed, finfo := BitVec.ofNat 64 (i.layver.toNat * 2 ^ 32) } []))) ∧
    (i.state = .complete ∨ i.state = .discarding → s.ackDue i = false →
      (i.killed = true → ∀ r ∈ i.regions, ∀ c, s.cond? r = some c → c.letsSave = true) →
      (i.signals = false ∨ packetSignal i.packet = 0 →
        ∃ t, exec (.retire i.id) s = .next t ∧ t.inst? i.id = none ∧ (∀ h ∈ t.handles, h.inst ≠ i.id) ∧
          (∀ u ∈ t.facets, u.inst ≠ i.id) ∧ (∀ c ∈ t.conds, c.inst ≠ some i.id) ∧
          ∀ q, s.queue? i.queue = some q → t.queue? i.queue = some { q with timer := 0 }) ∧
      let gone := ((s.countLate i).removeInst i).beat i.queue
      ∀ q, i.signals = true → gone.queue? i.queue = some q →
        exec (.retire i.id) s = .next (gone.signal q i.packet (s.knownTo i))) ∧
    ∀ r c f, s.cond? r = some c → c.pl = true → c.told = false → c.inst = some i.id → s.trapped r c = some f →
      let t := s.modCond r fun c => { c with told := true }
      let later := exec (.faultDomainAction r) s = .next (t.modInst i.id fun i => { i with owed := i.owed ++ [(f, f.entries)] })
      (i.state = .running ∨ i.state = .frozen → s.freezeDue i = false →
        exec (.faultDomainAction r) s = .next (t.actOn i.id f f.entries)) ∧
      (i.state = .running ∨ i.state = .frozen → s.freezeDue i = true → later) ∧ (i.state = .freezing → later) ∧
      (i.state = .complete ∨ i.state = .discarding ∧ i.fault.isSome = true →
        exec (.faultDomainAction r) s = .next (t.actOn i.id f f.entries))

/-- The claim instanceSteps (R58, R59, R330 to R337, R342). The claim savedInstanceIsRestored (R335, R125). The claim faultActsOnItsDomain
(R337, R369). The model's choice: log entries 12, 16, 82.
Completes, by its own effect: complete, deadlock, freeze, saveDone, resume, retire, faultDomainAction. -/
def Obligations.InstancesLiveAndEnd : Prop :=
  instanceSteps ∧ savedInstanceIsRestored ∧ faultActsOnItsDomain

/-! ### The device's own steps: layouts and tokens -/

/-- R304, R224: WINDOW_BOUNDARY rolls every counter of the instance over and takes up the new window settings. -/
def Sys2Proof.Claims.windowsRollOver : Prop :=
  ∀ (s : State) (i : Inst), s.inst? i.id = some i → s.stopped = false → i.state = .running → i.winStart + 2 ^ i.ratewin ≤ i.counted →
    ∃ t j, exec (.windowBoundary i.id) s = .next t ∧ t.inst? i.id = some j ∧
      j.winStart = i.winStart + 2 ^ i.ratewin ∧ j.winIndex = i.winIndex + 1 ∧ j.winDone = i.winDone + 1 ∧ j.ratewin = i.ratewinNext ∧
      j.clonewin = i.clonewinNext ∧ j.foldwin = i.foldwinNext ∧ s.sameBytes t ∧
      (∀ n c u, s.facet? i.id n c 0 = some u → ∃ v, t.facet? i.id n c 0 = some v ∧ v.last.firings = u.live.firings ∧
        v.last.full = u.live.full ∧ v.last.blocked = u.live.blocked ∧ v.live = {}) ∧
      ∀ n a, s.arc? i.id n = some a → t.arc? i.id n = some { a with last := a.live, live := 0 }

/-- R305, R306: the clone target of a node with `k` clones that is eligible and not pinned: the hint in force, else twice the clones and at
most 8 after CLONEWIN bottleneck windows, else half after FOLDWIN cold ones; of a KEYED node, the power of two below it, and no fewer
than it has while it runs. A pinned node's is 1. -/
def Sys2Proof.Claims.cloneTargetsFollowTheTable : Prop :=
  ∀ (i : Inst) (u : FacetUnit) (k : Nat),
    let hint := (i.ctl.hints.find? fun p => p.1 == u.node).map Prod.snd
    let hot := i.clonewin ≤ lookup i.ctl.hot 0 u.node
    let cold := i.foldwin ≤ lookup i.ctl.cold 0 u.node
    let keyed := u.cls.toNat % 4 = 2
    (keyed → u.eligible = true → i.isPinned u.node = false → u.finished = false → k ≤ State.cloneTarget i u k) ∧
    (¬keyed → i.isPinned u.node = true → State.cloneTarget i u k = 1) ∧
    (¬keyed → i.isPinned u.node = false → u.eligible = false → State.cloneTarget i u k = k) ∧
    (¬keyed → i.isPinned u.node = false → u.eligible = true →
      (∀ h, hint = some h → State.cloneTarget i u k = h) ∧
      (hint = none → hot → State.cloneTarget i u k = min 8 (2 * k)) ∧
      (hint = none → ¬hot → cold → 1 < k → State.cloneTarget i u k = max 1 (k / 2)) ∧
      (hint = none → ¬hot → (¬cold ∨ k ≤ 1) → State.cloneTarget i u k = k))

/-- R312, R315, R316: REWIRE_START begins the change found for the lowest node id. The wavefront holds the change and the nodes that it
affects, none of which has switched; SWITCH stands on every arc into the affected set, behind the tokens that its producer has emitted and
its consumer has not accepted, which of a facet that is no chain and has no merge are those of its token buffer; under SWITCH it stands on
the conductor's producer ports alone. Nothing else changes: no facet, no island, no engine, no conductor and no byte of memory. -/
def Sys2Proof.Claims.wavesBegin : Prop :=
  ∀ (s : State) (i : Inst), s.inst? i.id = some i → s.stopped = false → i.state = .running →
    (i.ctl.wave = none → s.debugged i = false → ∀ (n : Nat) (c : Change), (s.wanted i)[n]? = some (Wanted.change c) →
      (∀ m < n, ∀ d, (s.wanted i)[m]? ≠ some (Wanted.change d)) →
      exec (.rewireStart i.id) s = .next ({ s with fresh := s.fresh + 1 }.startWave i c)) ∧
    (∀ c, let t := s.startWave i c
      (∃ j w, t.inst? i.id = some j ∧ j.ctl.state = .wave ∧ j.ctl.wave = some w ∧ w.change = c ∧ w.affected = c.affected i.image ∧
        w.switched = [] ∧ j.layver = i.layver ∧ j.image = i.image) ∧
      (∀ a ∈ s.arcs, (∀ b ∈ s.arcs, b.inst = a.inst → b.idx = a.idx → b = a) →
        let enters := a.inst = i.id ∧ a.cc = false ∧ (c.affected i.image).contains a.cnode = true
        let placed := match c with
          | .switch _ => a.pc = true
          | _ => True
        (enters ∧ placed → t.arc? a.inst a.idx = some { a with switchAt := some (a.taken + s.pendingOn a) }) ∧
        (¬(enters ∧ placed) → t.arc? a.inst a.idx = some a)) ∧
      t.facets = s.facets ∧ t.islands = s.islands ∧ t.engines = s.engines ∧ t.conds = s.conds ∧ t.mem = s.mem ∧ t.spad = s.spad) ∧
    ∀ a u, s.mergeOf a.inst a.idx = none → a.pc = false → a.pport < 4 → s.facet? a.inst a.pnode 0 0 = some u → u.chain = 1 →
      s.pendingOn a = ((u.outs.getD a.pport []).filter fun e => e.mask.getLsbD (s.arcBit a)).length

/-- R316, R317: where nothing can be changed the controller waits, or is idle where nothing is asked; where a region that is being emptied
holds a node that finds no place, the queue is paused with RESIZED. -/
def Sys2Proof.Claims.rewiresWait : Prop :=
  ∀ (s : State) (i : Inst), s.inst? i.id = some i → s.stopped = false → i.state = .running → i.ctl.wave = none → s.debugged i = false →
    (∀ (n : Nat) (c : Change), (s.wanted i)[n]? ≠ some (Wanted.change c)) →
    let z := { s with fresh := s.fresh + 1 }.modCtl i.id fun k =>
      { k with state := if (∃ w ∈ s.wanted i, w matches .blocked) then .waiting else .idle }
    (z.shrinkBlocked i = false → exec (.rewireStart i.id) s = .next z) ∧
    (z.shrinkBlocked i = true → ∀ q, s.queue? i.queue = some q →
      ∃ t r, exec (.rewireStart i.id) s = .next t ∧ t.queue? i.queue = some r ∧ r.state = 2 ∧ r.cause = some .resized)

/-- R306, R307, R310, R311, R317: what a node takes. A clone set that grows gains one clone at each of the first places, with clone 0's
registers and predicates, or for a KEYED node those of the clone that its class names, and the identity of the operation in an ASSOCIATIVE
node's combined registers, and holds no token; one that shrinks keeps the clones below its new count. A fold puts node `b` on node `a`'s
facet; an undone fold puts its node at the first free place; a move puts each member of the clone on the place chosen; each of them with an
empty L1. -/
def Sys2Proof.Claims.nodesTakeTheirChange : Prop :=
  ∀ (s : State) (i : Inst) (node : Nat) (u : FacetUnit), s.facet? i.id node 0 0 = some u →
    let k := s.cloneCount i.id node
    (∀ n, k < n → s.clonesOf i.id node = List.range k → let t := s.takeChange i (.clone node n) node
      ∀ j r rank, j < n - k → (s.clonePlaces i u)[j]? = some (r, rank) →
        let keyed := u.cls.toNat % 4 = 2
        ∃ v w, s.facet? i.id node (if keyed then (k + j) % k else 0) 0 = some w ∧ t.facet? i.id node (k + j) 0 = some v ∧
          v.region = r ∧ v.rank = rank ∧ v.preds = w.preds ∧ v.slots = w.slots ∧ v.l1 = [] ∧
          v.ins = [[], [], [], []] ∧ v.outs = [[], [], [], []] ∧ v.cins = [[], []] ∧ v.couts = [[], []] ∧
          ∀ m < 16, v.regs.getD m 0 =
            if w.cls.toNat % 4 = 1 ∧ w.combmask.getLsbD m = true then combineIdentity w.combineOp else w.regs.getD m 0) ∧
    (∀ n, n < k → ∀ v ∈ (s.takeChange i (.clone node n) node).facets, v.inst = i.id → v.node = node → v.clone < n) ∧
    (∀ a v, s.facet? i.id a 0 0 = some v → (s.takeChange i (.fold a node) node).facet? i.id node 0 0 =
      some { u with region := v.region, rank := v.rank, l1 := [] }) ∧
    (∀ r rank ps, s.unfoldPlaces i u = (r, rank) :: ps → (s.takeChange i (.unfold node) node).facet? i.id node 0 0 =
      some { u with region := r, rank := rank, l1 := [] }) ∧
    ∀ clone r pos p v, s.facet? i.id node clone p = some v → v.pos = p →
      (s.takeChange i (.move node clone r pos) node).facet? i.id node clone p =
        some { v with region := r, rank := snakeRank (pos + p), l1 := [] }

/-- R312: a node that has switched stands among those switched, with each of its clones, and SWITCH stands behind the last token of every
arc from it to a node that is affected and has not switched. Once every affected node has switched, the version rises by 1, the new
configuration is the instance's, and the controller is idle. -/
def Sys2Proof.Claims.wavesPassOn : Prop :=
  ∀ (s : State) (i : Inst) (w : Wave), s.inst? i.id = some i →
    (∀ node, let t := s.passOn i w node
      (∃ j x, t.inst? i.id = some j ∧ j.ctl.wave = some x ∧ x.change = w.change ∧ x.affected = w.affected ∧
        x.switched.contains (node, 0) = true ∧ (∀ c ∈ s.clonesOf i.id node, x.switched.contains (node, c) = true) ∧
        ∀ p ∈ w.switched, x.switched.contains p = true) ∧
      (∀ a ∈ s.arcs, (∀ b ∈ s.arcs, b.inst = a.inst → b.idx = a.idx → b = a) →
        a.inst = i.id → a.pc = false → a.pnode = node → a.cc = false → w.affected.contains a.cnode = true → a.cnode ≠ node →
        w.switched.contains (a.cnode, 0) = false →
        t.arc? a.inst a.idx = some { a with switchAt := some (a.taken + s.pendingOn a) })) ∧
    (s.stopped = false → i.state = .running → i.ctl.wave = some w → (∀ n ∈ w.affected, w.switched.contains (n, 0) = true) →
      ∃ j, (s.commitWave i).inst? i.id = some j ∧ j.layver = i.layver + 1 ∧ j.ctl.wave = none ∧ j.ctl.state = .idle ∧
        j.image = match w.change with
          | .switch im => im.underLaunch i.image
          | _ => i.image)

/-- R312, R276, R277: NODE_SWITCH and ISLAND_SWITCH give a node its new configuration once SWITCH stands at every input that an arc feeds,
and send SWITCH on; a node that has finished takes it at once. An island in the midst of an accumulation, or with DATA and no weights,
raises SWITCH_ORPHAN, but for a move for repair, which takes what it holds with it. -/
def Sys2Proof.Claims.nodesSwitch : Prop :=
  ∀ (s : State) (i : Inst) (w : Wave) (node : Nat), s.inst? i.id = some i → s.stopped = false → i.state = .running →
    i.ctl.wave = some w → w.affected.contains node = true → w.switched.contains (node, 0) = false →
    (∀ e, s.engine? i.id node = some e → e.finished = false → e.idle = true → s.engineRoom e = true →
      s.fedPort i.id node 0 = true → e.ins.head?.map Token.kind = some 3 →
      exec (.nodeSwitch i.id node) s =
        .next (((s.modEngine i.id node fun v => { v with ins := v.ins.drop 1 }).takeChange i w.change node).passOn i w node)) ∧
    (∀ e, s.engine? i.id node = some e → e.finished = true →
      exec (.nodeSwitch i.id node) s = .next (((s.modEngine i.id node fun v =>
        { v with ins := v.ins.filter fun t => t.kind != 3 }).takeChange i w.change node).passOn i w node)) ∧
    (let us := s.facets.filter fun u => u.inst == i.id && u.node == node;
      s.engine? i.id node = none → us ≠ [] → s.facetSwitches w us = true →
      exec (.nodeSwitch i.id node) s = .next ((((us.foldl (fun s u => s.modFacet i.id node u.clone u.pos fun v =>
        v.popSwitches (s.fedInputs v)) s).takeChange i w.change node).restartCounts i.id node).passOn i w node)) ∧
    ∀ r isl u, s.island? r isl = some u → u.inst = i.id → u.node = node →
      let fed := (List.range 3).filter (s.fedPort i.id node)
      let repair := match w.change with
        | .repair _ => True
        | _ => False
      (u.finished = true → exec (.islandSwitch r isl) s = .next (((s.modIsland r isl fun v =>
        { v with ins := v.ins.map fun l => l.filter fun t => t.kind != 3 }).takeIsland u w.change).passOn i w node)) ∧
      (s.islandActs u = true → u.firing = none →
        (fed.all u.atSwitch = true → (repair ∨ u.orphan = none ∧ u.empty = true) →
          ((List.range 5).filter (s.hasArc i.id node)).all u.room = true →
          exec (.islandSwitch r isl) s =
            .next (((s.modIsland r isl fun v => fed.foldl IslandUnit.pop v).takeIsland u w.change).passOn i w node)) ∧
        ∀ t fired, u.orphan = some (t, fired) → ¬repair →
          exec (.islandSwitch r isl) s = .next (s.islandFault u t 0 .switchOrphan (BitVec.ofNat 64 fired)))

/-- R313, R314: a facet that is no merge node, with no slot ready and stuck between SWITCH and older tokens, raises SWITCH_ORPHAN, and the
instance freezes; a MERGE that needs a NULL where SWITCH stands raises PRED_MISMATCH. A chain is judged member by member. -/
def Sys2Proof.Claims.switchOrphansFault : Prop :=
  ∀ (s : State) (r rank : Nat) (u : FacetUnit), s.facetsAt r rank = [u] → s.takesTurns u = true → u.atRest = true →
    (u.merges = false → (∀ k, k < 16 → s.slotReady u k = false) → ∀ v, (s.chainOf u).find? s.orphaned = some v →
      exec (.switchOrphan r rank) s = .next ((s.facetFault u 0 { cause := .switchOrphan, other := s.orphanWord v }).modInst u.inst
        fun i => { i with state := .frozen, stopCause := some .switchOrphan })) ∧
    ∀ before v after k word, u.merges = true → s.chainOf u = before ++ v :: after → (∀ x ∈ before, u.mergeStuck x = none) →
      u.mergeStuck v = some (k, word) →
      exec (.switchOrphan r rank) s = .next (s.facetFault v k { cause := .predMismatch, other := word })

/-- The claim windowsRollOver (R304, R224). The claim cloneTargetsFollowTheTable (R305, R306). The claim wavesBegin (R312, R315, R316). The
claim rewiresWait (R316, R317). The claim nodesTakeTheirChange (R306, R307, R310, R311, R317). The claim wavesPassOn (R312). The claim
nodesSwitch (R312, R276, R277). The claim switchOrphansFault (R313, R314). The model's choice: log entries 37, 83, 96.
Completes, by its own effect: islandSwitch, windowBoundary, rewireStart, nodeSwitch, switchOrphan. -/
def Obligations.RewiresSpread : Prop :=
  windowsRollOver ∧ cloneTargetsFollowTheTable ∧ wavesBegin ∧ rewiresWait ∧ nodesTakeTheirChange ∧ wavesPassOn ∧ nodesSwitch ∧
    switchOrphansFault

/-- R40, R54, R56, R284, R308, R309, R400: a token leaves its arc's head when the consumer has room: into the channel of a facet that is
not cloned, through the splitter of one that is, from the ring first where it holds tokens; while neither the channel nor the ring's
turn takes it and the ring has room, into the ring, unless its mode discards it. A reorder merge passes on the token of the next deal
number, and END once every clone has ended. The oldest arrival token of a handle enters its target. The model's choice: log
entries 37, 69.
Completes, by its own effect: tokenAccept, spillRingEntry, spillRingDelivery, arrivalToken, splitterDeal, reorderMergeEmit. -/
def Obligations.TokensMoveAlongArcs : Prop :=
  ∀ (s : State) (a : ArcSt) (i : Inst), s.arc? a.inst a.idx = some a → s.inst? a.inst = some i → i.state = .running →
    s.stopped = false →
    (∀ u x f, s.clonedConsumer a = false → a.cc = false → a.cport < 4 → s.facet? a.inst a.cnode 0 0 = some u → u.chain = 1 →
      u.contain = false → (u.ins.getD a.cport []).length < 4 → x.kind < 2 → s.holdsBack a = false → ∃ s', s.pass a x f = .took s') ∧
    (∀ t, a.ring = [] → s.headOf a = some t →
      (s.clonedConsumer a = false →
        (∀ s', s.pass a (a.arrive t) false = .took s' → exec (.tokenAccept a.inst a.idx) s = .next ((s'.takeHead a).counted a t)) ∧
        (s.pass a (a.arrive t) false = .full → exec (.tokenAccept a.inst a.idx) s = .next s) ∧
        ∀ u, a.cc = false → a.cport < 4 → s.facet? a.inst a.cnode 0 0 = some u → u.chain = 1 → u.finished = false → u.halted = false →
          u.contain = false → u.ins.length = 4 → (u.ins.getD a.cport []).length < 4 → t.kind < 2 →
          u.discards a.cport (a.arrive t) = false → s.holdsBack a = false → ∃ z v, exec (.tokenAccept a.inst a.idx) s = .next z ∧ z.facet? a.inst a.cnode 0 0 = some v ∧
            v.ins.getD a.cport [] = u.ins.getD a.cport [] ++ [a.arrive t] ∧ v.regs = u.regs ∧ v.preds = u.preds) ∧
      (s.clonedConsumer a = true → t.kind ≠ 3 → s.holdsBack a = false →
        ∀ s', s.dealTo a.inst a.cnode a.cport (a.arrive t) false = .took s' →
          exec (.splitterDeal a.inst a.idx) s = .next ((s'.takeHead a).counted a t))) ∧
    (∀ t rest, a.ring = t :: rest →
      let head := s.ringToken i a t
      (∀ s', s.clonedConsumer a = false → head.1.pass a head.2 true = .took s' →
        exec (.spillRingDelivery a.inst a.idx) s = .next (s'.modArc a.inst a.idx fun x =>
          { x with ring := rest, ringAt := x.ringAt.drop 1, ringHead := (x.ringHead + 1) % x.spcap })) ∧
      ∀ p b, i.pinned.find? (fun p => p.ctx == i.ctx && p.va ≤ a.ringVa i.spillBase 0 && a.ringVa i.spillBase 0 < p.va + p.size) =
          some p → s.place (p.pa + (a.ringVa i.spillBase 0 - p.va)) = some (.hbm b) →
        head.2.payload = BitVec.ofNat 128 (Word.ofBytes (Memory.readN s.mem b 16)) ∧
        (s.poisoned b 24 = true → head.2.psn = true)) ∧
    (∀ t, s.headOf a = some t → a.sp = true → a.ring.length < a.spcap → s.channelFull a (a.arrive t) = true →
      let x := a.arrive t
      let entered := fun (s' : State) => ((s'.takeHead a).modArc a.inst a.idx fun y => { y with ring := y.ring ++ [x], ringAt := y.ringAt ++ [y.accepted] }).counted a x
      (s.ringMember a x = none → ∀ s', s.storeVa i.ctx (a.ringVa i.spillBase a.ring.length) x.bytes false i.pinned = .ok s' →
        exec (.spillRingEntry a.inst a.idx) s = .next (entered s')) ∧
      ∀ u, s.ringMember a x = some u → a.cport < 4 →
        (u.discards a.cport x = true → exec (.spillRingEntry a.inst a.idx) s = .next ((s.takeHead a).counted a x)) ∧
        (u.discards a.cport x = false →
          ∀ s', (s.modFacet a.inst a.cnode u.clone u.pos fun v => v.remember a.cport x).storeVa i.ctx
            (a.ringVa i.spillBase a.ring.length) x.bytes false i.pinned = .ok s' → exec (.spillRingEntry a.inst a.idx) s = .next (entered s'))) ∧
    (∀ node port, exec (.reorderMergeEmit a.inst node port) s =
      .next ((s.mergesAt a.inst node port).foldl State.mergeStep s)) ∧
    (∀ m, s.mergeOf m.inst m.arc = some m →
      let cs := s.clonesOf m.inst m.node
      let z := s.mergeIntake m cs
      let mask : BitVec 4 := 1#4 <<< s.mergeBit m
      let step := fun f => s.mergeStep m = z.modMerge m.inst m.arc f
      ∀ n, z.mergeOf m.inst m.arc = some n →
        (m.count ≤ 16 → n.count ≤ 16) ∧
        (∀ p, n.held.find? (fun p => p.2.deal == n.next) = some p →
          step fun m => { m with held := m.held.erase p, outq := m.outq ++ [⟨p.2, mask⟩] }) ∧
        (n.held = [] → cs.all n.ended = true → n.count < 16 →
          step fun m => { m with ends := [], outq := m.outq ++ [⟨endOfAll (m.ends.map Prod.snd), mask⟩] }) ∧
        (n.held.find? (fun p => p.2.deal == n.next) = none → ¬(n.held = [] ∧ cs.all n.ended = true) → z.pastDeal n n.next = true →
          step fun m => { m with next := m.next + 1 })) ∧
    ∀ r h x t rest, s.handle? r h = some x → x.inst = a.inst → x.arrQueue = t :: rest →
      (∀ lead s', x.arr = 1 → s.leadRegion x.inst = some lead → s.toCond lead x.atgt t = .took s' →
        exec (.arrivalToken r h) s = .next (s'.modHandle r h fun x => { x with arrQueue := rest })) ∧
      (∀ s', x.arr ≠ 1 → s.arrivalTo x.inst x.atgt x.ach t = .took s' →
        exec (.arrivalToken r h) s = .next (s'.modHandle r h fun x => { x with arrQueue := rest })) ∧
      ∀ u, x.arr ≠ 1 → (s.clonesOf x.inst x.atgt).length ≤ 1 → x.ach < 4 → s.facet? x.inst x.atgt 0 0 = some u → u.chain = 1 →
        u.contain = false → u.finished = false → u.halted = false → u.ins.length = 4 → (u.ins.getD x.ach []).length < 4 → t.kind < 2 → u.discards x.ach t = false →
        ∃ z v, exec (.arrivalToken r h) s = .next z ∧ z.facet? x.inst x.atgt 0 0 = some v ∧ v.ins.getD x.ach [] = u.ins.getD x.ach [] ++ [t]

/-- R42, R43, R47, R175, R176: while a facet can fire nothing, a NULL at every declared input is popped and a NULL goes out on every
declared output; END at every input finishes the node and goes out on every output; a STEER or MERGE slot drops its NULLs
with its control token, a MERGEU node a NULL alone; END at a steering node with tokens left over raises PRED_MISMATCH. Islands
and engine nodes do the same at their ports. When a facet takes a token up is the model's reading (log entry 28). -/
def Sys2Proof.Claims.nullAndEndAreHandled : Prop :=
  ∀ (s : State),
    (∀ r rank u, s.handlers r rank = [u] → s.facet? u.inst u.node u.clone u.pos = some u → u.ins.length = 4 → u.outs.length = 4 →
      (u.nullReady = true → ∃ z v, exec (.facetNullHandling r rank) s = .next z ∧ z.facet? u.inst u.node u.clone u.pos = some v ∧
        v.regs = u.regs ∧ v.preds = u.preds ∧ v.cins = u.cins ∧
        (∀ k : Fin 4, v.ins.getD k.val [] = if u.indecl.getLsbD k.val then (u.ins.getD k.val []).drop 1 else u.ins.getD k.val []) ∧
        ∀ o : Fin 4, (v.outs.getD o.val []).map (fun e => (e.tok.payload, e.tok.kind)) =
          (u.outs.getD o.val []).map (fun e => (e.tok.payload, e.tok.kind)) ++ if u.outdecl.getLsbD o.val then [(0, 1)] else []) ∧
      (u.pos = 0 → s.chainOf u = [u] → u.endHeads = true →
        let steering := u.program.any fun i => (steerWord i).isSome
        (u.buffersFree = true →
          (steering = false → exec (.facetEndHandling r rank) s = .next (s.handleEnd u)) ∧
          (steering = true → u.unevenEnd = false → exec (.steerMergeEnd r rank) s = .next (s.handleEnd u)) ∧
          ∃ v, (s.handleEnd u).facet? u.inst u.node u.clone 0 = some v ∧ v.finished = true ∧ v.cins = [[], []] ∧
            ∀ o : Fin 4, (v.outs.getD o.val []).map (fun e => (e.tok.payload, e.tok.side)) =
              if u.outdecl.getLsbD o.val then [(0, 2)] else []) ∧
        (steering = true → u.unevenEnd = true → ∃ k, exec (.steerMergeEnd r rank) s =
          .next (s.facetFault u k { cause := .predMismatch, other := u.leftOver }))) ∧
      (∀ i v, u.program.find? (fun i => (u.steerNull (s.facetMask u) (s.hbOf u.agent) i).isSome) = some i →
        let z := s.sees u.agent (u.steerPops i)
        u.steerNull (z.facetMask u) (z.hbOf u.agent) i = some v → (∀ l ∈ v.outs, ∀ e ∈ l, e.tok.ver = 0) →
        exec (.steerMergeNull r rank) s = .next (z.modFacet u.inst u.node u.clone u.pos fun _ => v)) ∧
      ∀ w a b, u.program.filterMap mergeuWord = [w] → w.a = .pop a → w.b = .pop b →
        (u.headKind a.val = some 1 →
          exec (.mergeuNullDiscard r rank) s =
            .next ((s.sees u.agent (u.head a.val).toList).modFacet u.inst u.node u.clone u.pos fun v => v.popIn a.val)) ∧
        (u.headKind a.val ≠ some 1 → u.headKind b.val = some 1 →
          exec (.mergeuNullDiscard r rank) s =
            .next ((s.sees u.agent (u.head b.val).toList).modFacet u.inst u.node u.clone u.pos fun v => v.popIn b.val))) ∧
    (∀ (u : FacetUnit) (w : FWord) (mask : Nat → BitVec 4) (h : AgentHB) (c : Fin 4) (p : Bool) (t : Token), w.a.channel = some (c, p) →
      u.head c.val = some t → t.kind = 1 → u.ctlHead w.c.code = true →
      u.steerNull mask h (.steer w) = some { (u.popIn c.val).popCtl w.c.code with deal := t.deal }) ∧
    (∀ r isl u, s.island? r isl = some u → s.islandActs u = true → u.outs.length = 5 →
      let fed := (List.range 3).filter (s.fedPort u.inst u.node)
      let toks := fun (v : IslandUnit) p => (v.outs.getD p []).map fun e => (e.tok.payload, e.tok.kind)
      (∀ t, u.head 0 = some t → t.kind = 1 → u.empty = true → ((List.range 4).filter (s.hasArc u.inst u.node)).all u.room = true →
        ∃ z v, exec (.islandNullHandling r isl) s = .next z ∧ z.island? r isl = some v ∧ v.ins.getD 0 [] = (u.ins.getD 0 []).drop 1 ∧
          ∀ p, p < 4 → toks v p = toks u p ++ if s.hasArc u.inst u.node p then [(0, 1)] else []) ∧
      (u.head 0 = none → ∀ t, u.head 1 = some t → t.kind = 1 →
        exec (.islandNullHandling r isl) s = .next ((s.sees u.agent [t]).modIsland r isl fun v => v.pop 1)) ∧
      (fed ≠ [] → (∀ p ∈ fed, (u.head p).map Token.kind = some 2) → u.empty = true → u.reload = none → (∀ t ∈ u.tiles, t.snap = none) →
        ((List.range 5).filter (s.hasArc u.inst u.node)).all u.room = true →
        ∃ z v, exec (.islandEndHandling r isl) s = .next z ∧ z.island? r isl = some v ∧ v.finished = true ∧
          ∀ p, p < 5 → toks v p = toks u p ++ if s.hasArc u.inst u.node p then [(0, 2)] else [])) ∧
    ∀ e t ts, s.engine? e.inst e.node = some e → e.ins = t :: ts → e.idle = true → s.running e.inst = true → s.engineRoom e = true →
      let sent := fun (x : Token) => e.outs ++ if s.hasArc e.inst e.node 0 then [⟨x, s.fullMask e.inst false e.node 0⟩] else []
      (t.kind = 1 → ∃ z v, exec (.engineNullHandling e.inst e.node) s = .next z ∧ z.engine? e.inst e.node = some v ∧ v.ins = ts ∧
        v.outs = sent (nullOf ((s.sees e.agent [t]).hbOf e.agent) t) ∧ v.finished = e.finished) ∧
      (t.kind = 2 → (∀ x ∈ e.outs, x.mask = 0) → ∃ z v, exec (.engineEndHandling e.inst e.node) s = .next z ∧
        z.engine? e.inst e.node = some v ∧ v.ins = ts ∧ v.outs = sent (endOf ((s.sees e.agent [t]).hbOf e.agent)) ∧ v.finished = true)

/-! ### The device's own steps: chains and the memory system -/

/-- R49, R50, R194, R375, R19: the members of a chain fire in turn once the leader has been chosen, each when its handle condition
holds, and the last one's firing commits the chain's; a firing that BREAK held goes on, a BRK as a NOP. Each is the one firing of its
facet in the clk. -/
def Sys2Proof.Claims.chainsFireTogether : Prop :=
  ∀ (s : State) (r rank : Nat) (v u : FacetUnit) (slot n : Nat), s.facetsAt r rank = [v] → s.mayAct r rank = true →
    (s.facet? v.inst v.node v.clone 0 = some u → u.chainFire = some (slot, n) → 1 < u.chain → s.running u.inst = true →
      v.pos = min n (u.chain - 1) → s.memberMay u v slot = true →
      (n + 1 < u.chain → exec (.chainMemberFiring r rank) s =
        .next (((s.modFacet u.inst u.node u.clone 0 fun x => { x with chainFire := some (slot, n + 1) }).modFacet
          v.inst v.node v.clone v.pos fun x => { x with firedAt := some s.clk }).didAct r rank)) ∧
      (u.chain ≤ n + 1 → ∀ i, u.instr slot = some i →
        exec (.chainMemberFiring r rank) s = .next ((fireAll i (facetEval i) slot false (s.chainOf u) s).didAct r rank))) ∧
    (v.brk = some slot → v.pos = 0 → s.running v.inst = true → v.passBreak = false → v.chainFire = none → ∀ i, v.instr slot = some i →
      ((∃ w, i = .brk w) → exec (.breakResume r rank) s = .next ((fireAll i evalNop slot false (s.chainOf v) s).didAct r rank)) ∧
      ((∀ w, i ≠ .brk w) → exec (.breakResume r rank) s =
        .next ((s.modFacet v.inst v.node v.clone v.pos fun v => { v with passBreak := true }).didAct r rank)))

/-- R92, R93: the first walk of a die ends in the entry that its region and the die then hold, with A set, and D for a store, where the page
allows the access; a walk that finds no page ends in an entry that is not valid. Nothing else in memory changes. -/
def Sys2Proof.Claims.walksEnd : Prop :=
  ∀ (s : State) (die : Nat) (w : Walk), s.walksWaiting.find? (fun w => w.die == die) = some w →
    (∀ l, s.walk w.ctx w.va.toNat = some l → ∃ t e d, exec (.tableWalk die) s = .next t ∧ t.walksWaiting = s.walksWaiting.erase w ∧
      e = { region := w.region, ctx := w.ctx, va := w.va.toNat / l.size * l.size, size := l.size, leaf := BitVec.ofNat 64 (t.num l.at_ 8) } ∧
      e ∈ t.tlb ∧ d = { die := w.die, ctx := w.ctx, va := e.va, size := e.size, leaf := e.leaf } ∧ d ∈ t.dieTlb ∧
      t.num l.at_ 8 = (if forbids l.entry w.need then l.entry else marked l.entry w.need.write) % 2 ^ 64 ∧
      (∀ b, b < l.at_ ∨ l.at_ + 8 ≤ b → Memory.read t.mem b = Memory.read s.mem b) ∧ t.conds = s.conds) ∧
    (s.walk w.ctx w.va.toNat = none → ∃ t e, exec (.tableWalk die) s = .next t ∧ t.walksWaiting = s.walksWaiting.erase w ∧ e ∈ t.tlb ∧
      e = { region := w.region, ctx := w.ctx, va := w.va.toNat / 65536 * 65536, size := 65536, leaf := 0 } ∧ t.dieTlb = s.dieTlb ∧
      s.sameBytes t)

/-- R106, R395: a multicast line joins its merge record, or opens one; the response leaves once, the line going to each streamer that joined,
whose units then deliver it; the record goes 1,024 clk later. -/
def Sys2Proof.Claims.multicastLinesMerge : Prop :=
  ∀ (s : State),
    (∀ r st c cs h a s', s.stream r st = c :: cs → s.handle? r c.handle = some h → (Desc.ofBytes c.desc).mc = true → c.mcWait = false →
      c.single = false → c.line = [] → s.running c.inst = true → s.heldBack c.behind = false → c.off < h.bytes →
      let d := Desc.ofBytes c.desc
      let same := fun (m : MergeRec) => m.line == a / 1024 && m.ctx == c.ctx && m.mask.toNat == d.mask
      s.expireRecords.engineTarget (engineActor r c.inst c.ctx (.stream r st) c.arrived) ((d.base + c.off) % 2 ^ 64) false = .ok s' (.hbm a) →
      (∀ m, s'.mergeRecs.find? same = some m →
        (m.left = none → ∃ t x xs, exec (.multicastRequest r st) s = .next t ∧
          t.mergeRecs = s'.mergeRecs.map (fun y => if same y then { y with joined := y.joined ++ [(r, st)] } else y) ∧
          t.stream r st = x :: xs ∧ x.mcWait = true) ∧
        (m.left.isSome = true → ∃ t x xs, exec (.multicastRequest r st) s = .next t ∧ t.mergeRecs = s'.mergeRecs ∧
          t.stream r st = x :: xs ∧ x.single = true)) ∧
      (s'.mergeRecs.find? same = none →
        let full := 16 ≤ (s'.mergeRecs.filter fun m => m.slice == l2Slice (a / 1024)).length
        (¬full → ∃ t m x xs, exec (.multicastRequest r st) s = .next t ∧ t.mergeRecs = s'.mergeRecs ++ [m] ∧ m.line = a / 1024 ∧
          m.ctx = c.ctx ∧ m.joined = [(r, st)] ∧ m.left = none ∧ m.opened = s'.clk ∧ t.stream r st = x :: xs ∧ x.mcWait = true) ∧
        (full → ∃ t x xs, exec (.multicastRequest r st) s = .next t ∧ t.mergeRecs = s'.mergeRecs ∧ t.stream r st = x :: xs ∧
          x.single = true))) ∧
    (∀ slice n m, s.mergeRec slice n = some m →
      (m.left = none → m.closed s.clk = true → ∃ t, exec (.multicastResponse slice n) s = .next t ∧ s.sameBytes t ∧
        t.mergeRecs = s.mergeRecs.map (fun y => if y = m then { y with left := some s.clk } else y) ∧
        (m.joined.Nodup → ∀ p ∈ m.joined, ∀ c cs, s.stream p.1 p.2 = c :: cs → c.mcWait = true → ∃ line,
          t.stream p.1 p.2 = { c with line := line, mcWait := false } :: cs ∧
          line.map Prod.fst = Memory.readN s.mem (m.line * 1024) 1024)) ∧
      ∀ k, m.left = some k → k + 1024 ≤ s.clk →
        exec (.mergeRecordExpire slice n) s = .next { s with mergeRecs := s.mergeRecs.erase m })

/-- R120, R368 to R371: a tracked access expires 256 clk after it completed; an uncorrectable error that a scrub finds in HBM poisons its 64
bytes and retires the page, one in the L2 quarantines the way; a corrected one counts. -/
def Sys2Proof.Claims.scrubsAndTrackedEntries : Prop :=
  ∀ (s : State),
    (∀ r, ∃ t, exec (.trackedEntryExpire r) s = .next t ∧ s.sameBytes t ∧
      t.tracked = s.tracked.eraseP fun p => p.1 == r && !s.inFlight p.2 && p.2.doneAt + 256 ≤ s.clk) ∧
    (∀ a, s.stopped = false → a < 2 ^ 39 →
      (s.latent.contains (a / 64 * 64) = false → exec (.hbmScrub a .clean) s = .next s ∧
        ∃ t, exec (.hbmScrub a .corrected) s = .next t ∧ t.errPf.corr = saturate16 s.errPf.corr ∧ s.sameBytes t) ∧
      ∃ t, exec (.hbmScrub a .uncorrectable) s = .next t ∧ t.poisoned (a / 64 * 64) 64 = true ∧ s.sameBytes t ∧
        (s.store.retired.length < 1024 → (a / 64 * 64 / 65536) ∈ t.store.retired)) ∧
    ∀ slice set way x, s.stopped = false → s.l2.find? (fun x => x.slice == slice && x.set == set && x.way == way) = some x → x.dirty = 0 →
      s.wayOut slice set way = false →
      (∃ t, exec (.l2Scrub slice set way .uncorrectable) s = .next t ∧ t.wayOut slice set way = true ∧ s.sameBytes t ∧
        ∀ y ∈ t.l2, ¬(y.slice = slice ∧ y.set = set ∧ y.way = way)) ∧
      (x.bad = false → ∃ t, exec (.l2Scrub slice set way .corrected) s = .next t ∧ t.errPf.corr = saturate16 s.errPf.corr ∧ s.sameBytes t)

/-- The claim chainsFireTogether (R49, R50, R194, R375, R19). The claim walksEnd (R92, R93). The claim multicastLinesMerge (R106, R395). The
claim scrubsAndTrackedEntries (R120, R368 to R371). The model's choice: log entries 31, 63, 64, 78.
Completes, by its own effect: breakResume, chainMemberFiring, tableWalk, trackedEntryExpire, multicastRequest,
multicastResponse, mergeRecordExpire, l2Scrub, hbmScrub. -/
def Obligations.ChainsAndTheMemorySystem : Prop :=
  chainsFireTogether ∧ walksEnd ∧ multicastLinesMerge ∧ scrubsAndTrackedEntries

/-! ### The device's own steps: streams and islands -/

/-- R288 to R291, R108, R109, R299, R395: a streamer moves the next unit of its running command, to the next 128-byte boundary of the slot,
into the slot or out of it, where its instance runs, its issuer's earlier stores are acknowledged and the account covers 0.5 pJ per byte; a
multicast line that it has been given goes unit by unit; a chase reads the link of the node just copied, 0 ending the walk; a streamer or
chord engine node takes the command at the head of its port as TREQ or LZSEND would, and counts one more pending. The model's choice: log entries 45, 48.
Completes, by its own effect: chaseLinkReturn, streamUnit, streamNodeCommand, chordNodePut. -/
def Obligations.StreamersMoveUnits : Prop :=
  ∀ (s : State),
    (∀ r st c cs h, s.stream r st = c :: cs → s.handle? r c.handle = some h → s.running c.inst = true →
      let d := Desc.ofBytes c.desc
      let x := engineActor r c.inst c.ctx (.stream r st) c.arrived
      (c.mcWait = false → c.linkDue = false → s.heldBack c.behind = false → d.kind < 2 → c.off < h.bytes →
        let n := c.unitLen d h.bytes
        let paid := s.debit r (500 * n)
        n = min (128 - c.off % 128) (h.bytes - c.off) ∧
        (s.affords r (500 * n) = true →
          (c.line ≠ [] → exec (.streamUnit r st) s = .next ((paid.fill r c.handle c.slot (c.line.take n)).streamOn r st
            { c with line := c.line.drop n } d h.bytes n)) ∧
          (c.line = [] → d.mc = false ∨ c.single = true →
            (∀ z us bs, c.store = false → paid.readUnit x d c n = (z, us, bs, none) →
              let y := if d.kind = 1 ∧ d.outside = true then z.modSlot r c.handle c.slot fun y => { y with oob := true } else z
              exec (.streamUnit r st) s = .next ((y.fill r c.handle c.slot bs).streamOn r st
                { c with units := us.drop (us.length - 2), single := c.single && (c.off + n) % 1024 != 0 } d h.bytes n)) ∧
            ∀ z, c.store = true →
              let p := splitDue (c.off + n ≥ h.bytes) (unitRuns (s.storePieces d h c n))
              paid.writeRuns x d.hint p.1 = (z, none) →
              exec (.streamUnit r st) s = .next (z.streamOn r st { c with due := p.2 } d h.bytes n)))) ∧
      ∀ a z bs, c.chase = some a → c.linkDue = true → s.gather x d.hint 2 ((a.toNat + d.extc) % 2 ^ 64) 8 = .all z bs →
        (∀ b ∈ bs, b.2 = false) → c.off < h.bytes →
        let v := Word.ofBytes (bs.map Prod.fst)
        exec (.chaseLinkReturn r st) s = .next (z.setHead r st (some { c with
          linkDue := false, chase := if v = 0 then none else some (BitVec.ofNat 64 (v + d.stride)), arrived := [] }))) ∧
    ∀ e i t rest, s.engine? e.inst e.node = some e → s.inst? e.inst = some i → s.running e.inst = true → e.ins = t :: rest →
      e.faulted = false → e.finished = false → t.kind = 0 → t.psn = false →
      let x : Actor := { engineActor e.region e.inst i.ctx (.node e.inst e.node) e.arrived with agent := .engine e.inst e.node }
      let p := t.payload
      let z := (s.observe (.engine e.inst e.node) t.rels).orderAfter (.engine e.inst e.node) t.before
      (∀ s', e.isChord = false → (p.getLsbD 69 = true → p.getLsbD 68 = true) →
        z.stream1 x (.node e.inst e.node) (p.extractLsb' 0 64) (Word.field p 79 72) (Word.field p 67 64) (p.getLsbD 68) (p.getLsbD 69)
          false = .status s' 0 →
        exec (.streamNodeCommand e.inst e.node) s = .next (s'.modEngine e.inst e.node fun v =>
          { v with ins := rest, arrived := [], pending := v.pending + 1 })) ∧
      ∀ s' h sl off, e.isChord = true → Word.field p 71 64 = 0 → Word.field p 127 80 = 0 →
        z.handleFor e.region (Word.field p 79 72) i.ctx = some h →
        lzsendOperand (p &&& 0xFFFFFFFFFFFFFFFF) h.slots.length = some (sl, off) →
        (z.modEngine e.inst e.node fun v => { v with ins := rest, arrived := [], pending := v.pending + 1 }).put x
          (.node e.inst e.node) e.unit h sl true 0 off h.bytes = .status s' 0 →
        exec (.chordNodePut e.inst e.node) s = .next s'

/-- R260, R262, R263, R268, R276, R368, R369: a weight reload reads and decodes the B tile and ends by freeing its slot; a firing begins with
its tile FIRING, on the route that its steering token names, and its most significant diagonal first, or raises POISON where its weights or
accumulators hold poison (the model's choice, log entry 78); its fill ends 8 clk later with A decoded and A's token popped; each diagonal
ends in turn, and the last one makes the tile ACCUM again with one more firing counted; one that a freeze has split pays its fill again
once no freeze is due; a firing that a cease took away is counted with its token popped. -/
def Sys2Proof.Claims.islandsFire : Prop :=
  ∀ (s : State) (r isl : Nat) (u : IslandUnit), s.island? r isl = some u → s.islandActs u = true → u.tiles.length = 2 →
    (∀ h sl tok, u.reload = none → u.firing = none → u.reloadDue = true → s.islandOperand u 1 = .ok h sl tok → h.fmt < 12 →
      let kb := bcfgKb u.bcfg
      let bytes := kb * 64 * elemBits h.fmt / 8
      bytes ≤ h.bytes → s.affords r (bytes * 1000) = true → ∃ z v w, exec (.weightReload r isl) s = .next z ∧ z.island? r isl = some v ∧
        v.reload = some (h.num, sl, s.clk + (kb * 64 * elemBits h.fmt + 2047) / 2048) ∧ v.weights = some w ∧ w.fmt = h.fmt ∧ w.kb = kb ∧
        w.uses = 0 ∧ w.dec = [0, 1].map (fun t => decodeB h.fmt (s.slotNumber h sl) kb (pregMb (u.tile t).preg)) ∧ s.sameBytes z) ∧
    (∀ h sl due x, u.reload = some (h, sl, due) → due ≤ s.clk → s.handle? r h = some x → sl < x.slots.length →
      (x.slot sl).state ≠ .filling → (x.slot sl).state ≠ .reserved →
      ∃ z v g, exec (.weightReloadDone r isl) s = .next z ∧ z.island? r isl = some v ∧ v.reload = none ∧
        v.ins.getD 1 [] = (u.ins.getD 1 []).drop 1 ∧ z.handle? r h = some g ∧ (g.slot sl).state = .free ∧ s.sameBytes z) ∧
    (∀ t w h sl tok dh y, u.turnTile = some t → t < 2 → u.weights = some w → u.firing = none → u.reload = none → u.reloadDue = false →
      s.islandOperand u 0 = .ok h sl tok →
      let x := u.tile t
      let steered := x.state = .empty ∧ s.fedPort u.inst u.node 2 = true
      (x.state = .empty ∨ x.state = .accum ∧ x.ceased = false) →
      (if steered then y = u.head 2 ∧ y.map Token.kind = some 0 ∧ y.map Token.psn = some false else y = none) →
      let acfg := if x.state = .empty then x.acfg else x.lAcfg
      let route := match y with
        | some tok => Word.field tok.payload 1 0
        | none => if x.state = .empty then 0 else x.route
      let e := if x.state = .empty then routeEntry x.route3 x.route4 route else x.entry
      let mb := (w.dec.getD t ⟨1, [], none, false, 0⟩).mb
      e.v = true → s.destHandle u e = some dh → (s.freeSlot dh).isSome = true → dh.fmt = pregFo x.preg →
      dh.bytes * 8 = e.nr * 64 * elemBits (pregFo x.preg) → h.fmt < 12 → acfgK acfg ≤ w.kb → aPast acfg x.awin h.fmt h.bytes = false →
      (w.spoiled = true ∨ x.state = .accum ∧ x.spoiled ≠ [] → exec (.islandFiring r isl) s = .next (s.islandFault u t 0 .poison 0)) ∧
      (w.spoiled = false → (x.state = .accum → x.spoiled = []) →
      s.affords u.region (firingCost (acfgK acfg) (pregMa x.preg) mb) = true →
      ∃ z v f, exec (.islandFiring r isl) s = .next z ∧ z.island? r isl = some v ∧ v.firing = some f ∧ f.tile = t ∧ f.k = acfgK acfg ∧
        f.ma = pregMa x.preg ∧ f.mb = mb ∧ f.d = f.ma + f.mb - 2 ∧ f.handle = h.num ∧ f.slot = sl ∧ f.filled = false ∧ f.fillAt = s.clk + 8 ∧
        (v.tile t).state = .firing ∧ (v.tile t).route = route ∧ v.ins.getD 0 [] = u.ins.getD 0 [] ∧
        v.ins.getD 2 [] = (if steered then (u.ins.getD 2 []).drop 1 else u.ins.getD 2 []) ∧ s.sameBytes z)) ∧
    (∀ f h, u.firing = some f → s.handle? r f.handle = some h → f.tile < 2 →
      let rows := (List.range 64).map fun k => decodeRun f.fmt f.ma (aRow (u.tile f.tile).lAcfg f.awin f.fmt (s.slotNumber h f.slot) k)
      ∃ v g, (s.endFill u f).island? r isl = some v ∧ v.firing = some g ∧ g.filled = true ∧ g.a = rows.map Decoded.elems ∧ g.d = f.d ∧
        v.ins.getD 0 [] = (u.ins.getD 0 []).drop 1 ∧ (v.tile f.tile).invrow = (u.tile f.tile).invrow ||| marks rows ∧
        (v.tile f.tile).dinex = ((u.tile f.tile).dinex || rows.any Decoded.changed)) ∧
    (∀ f, u.firing = some f → f.split = true →
      let due := ((s.inst? u.inst).map s.freezeDue).getD false
      (due = true → exec (.diagonalEnd r isl) s = .next s) ∧
      (due = false → s.affords r 2000000 = false → exec (.diagonalEnd r isl) s = .next s) ∧
      (due = false → s.affords r 2000000 = true → exec (.diagonalEnd r isl) s = .next ((s.debit r 2000000).modIsland r isl fun v =>
        { v with firing := some { f with split := false, due := s.clk + 8 + diagClk f.ma f.mb f.d f.k } }))) ∧
    (∀ f, u.firing = some f → f.split = false → f.filled = true → f.due ≤ s.clk → f.tile < 2 →
      let x := u.tile f.tile
      exec (.diagonalEnd r isl) s = .next (s.diagonal u f) ∧
      (x.ceased = false → x.fired + 1 < acfgNf x.lAcfg → ∃ v, (s.diagonal u f).island? r isl = some v ∧
        (v.tile f.tile).diagDone = x.diagDone + 1 ∧
        (f.d ≠ 0 → v.firing = some { f with
            d := f.d - 1, due := s.clk + diagClk f.ma f.mb (f.d - 1) f.k, split := ((s.inst? u.inst).map s.freezeDue).getD false }) ∧
        (f.d = 0 → v.firing = none ∧ (v.tile f.tile).fired = x.fired + 1 ∧ (v.tile f.tile).state = .accum))) ∧
    ∀ t h sl tok, u.turnTile = some t → t < 2 → (u.tile t).state = .accum → (u.tile t).ceased = true →
      s.islandOperand u 0 = .ok h sl tok → (u.tile t).fired + 1 < acfgNf (u.tile t).lAcfg →
      ∃ z v, exec (.skippedFiring r isl) s = .next z ∧ z.island? r isl = some v ∧ v.ins.getD 0 [] = (u.ins.getD 0 []).drop 1 ∧
        (v.tile t).fired = (u.tile t).fired + 1 ∧ (v.tile t).state = .accum ∧ s.sameBytes z

/-- R264, R265, R269, R81, R61, R368, R369: the final version owed is published into a free slot of its destination; a row is drained each clk
into that slot in the format and rounding that stand as the drain starts, the elements before a subnormal one written as its assist is
asked, those before one that holds poison as POISON is raised (the model's choice, log entry 78); once drained, the slot is FULL and the
version's token leaves, the accumulation ending with the final one; a ceased accumulation that can publish no more repeats its last token
with F and X set. -/
def Sys2Proof.Claims.versionsArePublished : Prop :=
  ∀ (s : State) (r isl t : Nat) (u : IslandUnit), s.island? r isl = some u → s.islandActs u = true → u.tiles.length = 2 → t < 2 →
    u.outs.length = 5 →
    let x := u.tile t
    (∀ h k, x.state = .final → x.owed = true → s.pubSlot u t = some (h, k) →
      ∃ z v p, exec (.publication r isl t) s = .next z ∧ z.island? r isl = some v ∧ (v.tile t).snap = some p ∧ p.busy = true ∧
        p.acc = x.acc ∧ p.ver = versionWord x.seqacc x.bexp (!x.complete) true x.diagDone ∧ p.handle = h.num ∧ p.slot = k ∧ p.row = 0 ∧
        (v.tile t).owed = false ∧ (v.tile t).published = some (BitVec.ofNat 64 (h.num + 256 * k + 4096 * t))) ∧
    (∀ p h, x.snap = some p → p.busy = true → p.row < x.entry.nr → p.rowAt < s.clk → p.col = 0 → s.affords r rowCost = true →
      s.handle? r p.handle = some h → p.slot < h.slots.length →
      let q := x.drainOf p
      let es := q.rowElems (x.entry.row0 + p.row)
      (p.row = 0 → q.fo = pregFo x.preg ∧ q.rnd = pregRnd x.preg) ∧
      let poor := fun k => p.spoiled.contains (64 * (x.entry.row0 + p.row) + k)
      let stops := fun k => poor k || (es.map Drained.subnormal).getD k false
      ((∀ k, k < 64 → stops k = false) →
        ∃ z v g, exec (.drainRow r isl t) s = .next z ∧ z.island? r isl = some v ∧
          (v.tile t).snap = some { q with row := p.row + 1, rowAt := s.clk, col := 0 } ∧ z.handle? r p.handle = some g ∧
          (g.slot p.slot).wptr = (h.slot p.slot).wptr + 64 * elemBits q.fo / 8 ∧ z.mem = s.mem) ∧
      (∀ k, k < 64 → poor k = true → (∀ j, j < k → stops j = false) →
        exec (.drainRow r isl t) s = .next (((s.debit r rowCost).drainSome r isl t q es 0 k).islandFault u t 2 .poison 0)) ∧
      ∀ k, k < 64 → poor k = false → (es.map Drained.subnormal).getD k false = true → (∀ j, j < k → stops j = false) →
        exec (.drainRow r isl t) s = .next ((((s.debit r rowCost).drainSome r isl t q es 0 k).modTile r isl t fun x =>
          { x with snap := some { q with col := k + 1 } }).islandFault u t 2 .subnormalAssist 0)) ∧
    (∀ p h, x.snap = some p → p.busy = true → x.entry.nr ≤ p.row → p.rowAt < s.clk → s.handle? r p.handle = some h →
      p.slot < h.slots.length → u.room x.entry.port = true → x.entry.port < 5 →
      ∃ z v g, exec (.versionToken r isl t) s = .next z ∧ z.island? r isl = some v ∧ z.handle? r p.handle = some g ∧
        ((h.slot p.slot).state = .filling → (g.slot p.slot).state = .full) ∧ (v.tile t).lastver = p.ver ∧
        (v.tile t).state = (if p.ver.getLsbD 5 then .empty else x.state) ∧
        (v.outs.getD x.entry.port []).map (fun e => (e.tok.payload, e.tok.ver)) =
          (u.outs.getD x.entry.port []).map (fun e => (e.tok.payload, e.tok.ver)) ++
            [((BitVec.ofNat 64 (p.handle + 256 * p.slot + 4096 * t)).zeroExtend 128, p.ver)] ∧ s.sameBytes z) ∧
    (x.state = .final → x.repeats = true → x.snapFree = true → u.room x.entry.port = true → x.entry.port < 5 →
      ∃ z v, exec (.finalRepeatToken r isl t) s = .next z ∧ z.island? r isl = some v ∧ (v.tile t).state = .empty ∧
        (v.outs.getD x.entry.port []).map (fun e => (e.tok.payload, e.tok.ver)) =
          (u.outs.getD x.entry.port []).map (fun e => (e.tok.payload, e.tok.ver)) ++
            [((x.published.getD 0).zeroExtend 128, x.lastver ||| 0x60)] ∧ s.sameBytes z)

/-- The claim islandsFire (R260, R262, R263, R268, R276, R368, R369). The claim versionsArePublished (R264, R265, R269, R81, R61, R368, R369).
The model's choice: log entries 49, 51, 78.
Completes, by its own effect: islandFiring, diagonalEnd, skippedFiring, weightReload, weightReloadDone, publication, drainRow,
versionToken, finalRepeatToken. -/
def Obligations.IslandsFireAndPublish : Prop :=
  islandsFire ∧ versionsArePublished

/-- R266, R268, R269, R274, R275, R366: a cease marks the accumulation of its SEQ, is forwarded once by a facet on every versioned input arc,
and goes at a streamer, a chord engine or a conductor port; SETTLED is reported when the verdict of a level turns true with a
version emitted since the last, and counted; a contained island is run again, and one that disagrees again is out of use. -/
def Sys2Proof.Claims.ceasesAndSettling : Prop :=
  ∀ (s : State) (n : Nat),
    (∀ c a, s.ceaseAt n = some (c, a) → s.running c.inst = true →
      (∀ u, a.pc = false → s.islands.find? (fun u => !a.pc && u.inst == a.inst && u.node == a.pnode) = some u → c.poison = false →
        u.diagAt ≠ some s.clk →
        let mine := fun t => (u.tile t).state != .empty && (u.tile t).seqacc == c.seq && !(u.tile t).ceased
        ([0, 1].find? mine = none → exec (.ceaseAtIsland n) s = .next (s.dropCease n)) ∧
        ∀ t, [0, 1].find? mine = some t → (u.tile t).owed = false →
          exec (.ceaseAtIsland n) s = .next ((s.dropCease n).modTile u.region u.isl t fun x => { x with ceased := true })) ∧
      (∀ u, a.pc = false → s.facet? a.inst a.pnode 0 0 = some u →
        (u.ceases.contains c.seq = true → exec (.ceaseAtFacet n) s = .next (s.dropCease n)) ∧
        (u.ceases.contains c.seq = false → ∃ z v, exec (.ceaseAtFacet n) s = .next z ∧ z.facet? a.inst a.pnode 0 0 = some v ∧
          v.ceases = u.ceases ++ [c.seq] ∧ z.ceases = s.ceases.eraseIdx n ++ (List.range 6).filterMap fun k =>
            match s.arcInto a.inst false a.pnode k with
            | some b => if b.vs = true then some { inst := b.inst, arc := b.idx, seq := c.seq, poison := c.poison } else none
            | none => none)) ∧
      (a.pc = true ∨ (s.engine? a.inst a.pnode).isSome = true → exec (.ceaseDiscard n) s = .next (s.dropCease n))) ∧
    (∀ i, s.inst? i.id = some i → s.running i.id = true → i.settledNow.contains n = false → n < i.image.levels.length →
      s.isSettled i n = true →
      (i.versSince.contains n = false → ∃ z j, exec (.settled i.id n) s = .next z ∧ z.inst? i.id = some j ∧
        j.settledNow = i.settledNow ++ [n] ∧ j.settledCount = i.settledCount ∧ z.islands = s.islands) ∧
      (i.versSince.contains n = true → (∀ u ∈ s.islands, u.setWait = none) → ∃ z j, exec (.settled i.id n) s = .next z ∧
        z.inst? i.id = some j ∧ lookup j.settledCount 0 n = lookup i.settledCount 0 n + 1 ∧ j.versSince.contains n = false ∧ s.sameBytes z)) ∧
    ∀ r isl u i agree, s.island? r isl = some u → s.inst? u.inst = some i → s.running u.inst = true → u.contain = true → u.broken = false →
      (agree = true → (recentErrors s.clk u.errTimes).length < 3 → (∀ f, u.firing = some f → f.rerun = false) →
        ∃ z v, exec (.islandRerun r isl agree) s = .next z ∧
        z.island? r isl = some v ∧ v.contain = false ∧ v.broken = false ∧ v.tiles = u.tiles) ∧
      (agree = false → ∃ z v, exec (.islandRerun r isl agree) s = .next z ∧ z.island? r isl = some v ∧ v.broken = true ∧
        isl ∈ (z.repairOf r).deadIslands)

/-- The claim nullAndEndAreHandled (R42, R43, R47, R175, R176). The claim ceasesAndSettling (R266, R268, R269, R274, R275,
R366). The model's choice: log entries 28, 30, 52, 65, 76.
Completes, by its own effect: facetNullHandling, facetEndHandling, islandNullHandling, islandEndHandling, engineNullHandling,
engineEndHandling, steerMergeNull, mergeuNullDiscard, steerMergeEnd, ceaseAtIsland, ceaseAtFacet, ceaseDiscard, settled,
islandRerun. -/
def Obligations.CeasesNullAndEnd : Prop :=
  nullAndEndAreHandled ∧ ceasesAndSettling

/-! ### The device's own steps: chords and links -/

/-- R354 to R358, R299, R300: a chord engine sends the next packet of a put that can send; an acknowledgement raises ACKED, and ends the
put at its last byte or where the receiver refused; 5 µs after its port went down a put goes on from ACKED on the next port
that is up, or is quiet anew where that one went down in this clk; LZTIMEOUT after the last port went down it ends as LINK_FAIL; a put shows itself
where for 1 µs nothing has gone, and nothing can go, to its receiver. -/
def Sys2Proof.Claims.putsAreSent : Prop :=
  ∀ (s : State) (eng : Nat) (p : Put), p ∈ (s.chord eng).puts →
    (∀ q h, ((s.chord eng).puts.filter fun p => s.running p.inst) = [p] → s.canSend p = true → p.port = some q →
      p.lzsend = true → s.handle? p.region p.handle = some h → p.fin < 2 ^ 32 →
      let n := min 128 (p.fin - p.next)
      s.affords p.region (1000 * n) = true → ∃ t f, exec (.putPacketSend eng) s = .next t ∧ t.left = s.left ++ [(p.kind, q, f)] ∧ f.typ = 7 ∧ f.ztag = p.ztag ∧
        f.off = p.next ∧ f.txid = BitVec.ofNat 16 p.id ∧ f.payload = (s.slotBytes h p.slot p.next n).map Prod.fst ∧
        (∃ x ∈ (t.chord eng).puts, x.id = p.id ∧ x.next = p.next + n) ∧ s.sameBytes t) ∧
    (∀ f, s.putOf f.txid = some (eng, p) →
      let z := s.hear f.sender
      (f.attr = 0 → f.off ≤ p.acked → p.acked ≤ f.off + 128 →
        (p.fin ≤ f.off + 128 → p.acked ≤ p.fin → exec (.putack f) s = .next (z.endPut eng { p with acked := p.fin } 0)) ∧
        (f.off + 128 < p.fin → exec (.putack f) s = .next ((z.modPut eng p.id fun _ => { p with acked := f.off + 128 }).modRec p.region
          p.handle p.slot fun y => { y with status := chordStatus (f.off + 128) (revCnt y.status) 0 1 }))) ∧
      (f.attr = 4 → exec (.putack f) s =
        .next (({ z with handles := z.handles.map fun (h : Handle) => { h with recs := h.recs.map (PeerRec.dropped f) } } : State).endPut eng p 2)) ∧
      (f.attr ≠ 0 → f.attr ≠ 4 → exec (.putack f) s = .next (z.endPut eng p 3))) ∧
    ((s.chord eng).puts.find? (fun x => x.id == p.id) = some p →
      (∀ t q, p.quietAt = some t → s.running p.inst = true → p.expired (s.countedOf p.inst) = false →
        let z := s.moveRequest p.id
        (∀ o, p.port = some o → t + 5000 ≤ s.countedOf p.inst ∧ z.nextChosen p.route o = some q) →
        (p.port = none → z.firstPort p.route = some q) →
        let onward := fun (y : Put) => ({ y with port := some q, next := y.acked } : Put)
        exec (.quietPeriodEnd eng p.id) s = .next (z.modPut eng p.id fun (y : Put) =>
          if z.portUp y.kind q then ({ onward y with quietAt := none, failAt := none } : Put)
          else ({ onward y with quietAt := some (s.countedOf p.inst) } : Put))) ∧
      (s.running p.inst = true → p.expired (s.countedOf p.inst) = true → exec (.linkFail eng p.id) s = .next (s.endPut eng p 1)) ∧
      ∀ q, p.port = some q → s.stopped = false → s.portUp p.kind q = true →
        (∀ x ∈ s.toReceiver p, s.canSend x = false ∧ x.keepAt + 1000 ≤ s.clk) → ∃ t f x, exec (.keep eng p.id) s = .next t ∧ t.left = s.left ++ [(p.kind, q, f)] ∧ f.typ = 14 ∧
          (t.chord eng).puts.find? (fun x => x.id == p.id) = some x ∧ x.keepAt = s.clk ∧ x.next = p.next) ∧
    ∀ h c, s.handle? p.region p.handle = some h → p.slot < h.recs.length → c < 16 → p.acked < 2 ^ 32 → ∃ g, (s.endPut eng p c).handle? p.region p.handle = some g ∧
      Word.field (g.record p.slot).status 1 0 = 2 ∧ Word.field (g.record p.slot).status 7 4 = c ∧
      Word.field (g.record p.slot).status 63 32 = p.acked ∧ ∀ x ∈ ((s.endPut eng p c).chord eng).puts, x.id ≠ p.id

/-- R298, R299, R302, R356, R300, R286: a reservation of a slot that counts as FREE is granted and the slot RESERVED for its sender, else it
is answered DENIED or BUSY; one that would have won over a grant of the same clk is met in the next, and one sent again is granted again
(the model's reading, log entry 86); a packet under the slot's tag that leaves no gap is delivered behind the write pointer, its bytes below
it discarded, and acknowledged, and one for a frozen instance is held; a release frees the slot, an ABORTED one too, or at the kill of the
sender aborts it with a new GEN; the answer to a reservation fills its record, and none within LZTIMEOUT is UNREACHABLE; a slot whose port
has failed, or whose sender has been silent for 3 µs, is aborted LZTIMEOUT later. -/
def Sys2Proof.Claims.landingZonesReceive : Prop :=
  ∀ (s : State) (f : Flit),
    let z := s.hear f.sender
    let sl := f.slot
    (∀ h, s.handle? f.region f.handle = some h → sl < h.slots.length →
      (h.rw = false ∨ h.peer ≠ f.ctx → exec (.reservationRequest f) s = .next (z.reply f 10 0 0 2)) ∧
      (h.rw = true → h.peer = f.ctx → (h.slot sl).state = .reserved → (h.slot sl).holder = some (f.sender, f.ctx) →
        (h.slot sl).grant.2 = f.txid → exec (.reservationRequest f) s = .next (z.reply f 10 h.bytes (h.ctx ++ (h.slot sl).gen) 0)) ∧
      (h.rw = true → h.peer = f.ctx → (h.slot sl).repeats f = false → (h.slot sl).granted s.clk f = true →
        exec (.reservationRequest f) s = .next (z.nextClk (.reservationRequest f))) ∧
      (∀ dev ctx, (h.slot sl).state = .reserved → (h.slot sl).metAt = some s.clk → (h.slot sl).holder = some (dev, ctx) →
        ((h.slot sl).granted s.clk f = true ↔ f.sender < dev ∨ f.sender = dev ∧ f.attr.toNat < (h.slot sl).grant.1)) ∧
      (h.rw = true → h.peer = f.ctx → (h.slot sl).repeats f = false → (h.slot sl).granted s.clk f = false →
        z.isFree (h.slot sl) = false → exec (.reservationRequest f) s = .next (z.reply f 10 0 0 3)) ∧
      (h.rw = true → h.peer = f.ctx → z.isFree (h.slot sl) = true → ∃ (t : State) (g : Handle), exec (.reservationRequest f) s =
        .next (t.reply f 10 h.bytes (h.ctx ++ (h.slot sl).gen) 0) ∧ t.handle? f.region f.handle = some g ∧ (g.slot sl).state = .reserved ∧
        (g.slot sl).holder = some (f.sender, f.ctx) ∧ (g.slot sl).grant = (f.attr.toNat, f.txid) ∧ (g.slot sl).gen = (h.slot sl).gen ∧
        s.sameBytes t)) ∧
    (∀ k p h, z.landing f = some h → s.handle? h.region h.num = some h → sl < h.slots.length → h.ztag sl = f.ztag →
      (h.slot sl).seenFail = none →
      let x := h.slot sl
      (s.running h.inst = false → exec (.putPacket f k p) s = .next (z.nextClk (.putPacket f k p))) ∧
      (s.running h.inst = true → x.heldBy f = false ∨ x.state ≠ .reserved ∧ x.state ≠ .filling ∨ x.wptr < f.off →
        exec (.putPacket f k p) s = .next (z.ackPut f k p 5)) ∧
      (s.running h.inst = true → x.heldBy f = true → x.state = .reserved ∨ x.state = .filling → f.off ≤ x.wptr →
        let upto := max x.wptr (f.off + f.payload.length)
        ∃ (t : State) (g : Handle), exec (.putPacket f k p) s = .next (t.ackPut f k p 0) ∧ t.handle? h.region h.num = some g ∧
          (g.slot sl).lastPort = some (k, p) ∧ (g.slot sl).wptr = min upto (max x.wptr h.bytes) ∧ t.mem = s.mem ∧
          (upto < h.bytes → (g.slot sl).state = .filling) ∧
          (x.wptr < h.bytes → h.bytes ≤ upto → (g.slot sl).state = .full) ∧
          ∀ j, x.wptr ≤ j → j < upto → j < h.bytes → Memory.read t.spad (h.key sl + j) = f.payload.getD (j - f.off) 0)) ∧
    (∀ k p, z.landing f = none → exec (.putPacket f k p) s = .next (z.ackPut f k p 4)) ∧
    (∀ h, z.landing f = some h → s.handle? h.region h.num = some h → sl < h.slots.length → h.ztag sl = f.ztag →
      (h.slot sl).heldBy f = true →
      ((h.slot sl).metAt = some s.clk → exec (.releaseRequest f) s = .next (z.nextClk (.releaseRequest f))) ∧
      ((h.slot sl).metAt ≠ some s.clk → (h.slot sl).state = .reserved ∨ (h.slot sl).state = .filling ∨ (h.slot sl).state = .aborted →
        ∃ t g, exec (.releaseRequest f) s = .next t ∧ t.handle? h.region h.num = some g ∧
          (f.attr = 1 → (g.slot sl).state = .aborted ∧
            (g.slot sl).gen = if (h.slot sl).state = .aborted then (h.slot sl).gen else (h.slot sl).gen + 1) ∧
          (f.attr ≠ 1 → (g.slot sl).state = .free ∧ (g.slot sl).gen = (h.slot sl).gen + 1 ∧ (g.slot sl).holder = none))) ∧
    (∀ v h, s.resvs.find? (fun v => BitVec.ofNat 16 v.tx == f.txid && (v.answer.isNone || v.late)) = some v → v.late = false →
      s.handle? v.region v.handle = some h →
      v.slot < h.recs.length →
      (f.attr = 0 → ∃ t g, exec (.reservationAnswer f) s = .next t ∧ t.handle? v.region v.handle = some g ∧ (g.record v.slot).valid = true ∧
        (g.record v.slot).target = v.target ∧ (g.record v.slot).ztag = f.ztag ∧ (g.record v.slot).rbytes = f.off ∧
        ∃ y ∈ t.resvs, y.tx = v.tx ∧ y.answer = some (answerWord f.ztag f.off 0)) ∧
      (f.attr ≠ 0 → v.issuer ≠ .hub → ∃ t, exec (.reservationAnswer f) s = .next t ∧ t.handles = s.handles ∧
        ∃ y ∈ t.resvs, y.tx = v.tx ∧ y.answer = some (answerWord 0 0 (if f.attr = 3 then 1 else 2))) ∧
      (f.attr ≠ 0 → v.issuer = .hub → ∃ t, exec (.reservationAnswer f) s = .next t ∧ t.handles = s.handles ∧ ∀ y ∈ t.resvs, y.tx ≠ v.tx)) ∧
    (∀ v, s.resvs.find? (fun y => y.tx == v.tx) = some v → v.answer = none → v.counted + 1000 * v.timeout ≤ s.countedOf v.inst →
      ∃ t, exec (.reservationTimeout v.tx) s = .next t ∧ t.handles = s.handles ∧ ∃ y ∈ t.resvs, y.tx = v.tx ∧
        y.answer = some (answerWord 0 0 3) ∧ y.late = true) ∧
    ∀ r n k y, s.handle? r n = some y → k < y.slots.length → (y.slot k).state = .filling →
      (∀ j q, (y.slot k).lastPort = some (j, q) → (y.slot k).seenFail = none →
        s.portUp j q = false ∨ (∃ dev ctx, (y.slot k).holder = some (dev, ctx) ∧ lookup s.heard 0 dev + 3000 ≤ s.clk) →
        ∃ t g, exec (.failureSeen r n k) s = .next t ∧ t.handle? r n = some g ∧ (g.slot k).seenFail = some (s.countedOf y.inst) ∧
          (g.slot k).state = .filling) ∧
      ∀ i t, s.inst? y.inst = some i → s.running y.inst = true → (y.slot k).seenFail = some t → t + 1000 * i.lztimeout ≤ i.counted →
        ∃ z g, exec (.slotAbort r n k) s = .next z ∧ z.handle? r n = some g ∧ (g.slot k).state = .aborted ∧ (g.slot k).wptr = (y.slot k).wptr

/-- R299, R301: a packet acknowledged as revoked raises the count of the record under whose target and tag it was sent, also once its put has
ended, by 1 and to 255 at most; no other record changes. -/
def Sys2Proof.Claims.revokedPacketsAreCounted : Prop :=
  ∀ (f : Flit) (y : PeerRec),
    let mine := y.ztag = f.ztag ∧ routeKind y.route = f.net ∧ Word.field y.target 27 0 = f.src.toNat + 256 * Word.field f.addr 19 0
    (mine → Word.field (y.dropped f).status 23 16 = min 255 (Word.field y.status 23 16 + 1) ∧
      Word.field (y.dropped f).status 63 24 = Word.field y.status 63 24 ∧ Word.field (y.dropped f).status 15 0 = Word.field y.status 15 0) ∧
    (¬mine → y.dropped f = y) ∧
    ∀ s : State, f.attr = 4 → (s.hear f.sender).putOf f.txid = none → ∃ t, exec (.putack f) s = .next t ∧
      t.handles = s.handles.map fun h => { h with recs := h.recs.map (PeerRec.dropped f) }

/-- R302, R353: a grant that comes after its reservation was given up is released at once, by the route that the table then gives: the
transaction stands among those outstanding, under the tag granted. -/
def Sys2Proof.Claims.lateGrantsAreReleased : Prop :=
  ∀ (s : State) (f : Flit) (v : Resv), s.resvs.find? (fun v => BitVec.ofNat 16 v.tx == f.txid && (v.answer.isNone || v.late)) = some v →
    v.late = true → f.attr = 0 →
    let z := s.hear f.sender
    let kept := z.resvs.filterMap fun y =>
      if y.tx = v.tx then (if y.issuer == .engine 0 then none else some { y with late := false }) else some y
    ∀ w e, { z with resvs := kept }.routeAnew v.inst f.ctx (Word.field v.target 39 36) v.route = (w, some e) →
      ∃ t x, exec (.reservationAnswer f) s = .next t ∧ x ∈ t.txns ∧ x.flit.typ = 11 ∧ x.flit.ztag = f.ztag ∧ x.flit.attr = 0 ∧
        x.flit.addr = BitVec.ofNat 64 (Word.field v.target 27 8) ∧ x.route = some e

/-- The claim putsAreSent (R354 to R358, R299, R300). The claim landingZonesReceive (R298, R299, R302, R356, R300, R286). The claim
revokedPacketsAreCounted (R299, R301). The claim lateGrantsAreReleased (R302, R353). The model's choice: log entries 13, 32, 56, 65, 86.
Completes, by its own effect: reservationRequest, reservationAnswer, reservationTimeout, putPacketSend, putPacket, putack,
releaseRequest, quietPeriodEnd, linkFail, failureSeen, slotAbort, keep. -/
def Obligations.PutsAndLandingZones : Prop :=
  putsAreSent ∧ landingZonesReceive ∧ revokedPacketsAreCounted ∧ lateGrantsAreReleased

/-- R344, R345, R382, R391: a port that is enabled trains, but for a scale-out port while ETHERTYPE is 0 and a port that the boot holds; it is UP with 8 lanes, DEGRADED with 4 to 7 on a scale-up port, and DOWN after 100 ms; a lane
that fails takes the spare, then 4 lanes, then the port; a port declared down holds no lane and counts, and trains again
after 1 ms; silence of 1 µs, or one flit replayed 32 times, takes it down; disabled, it is DISABLED. -/
def Sys2Proof.Claims.portsTrainAndFail : Prop :=
  ∀ (s : State) (k : PortKind) (p : Nat), s.stopped = false → p < (match k with
      | .scaleUp => s.sup.length
      | .scaleOut => s.sop.length) →
    let x := s.port k p
    let now := fun (i : Instr) (st lanes : Nat) => ∃ t, exec i s = .next t ∧ (t.port k p).state = st ∧ (t.port k p).lanes = lanes ∧ s.sameBytes t
    let ready := k = .scaleUp ∨ Word.field s.regs.socfg 15 0 ≠ 0
    (x.en = false → x.held = false → ready → ∃ t, exec (.portEnable k p) s = .next t ∧ (t.port k p).state = 1 ∧ (t.port k p).en = true ∧
      (t.port k p).since = s.clk ∧ t.conds = s.conds) ∧
    (¬ready ∨ x.held = true → exec (.portEnable k p) s = .next s) ∧
    (x.en = true → ∃ t, exec (.portDisable k p) s = .next t ∧ (t.port k p).state = 0 ∧ (t.port k p).en = false ∧ (t.port k p).lanes = 0) ∧
    (∀ peer, x.state = 1 → s.clk < x.since + 100000000 → now (.trainingSuccess k p 8 peer) 2 8 ∧
      ∀ n, 4 ≤ n → n < 8 → k = .scaleUp → now (.trainingSuccess k p n peer) 3 4) ∧
    (x.state = 1 → x.since + 100000000 ≤ s.clk → now (.trainingTimeout k p) 4 x.lanes) ∧
    (x.state = 4 → x.en = true → x.since + 1000000 ≤ s.clk → now (.downRetry k p) 1 x.lanes) ∧
    (s.portUp k p = true → (s.portDown k p).port k p = { x with
        state := 4, since := s.clk, downAt := s.clk, lanes := 0, unacked := [], rxBad := 0, downs := saturate16 x.downs } ∧
      (x.lastRx + 1000 ≤ s.clk → exec (.receiveTimeout k p) s = .next (s.portDown k p)) ∧
      (32 ≤ x.replays ∨ 32 ≤ x.rxBad → exec (.replayLimit k p) s = .next (s.portDown k p)) ∧
      ∀ lane, lane < 8 →
        (k = .scaleOut → exec (.laneFailure k p lane) s = .next (s.portDown k p)) ∧
        (k = .scaleUp → x.spare = 0xF → ∃ t, exec (.laneFailure k p lane) s = .next t ∧ (t.port k p).spare = BitVec.ofNat 4 lane ∧
          (t.port k p).state = x.state) ∧
        (k = .scaleUp → x.spare ≠ 0xF → 4 < x.good → now (.laneFailure k p lane) 3 4) ∧
        (k = .scaleUp → x.spare ≠ 0xF → x.good ≤ 4 → exec (.laneFailure k p lane) s = .next (s.portDown k p)))

/-- R346: a flit leaves a scale-up port as 256 bytes whose fields, read back, are the flit's, under the link sequence number next in turn and
the last one received in good order, with a CRC that holds. -/
def Sys2Proof.Claims.flitsAreLaidOut : Prop :=
  (∀ (f : Flit) (seq ack : Nat), f.net = .scaleUp → f.typ < 256 → f.payload.length ≤ 192 → seq < 2 ^ 32 → ack < 2 ^ 32 →
    (f.typ = 3 ∧ f.attr.toNat = f.payload.length ∨ f.typ ≠ 3 ∧ f.payload.length % 16 = 0) →
    let raw := flitBytes f seq ack
    raw.length = 256 ∧ crcOk raw = true ∧ flitOf raw = f ∧ fieldAt raw 0xE0 4 = seq ∧ fieldAt raw 0xE4 4 = ack) ∧
  ∀ (s : State) (p : Nat) (f : Flit), p < s.sup.length →
    let n := ((s.port .scaleUp p).txSeq + 1) % 2 ^ 32
    ∃ m, (s.send .scaleUp p f).outbox = s.outbox ++ [m] ∧ m.bytes = flitBytes f n (s.port .scaleUp p).rxSeq ∧
      ((s.send .scaleUp p f).port .scaleUp p).txSeq = n ∧
      ((s.send .scaleUp p f).port .scaleUp p).unacked = (s.port .scaleUp p).unacked ++ [m]

/-- R346, R347, R344: a flit received whose CRC fails is asked for again; one that is not the next in order is left to the replay (the
model's reading, log entry 87); what the sender has received is no longer kept; one of a reserved TYPE, a PUT over 128 bytes and one for
another device are discarded, and any other is acted on next. Link-level retry sends all that is not acknowledged again, in order. The flits
of a frame not seen before are acted on; an unacknowledged frame is sent again after 8 µs, and after 8 resends its port is down. -/
def Sys2Proof.Claims.flitsAreReceived : Prop :=
  ∀ (s : State), s.stopped = false →
    (∀ p raw, s.portUp .scaleUp p = true → p < s.sup.length →
      let x := s.port .scaleUp p
      let f := flitOf raw
      let ordered := fieldAt raw 0xE0 4 = (x.rxSeq + 1) % 2 ^ 32
      let wrong := 15 ≤ f.typ ∨ f.typ = 7 ∧ 128 < f.payload.length ∨ f.dst ≠ s.devId
      ∃ t, exec (.flitReceive p raw) s = .next t ∧ s.sameBytes t ∧
        let y := t.port .scaleUp p
        y.lastRx = s.clk ∧
        (crcOk raw = false → y.rxBad = x.rxBad + 1 ∧ y.retry = saturate16 x.retry ∧ y.unacked = x.unacked ∧ t.agenda = s.agenda) ∧
        (crcOk raw = true → y.rxBad = 0 ∧ y.unacked = x.unacked.filter (fun m => seqAfter m.seq (fieldAt raw 0xE4 4)) ∧
          (¬ordered → t.agenda = s.agenda ∧ y.rxSeq = x.rxSeq) ∧
          (ordered → y.rxSeq = fieldAt raw 0xE0 4) ∧
          (ordered → wrong → t.agenda = s.agenda ∧ y.discarded = x.discarded + 1) ∧
          (ordered → ¬wrong → ∀ i, flitStep .scaleUp p f = some i → t.agenda = .event i :: s.agenda))) ∧
    (∀ p, s.portUp .scaleUp p = true → p < s.sup.length →
      let x := s.port .scaleUp p
      let again := x.unacked.map fun m => { m with ack := x.rxSeq, tries := m.tries + 1 }
      (s.relink p).outbox = s.outbox ++ again ∧ ((s.relink p).port .scaleUp p).unacked = again ∧
        ((s.relink p).port .scaleUp p).retry.toNat = min 65535 (x.retry.toNat + x.unacked.length)) ∧
    (∀ p peer raw, s.portUp .scaleOut p = true → p < s.sop.length → Word.bit (lookup s.regs.sopeer 0 peer) 63 = true →
      fieldAt raw 8 1 = 1 → raw.length = 272 →
      let f := { flitOf (raw.drop 16) with net := .scaleOut }
      let fresh := seqAfter (fieldAt raw 0 4) (lookup s.peers {} peer).pack = true ∧
        (lookup s.peers {} peer).ahead.contains (fieldAt raw 0 4) = false
      ∃ t, exec (.frameReceive p peer raw) s = .next t ∧ s.sameBytes t ∧
        (crcOk (raw.drop 16) = false → t.agenda = s.agenda ∧ (t.port .scaleOut p).discarded = (s.port .scaleOut p).discarded + 1) ∧
        (crcOk (raw.drop 16) = true → ¬fresh → t.agenda = s.agenda) ∧
        (crcOk (raw.drop 16) = true → fresh → 6 < f.typ → f.typ < 15 → (f.typ = 7 → f.payload.length ≤ 128) →
          (∀ n, s.ownPeer = some n → f.dst.toNat = n) → ∀ i, flitStep .scaleOut p f = some i → t.agenda = .event i :: s.agenda)) ∧
    (∀ peer n f, (lookup s.peers {} peer).unacked.find? (fun f => f.pseq == n) = some f → s.portUp .scaleOut f.port = true →
      f.sentAt + 8000 ≤ s.clk →
      (f.resends < 8 → ∃ t, exec (.frameResend peer n) s = .next t ∧ t.left = s.left ++ [(.scaleOut, f.port, f.flit)] ∧
        ∃ g ∈ (lookup t.peers {} peer).unacked, g.pseq = n ∧ g.sentAt = s.clk) ∧
      (8 ≤ f.resends → exec (.frameResend peer n) s = .next (s.portDown .scaleOut f.port)))

/-- R86, R127, R349, R350, R355: a load, a store and an atomic of another device are performed here and answered; the answer to one of this
device's reaches whoever asked; what is unanswered goes out again on the next port of DOMRT 5 µs after its port went down, what found no
port once there is one, and fails after 1 ms; an answer that finds no port waits for one. -/
def Sys2Proof.Claims.remoteAccessesAreServed : Prop :=
  ∀ (s : State), s.stopped = false →
    (∀ (f : Flit) p a, s.localPlace (f.addr.toNat % 2 ^ 44) = some (.hbm a) →
      (f.typ = 1 → 0 < f.attr.toNat → f.attr.toNat ≤ 192 → ∃ t g, exec (.remoteRequest f p) s = .next t ∧
        t.left = s.left ++ [(.scaleUp, p, g)] ∧ g.typ = 2 ∧ g.attr = 0 ∧ g.txid = f.txid ∧ g.dst = f.src ∧
        g.payload = Memory.readN s.mem a f.attr.toNat ∧ s.sameBytes t) ∧
      (s.performed = [] →
        (f.typ = 3 → f.attr.getLsbD 16 = false → s.placeToWrite (s.devId.toNat * 2 ^ 44 + f.addr.toNat % 2 ^ 44) = some (.hbm a) → ∃ t g, exec (.remoteRequest f p) s = .next t ∧ t.left = s.left ++ [(.scaleUp, p, g)] ∧ g.typ = 4 ∧ g.attr = 0 ∧
          g.txid = f.txid ∧ (∀ k, k < f.payload.length → Memory.read t.mem (a + k) = f.payload.getD k 0) ∧
          ∀ b, b < a ∨ a + f.payload.length ≤ b → Memory.read t.mem b = Memory.read s.mem b) ∧
        (f.typ = 5 → f.attr.getLsbD 4 = true → f.attr.toNat % 16 = 0 → a % 8 = 0 → s.poisoned a 8 = false → ∃ t g,
          exec (.remoteRequest f p) s = .next t ∧ t.left = s.left ++ [(.scaleUp, p, g)] ∧ g.typ = 6 ∧ g.attr = 0 ∧
          g.payload = Memory.readN s.mem a 8 ∧ t.num a 8 = (s.num a 8 + fieldAt f.payload 0 8) % 2 ^ 64))) ∧
    (∀ (f : Flit) x, s.txns.find? (fun t => t.isAccess && t.flit.txid == f.txid && t.flit.dst == f.src &&
        (f.typ == t.flit.typ + 1 || f.typ == 13)) = some x → x.returns = true → x.flit.typ = 1 → f.attr = 0 → f.typ = 2 →
      exec (.remoteResponse f) s = .next (((s.hear f.sender).endTxn x).answered x
        { addr := x.flit.dst.toNat * 2 ^ 44 + x.flit.addr.toNat, bytes := f.payload.take x.flit.attr.toNat, poison := f.psn != 0
          failed := false })) ∧
    (∀ f typ off z attr, f.net = .scaleUp → s.domainPort f.src.toNat = none →
      ∃ g, (s.reply f typ off z attr).replies = s.replies ++ [g] ∧ g.typ = typ ∧ g.dst = f.src ∧ g.txid = f.txid ∧ g.ztag = z ∧
        (s.reply f typ off z attr).outbox = s.outbox) ∧
    (∀ dst x q, s.txns = [x] → s.replies = [] → x.isAccess = true → x.flit.dst.toNat = dst →
      (x.port = none ∧ x.quietAt = none ∧ s.domPath.find? (fun y => y.1 == dst) = none ∧ s.domainNext dst 0 = some q ∨
        ∃ o c, x.port = some o ∧ x.quietAt = some c ∧ c + 5000 ≤ s.clk ∧ s.domPath.find? (fun y => y.1 == dst) = some (dst, o) ∧
          s.domainNext dst (if s.serves dst o = true then o + 1 else 0) = some q) →
      ∃ t, exec (.remoteFailover dst) s = .next t ∧ t.left = s.left ++ [(.scaleUp, q, x.flit)] ∧
        t.txns = [{ x with port := some q, quietAt := none }]) ∧
    ∀ x, s.txns.find? (fun t => t.tx == x.tx) = some x → x.isAccess = true → x.issued + 1000000 ≤ s.clk →
      (x.returns = true → exec (.remoteTimeout x.tx) s = .next ((s.endTxn x).answered x
        { addr := x.flit.dst.toNat * 2 ^ 44 + x.flit.addr.toNat, bytes := [], poison := false, failed := true })) ∧
      (x.returns = false → exec (.remoteTimeout x.tx) s = .next ((s.endTxn x).lostWrite x))

/-- The claim portsTrainAndFail (R344, R345, R382, R391). The claim flitsAreLaidOut (R346). The claim flitsAreReceived (R344, R346, R347). The
claim remoteAccessesAreServed (R86, R127, R349, R350, R355). The model's choice: log entries 13, 14, 32, 85, 87.
Completes, by its own effect: portEnable, portDisable, trainingSuccess, trainingTimeout, downRetry, laneFailure,
receiveTimeout, replayLimit, flitReceive, frameReceive, frameResend, remoteRequest, remoteResponse, remoteFailover,
remoteTimeout. -/
def Obligations.PortsAndFlits : Prop :=
  portsTrainAndFail ∧ flitsAreLaidOut ∧ flitsAreReceived ∧ remoteAccessesAreServed

/-! ### The device's own steps: repair, checkpoints, the host and the power -/

/-- R364, R365, R367, R374: a contained facet whose firings, computed again, agree goes on, and one that disagrees, or errs a third time
within 1 ms, is out of use and recorded. The node of one that is out of use goes on at its spare, or, with no spare left, on a free facet
with its scratchpad, in a rewire that the move begins; the move is counted. The state moves as the rewire begins (the model's choice, log
entry 30). -/
def Sys2Proof.Claims.facetsAreRepaired : Prop :=
  ∀ (s : State) (r rank : Nat) (u : FacetUnit), s.facetsAt r rank = [u] → s.running u.inst = true →
    s.facet? u.inst u.node u.clone u.pos = some u →
    (∀ agree, u.contain = true → u.suspect = true →
      let failed := agree = false ∨ 3 ≤ (s.facetErrs.filter fun x => x.1 == r && x.2.1 == rank && s.clk < x.2.2 + 1000000).length
      ∃ t v, exec (.containmentReplay r rank agree) s = .next t ∧ t.facet? u.inst u.node u.clone u.pos = some v ∧ v.suspect = false ∧
        v.regs = u.regs ∧ t.errPf.repl = saturate16 s.errPf.repl ∧
        (¬failed → v.contain = false ∧ v.broken = u.broken) ∧
        (failed → v.broken = true ∧ v.contain = true ∧ t.repairOf r = (s.repairOf r).lost rank)) ∧
    ∀ i, u.broken = true → s.inst? u.inst = some i → i.ctl.wave = none → s.debugged i = false → u.chain = 1 → s.chainOf u = [u] → s.wf →
      let begun := fun (t : State) => ∃ j w, t.inst? u.inst = some j ∧ j.ctl.wave = some w ∧ w.change = .repair [u.node] ∧
        j.layver = i.layver ∧ t.errPf.spare = saturate16 s.errPf.spare
      ((s.repairOf r).dead.contains rank = false → ∃ t v, exec (.spareMove r rank) s = .next t ∧ begun t ∧
        t.facet? u.inst u.node u.clone u.pos = some v ∧ v.broken = false ∧ v.contain = false ∧ v.regs = u.regs ∧ v.ins = u.ins ∧
        v.outs = u.outs ∧ v.region = u.region ∧ v.rank = u.rank ∧ s.sameBytes t) ∧
      ∀ q p, (s.repairOf r).dead.contains rank = true →
        (r :: i.regions.filter fun q => q != r).findSome? (fun q => (s.freePlace i.id [u] q).map fun p => (q, p)) = some (q, p) →
        ∃ t v, exec (.spareMove r rank) s = .next t ∧ begun t ∧ t.facet? u.inst u.node u.clone u.pos = some v ∧ v.broken = false ∧
          v.contain = false ∧ v.regs = u.regs ∧ v.ins = u.ins ∧ v.outs = u.outs ∧ v.region = q ∧ v.rank = snakeRank (p + u.pos) ∧
          ∀ x, x < 0x40000 → Memory.read t.spad ((q * 64 + v.rank) * 0x40000 + x) =
            Memory.read s.spad ((u.region * 64 + u.rank) * 0x40000 + x)

/-- R375: DBGSLOT sets or clears the debug-trap bit of the slot it names, in that clone of every instance of its context. -/
def Sys2Proof.Claims.debugTrapBitsAreSet : Prop :=
  ∀ (s : State) (v : Word64) (i : Inst) (n c : Nat) (u : FacetUnit), s.facet? i.id n c 0 = some u → s.inst? i.id = some i →
    i.ctx.toNat = Word.field v 43 32 → n = Word.field v 11 0 → c = Word.field v 14 12 →
    let bit : BitVec 16 := 1#16 <<< Word.field v 19 16
    (∃ t, exec (.dbgslotSet v) s = .next t ∧ t.facet? i.id n c 0 = some { u with dbg := u.dbg ||| bit } ∧ s.sameBytes t) ∧
    ∃ t, exec (.dbgslotClear v) s = .next t ∧ t.facet? i.id n c 0 = some { u with dbg := u.dbg &&& ~~~bit } ∧ s.sameBytes t

/-- R376, R377: bit `k` of byte `j` of CKMAP stands for granule 8 × j + k, the 64 KiB at CKBASE + 64 KiB × that number. COLLECT sets the
bits of the granules below CKCNT whose page has D set, and clears none. COPY leaves a bit that is clear, and its granule, alone; it clears
the bit of a granule that is unmapped; and of one in this device's HBM it writes every byte to CKDST + 64 KiB × the granule, 128 at a
time. -/
def Sys2Proof.Claims.checkpointBitsStandForGranules : Prop :=
  ∀ (s : State) (c : Checkpoint) (j : Nat) (b : Byte),
    let va := fun (g : Nat) => (Word.field c.base 55 16 + g) * 65536 % 2 ^ 56
    (∃ b', State.collectByte c s j b = .ok s b' ∧ ∀ k, k < 8 → b'.getLsbD k = (b.getLsbD k ||
      (decide (8 * j + k < c.cnt.toNat) && match s.walk c.ctx (va (8 * j + k)) with
        | some l => pteD l.entry
        | none => false))) ∧
    (∀ k, b.getLsbD k = false → State.copyGranule c j (.ok s b) k = .ok s b) ∧
    (∀ k, b.getLsbD k = true → s.walk c.ctx (va (8 * j + k)) = none →
      State.copyGranule c j (.ok s b) k = .ok s (b &&& ~~~(1#8 <<< k))) ∧
    (∀ k z, b.getLsbD k = true → (s.walk c.ctx (va (8 * j + k))).isSome = true → s.ckdstOk c (8 * j + k) = true →
      State.copyOut c s (8 * j + k) = .ok z () → State.copyGranule c j (.ok s b) k = .ok z b) ∧
    ∀ g l a (pl : Nat → Place), sound s → s.walk c.ctx (va g) = some l → pteA l.entry = true →
      s.place (pteAddr l.entry + va g % l.size) = some (.hbm a) →
      (∀ n, n < 512 → s.localPlace ((c.dst.toNat + 65536 * g + 128 * n) % 2 ^ 44) = some (pl n)) →
      ∃ t, State.copyOut c s g = .ok t () ∧ s.sameBytes t ∧ t.hostReqs = s.hostReqs ++ (List.range 512).map fun n =>
        { write := true, addr := s.hostAddr (pl n), len := 128, bytes := Memory.readN s.mem (a + 128 * n) 128
          poison := s.poisoned (a + 128 * n) 128 }

/-- R376, R380: a phase takes the bytes of CKMAP in turn, each read and written back where it changes; it is BUSY until it ends, FAULT where
CKMAP or CKDST cannot be reached or CKCNT is out of range, and its end interrupts the physical function. -/
def Sys2Proof.Claims.checkpointPhasesRun : Prop :=
  ∀ (s : State) (k : Nat), s.stopped = false → let c := s.check k
    let bytes := List.range ((c.cnt.toNat + 7) / 8)
    let inRange := 0 < c.cnt.toNat ∧ c.cnt.toNat ≤ 2 ^ 24
    let begun := fun i (f : State → Nat → Byte → Acc Byte) =>
      (∀ z, inRange → s.overMap c f bytes = .ok z () → ∃ t, exec i s = .next t ∧ (t.check k).status = 1 ∧ (t.check k).bad = false ∧
        t.mem = z.mem ∧ t.hostReqs = z.hostReqs) ∧
      (∀ e a, inRange → s.overMap c f bytes = .bad e a → ∃ t, exec i s = .next t ∧ (t.check k).status = 1 ∧ (t.check k).bad = true ∧
        s.sameBytes t) ∧
      (¬inRange → ∃ t, exec i s = .next t ∧ (t.check k).status = 1 ∧ (t.check k).bad = true ∧ s.sameBytes t)
    (c.status ≠ 1 → begun (.checkpointCollect k) (State.collectByte c) ∧
      begun (.checkpointCopy k) (State.copyByte c)) ∧
    (∀ f j js z bs y b', s.loadClean c.actor (c.map.toNat + j) 1 = .ok z bs → f z j (bs.getD 0 0) = .ok y b' →
      (b' = bs.getD 0 0 → s.overMap c f (j :: js) = y.overMap c f js) ∧
      (b' ≠ bs.getD 0 0 → ∀ w, y.storeVa c.ctx (c.map.toNat + j) [b'] = .ok w → s.overMap c f (j :: js) = w.overMap c f js)) ∧
    (c.status = 1 → ∃ t, exec (.checkpointPhaseEnd k) s = .next t ∧ (t.check k).status = (if c.bad then 3 else 2) ∧
      t.interrupts = s.interrupts ++ [(0, 4)] ∧ s.sameBytes t)

/-- R348, R379, R381, R382, R384, R385, R387, R389, R390, R396: an access through the PF's window reaches the local address that WINBASE
gives, of a CXL.mem slice the host address that HBASE gives; one through a VF's window reaches the address its context translates, and one
that the device does not serve is answered Unsupported Request or dropped. A register written reads as its own rule says; a value out of
PWRCTL's or THERM's range leaves the register as it is (that the host sees no RESERVED_FIELD is the model's choice, log entry 18), and the
domain and peer tables stay as they are. A key slot is filled for a VF whose TDI is locked or runs, with its session, and erased with it;
the measurements name the firmware that runs and the part's stepping; a signed image that is not older than the counter is staged.
The model's choice: log entries 5, 7, 18, 27, 97.
Completes, by its own effect: hostWindowAccess, vfWindowAccess, registerWrite, keySlotFill, tdiExit, getMeasurements,
firmwareStage. -/
def Obligations.HostReachesTheDevice : Prop :=
  ∀ (s : State),
    (∀ off n a, off < 2 ^ 36 → s.boot.recovery = false → s.localPlace ((s.regs.winbase.toNat + off) % 2 ^ 44) = some (.hbm a) →
      (sound s → ∃ t, exec (.hostWindowAccess off (.read n)) s = .next t ∧ s.sameBytes t ∧
        t.hostReplies = s.hostReplies ++ [.data (Memory.readN s.mem a n) (s.poisoned a n)]) ∧
      ∀ bs, ∃ t, exec (.hostWindowAccess off (.write bs)) s = .next t ∧ (∀ k, k < bs.length → Memory.read t.mem (a + k) = bs.getD k 0) ∧
        ∀ b, b < a ∨ a + bs.length ≤ b → Memory.read t.mem b = Memory.read s.mem b) ∧
    (∀ off n, 2 ^ 36 ≤ off ∨ s.boot.recovery = true →
      exec (.hostWindowAccess off (.read n)) s = .next { s with hostReplies := s.hostReplies ++ [.unsupported] } ∧
      ∀ bs, exec (.hostWindowAccess off (.write bs)) s = .next s) ∧
    (∀ off a bs, off < 2 ^ 36 → s.boot.recovery = false → s.localPlace ((s.regs.winbase.toNat + off) % 2 ^ 44) = some (.cxl a) →
      exec (.hostWindowAccess off (.write bs)) s = .next { s with hostReqs := s.hostReqs ++ [{
        write := true, len := bs.length, bytes := bs
        addr := Word.field (s.regs.cxlwin.getD ((a - 2 ^ 41) / 2 ^ 37) 0) 63 37 * 2 ^ 37 + a % 2 ^ 37 }] }) ∧
    (∀ vf off ctx z pa a, 0 < vf → vf ≤ 63 → off < 2 ^ 34 → s.boot.recovery = false → Word.bit (lookup s.regs.vfctx 0 vf) 63 = true →
      ctx = (lookup s.regs.vfctx 0 vf).extractLsb' 0 12 →
      let at' := fun (w : Bool) => s.translateNow ctx ((lookup s.regs.vfbase 0 vf).toNat + off) { write := w } = .ok (z, pa)
      (∀ n, at' false → z.place pa = some (.hbm a) → sound z → ∃ t, exec (.vfWindowAccess vf off (.read n)) s = .next t ∧ t.mem = z.mem ∧
        t.hostReplies = z.hostReplies ++ [.data (Memory.readN z.mem a n) (z.poisoned a n)]) ∧
      ∀ bs, at' true → z.placeToWrite pa = some (.hbm a) → ∃ t, exec (.vfWindowAccess vf off (.write bs)) s = .next t ∧
        (∀ k, k < bs.length → Memory.read t.mem (a + k) = bs.getD k 0) ∧
        ∀ b, b < a ∨ a + bs.length ≤ b → Memory.read t.mem b = Memory.read z.mem b) ∧
    (∀ vf off n bs, Word.bit (lookup s.regs.vfctx 0 vf) 63 = false →
      exec (.vfWindowAccess vf off (.read n)) s = .next { s with hostReplies := s.hostReplies ++ [.unsupported] } ∧
      exec (.vfWindowAccess vf off (.write bs)) s = .next s) ∧
    (s.boot.recovery = false → ∀ v : Word64,
      (400 ≤ Word.field v 15 0 → Word.field v 15 0 ≤ 1600 → Word.field v 47 32 < Word.field v 15 0 → ∃ t, exec (.registerWrite 0x20 v) s = .next t ∧
        t.regRead 0x20 = some (v &&& 0x0000FFFF0000FFFF)) ∧
      (Word.field v 15 0 < 400 ∨ 1600 < Word.field v 15 0 ∨ Word.field v 15 0 ≤ Word.field v 47 32 → exec (.registerWrite 0x20 v) s = .next s) ∧
      (70 ≤ Word.field v 55 48 → Word.field v 55 48 ≤ 105 → ∃ t w, exec (.registerWrite 0x28 v) s = .next t ∧ t.regRead 0x28 = some w ∧
        t.regs.tlimit = Word.field v 55 48 ∧ t.regs.scale = s.regs.scale) ∧
      (Word.field v 55 48 < 70 ∨ 105 < Word.field v 55 48 → exec (.registerWrite 0x28 v) s = .next s) ∧
      (∀ n, n < 8 → n < s.regs.cxlwin.length → ∃ t, exec (.registerWrite (0x2000 + 8 * n) v) s = .next t ∧
        t.regRead (0x2000 + 8 * n) = some (v &&& 0xFFFFFFE000000001)) ∧
      (∀ d, d < 256 → exec (.registerWrite (0x201000 + 8 * d) v) s = .next s ∧ exec (.registerWrite (0x202000 + 8 * d) v) s = .next s) ∧
      (∃ t, exec (.registerWrite 0x30 v) s = .next t ∧ t.regRead 0x30 = some (v &&& 0x00000FF000000000)) ∧
      (∃ t, exec (.registerWrite 0x300000 v) s = .next t ∧ t.regRead 0x300000 = some v) ∧
      (∀ off, s.regRead off = none → (off < 0x100000 ∨ 0x100100 ≤ off) → exec (.registerWrite off v) s =
        .next { s with hostReplies := s.hostReplies ++ [.unsupported] })) ∧
    (∀ slot vf key, ((s.tdis.find? fun x => x.1 == vf) = none → exec (.keySlotFill slot vf key) s = .next s) ∧
      ∀ x, (s.tdis.find? fun x => x.1 == vf) = some x → slot < 256 → 0 < vf → vf ≤ 63 → (∀ k ∈ s.keys, k.slot = slot → k.vf = vf) →
        ∃ t, exec (.keySlotFill slot vf key) s = .next t ∧
          (t.keys.find? fun k => k.slot == slot) = some { slot := slot, vf := vf, session := x.2, key := key } ∧ t.mem = s.mem) ∧
    (∀ vf, ∃ t, exec (.tdiExit vf) s = .next t ∧ (∀ k ∈ t.keys, k.vf ≠ vf) ∧ (∀ x ∈ t.tdis, x.1 ≠ vf) ∧
      ∀ c k, k ∈ s.keys → k.vf = vf → s.context? c.id = some c → c.state = 0 → c.key.getLsbD 31 = true → c.key.toNat % 256 = k.slot →
        ∃ d, t.context? c.id = some d ∧ d.state = 1) ∧
    (∀ fn, fn ≤ 63 → ∃ fw images sig, exec (.getMeasurements fn) s = .next { s with hostReplies := s.hostReplies ++
        [.measurements fn fw (steppingCode s.stepping) images sig] } ∧ (∀ x ∈ s.store.running, x.digest ∈ fw) ∧
        (0 < fn → images = (s.digests.filter fun d => d.1 == fn).map Prod.snd)) ∧
    ∀ img, (img.sigOk = true → s.store.rollback ≤ img.version → ∃ t, exec (.firmwareStage img) s = .next t ∧ img ∈ t.store.staged ∧
        t.store.running = s.store.running ∧ t.interrupts = s.interrupts ++ [(0, 0)]) ∧
      (img.sigOk = false ∨ img.version < s.store.rollback → exec (.firmwareStage img) s = .next s)

/-- R18, R391: the steps of a boot run in order until one fails. Steps 1 to 5 fail as the part has it, and rise to their next alternate; a
failing quad fails step 6 once, and is then kept as mapped out, whatever a later step does. -/
def Sys2Proof.Claims.bootStepsRun : Prop :=
  ∀ (x : Store) (b : BootRun), let steps := [1, 2, 3, 4, 5, 6, 7, 8, 9, 10]
    (b.failStep = none → b.badQuads = [] → b.badWays = [] → b.badSup = 0 → b.badSop = 0 → b.idTaken = false →
      ∃ y, x.boots b steps = (y, none)) ∧
    (∀ n ∈ [1, 2, 3, 4, 5], b.failStep = some n → ∃ y, x.boots b steps = (y, some n) ∧ y.level n = x.level n + 1 ∧ y.failStep = n ∧
      y.failCode = b.failCode) ∧
    ∀ q ∈ b.badQuads, b.failStep = none →
      (x.level 6 = 0 → q ∉ x.quadsOut → x.staged = [] → ∃ y, x.boots b steps = (y, some 6) ∧ y.level 6 = 1) ∧
      (x.level 6 = 1 → q ∈ (x.boots b steps).1.quadsOut)

/-- R391 to R393, R396 to R399: PERST# leaves the device as after reset, with its store and its pins; its release, once PWRGD has been
held for 100 ms, boots it: ready with its device ID where no step fails, with the ports held where that ID is taken, else about to reset
itself with the step recorded, or in recovery where a step has no action left; SHDN stops all work once every running instance stands at
firing boundaries, and waits for that; THERMTRIP stops all work at once, at a boundary that reads 115 °C too; a refill moves SCALE by one at
most, told to the host, and gives each running region its part of the pool, held to four refills or 1 µJ. -/
def Sys2Proof.Claims.powerAndBoot : Prop :=
  ∀ (s : State),
    (∃ t, exec .perstAssert s = .next t ∧ t.pins.perst = true ∧ t.stopped = false ∧ t.insts = [] ∧ t.facets = [] ∧ t.mem = [] ∧
      t.conds = State.reset.conds ∧ t.boot = State.reset.boot ∧ t.cycle = 0 ∧ t.store.retired = s.store.retired ∧ t.store.quadsOut = s.store.quadsOut) ∧
    (∀ b, s.pins.perst = true ∨ s.boot.again = true → s.pins.pwrgd = true → s.pins.pwrgdAt + 100000000 ≤ s.clk →
      let x := s.cold.store
      let steps := [1, 2, 3, 4, 5, 6, 7, 8, 9, 10]
      ∃ t, exec (.perstRelease b) s = .next t ∧ t.pins.perst = false ∧ t.interrupts = s.interrupts ++ [(0, 0)] ∧
        ((∃ n ∈ steps, alternates n < x.level n) → t.boot.recovery = true ∧ t.boot.ready = false) ∧
        ((∀ n ∈ steps, x.level n ≤ alternates n) →
          (∀ y, x.boots b steps = (y, none) → t.boot.ready = true ∧ t.boot.step = 11 ∧ t.devId = y.devId ∧ t.store.tries = 0 ∧
            t.store.quadsOut = y.quadsOut ∧ (b.idTaken = true → t.boot.sup = 0xFFFFFFFF ∧ ∀ p ∈ t.sup, p.held = true)) ∧
          ∀ y n, x.boots b steps = (y, some n) →
            t.boot.ready = false ∧ t.boot.again = true ∧ t.boot.failstep = n ∧ t.boot.failcode = b.failCode ∧ t.store = y)) ∧
    (∀ up, exec (.pwrgd up) s = .next { s with pins := { s.pins with
      pwrgd := up, pwrgdAt := if up && !s.pins.pwrgd then s.clk else s.pins.pwrgdAt } }) ∧
    (s.stopped = false → let z : State := { s with pins := { s.pins with shdn := true } }
      ((∀ i ∈ s.insts, i.state = .running → z.atBoundary i = true) → exec .shdn s = .next { z with stopped := true }) ∧
      ∀ i ∈ s.insts, i.state = .running → z.atBoundary i = false → exec .shdn s = .next { z with agenda := s.agenda ++ [.clock, .shutdown] }) ∧
    (∀ tmax : BitVec 8, 115 ≤ tmax.toNat → ∃ t, exec (.thermtrip tmax) s = .next t ∧ t.stopped = true ∧ t.pins.thermtrip = true ∧
      t.insts = [] ∧ t.store.failCode = 0xFF ∧ t.boot.again = false ∧ s.sameBytes t) ∧
    ∀ (tmax : BitVec 8) watts, s.stopped = false → s.refillAt ≤ s.clk →
      (115 ≤ tmax.toNat → exec (.energyRefill tmax watts) s = exec (.thermtrip tmax) s) ∧
      (tmax.toNat < 115 → ∃ t, exec (.energyRefill tmax watts) s = .next t ∧
      t.refillAt = s.clk / 10000 * 10000 + 10000 ∧ t.regs.tmax = tmax.toNat ∧ t.regs.pwrnow = watts.toNat ∧
      t.regs.scale = (if s.regs.tlimit ≤ tmax.toNat then max 4 (s.regs.scale - 1)
        else if tmax.toNat + 3 ≤ s.regs.tlimit then min 16 (s.regs.scale + 1) else s.regs.scale) ∧ s.sameBytes t ∧
      t.interrupts = s.interrupts ++ (if t.regs.scale = s.regs.scale then [] else [(0, 3)]) ∧
      ∀ i r, s.insts = [i] → i.state = .running → i.regions = [r] → r < s.energy.length →
        let power := if s.regs.powerAt ≤ s.clk then (s.regs.budget, s.regs.reserve) else s.regs.powerIn
        let pool := (power.1 - power.2) * 10000000000 * t.regs.scale / 16
        let n := s.regionShare pool i
        t.energy.getD r 0 = min (s.energy.getD r 0 + n) (max (4 * n) 1000000000))

/-- The claim facetsAreRepaired (R364, R365, R367, R374). The claim debugTrapBitsAreSet (R375). The claim checkpointBitsStandForGranules
(R376, R377). The claim checkpointPhasesRun (R376, R380). The claim bootStepsRun (R18, R391). The claim powerAndBoot (R391 to R393, R396 to
R399).
The model's choice: log entries 29, 30, 33, 34, 35, 36.
Completes, by its own effect: containmentReplay, spareMove, dbgslotSet, dbgslotClear, checkpointCollect, checkpointCopy,
checkpointPhaseEnd, perstRelease, shdn, thermtrip, energyRefill, perstAssert, pwrgd. -/
def Obligations.RepairPowerAndBoot : Prop :=
  facetsAreRepaired ∧ debugTrapBitsAreSet ∧ checkpointBitsStandForGranules ∧ checkpointPhasesRun ∧ bootStepsRun ∧ powerAndBoot

/-! ### The machine as a whole -/

/-- R36, R205, R212, R216, R19: what a step does, one instruction at most of a unit in a clk. A conductor's turn whose fetch gives a
word, paid for, executes the instruction decoded; a word that decodes to none, and a fetch that fails, take their trap; the word fetched through translation from an HBM page without
poison is the four bytes at its physical address. A facet's turn executes the instruction decoded from the slot it
chooses. (The agenda, of which a step takes the next turn, is the model's: log entry 1.) -/
def Sys2Proof.Claims.stepRunsDecoded : Prop :=
  ∀ (s : State) (rest : List Turn),
    (∀ r c, s.agenda = .conductor r :: rest →
      let z := { s with agenda := rest, cur := { region := r } }
      z.cond? r = some c → z.condRuns c = true → z.mayAct r 64 = true → (!c.pl && !c.bskip && z.matched r c) = false →
      (∀ s1 w s2, z.fetch r c = .word s1 w → s1.issueCost r c w = some s2 →
        (∀ i, Decode.conductor w = .ok i → step s = exec i (s2.didAct r 64)) ∧
        ∀ e, Decode.conductor w = .error e → step s = exec (.illegal r) (s2.didAct r 64)) ∧
      (∀ k found, z.fetch r c = .fault k found → step s = exec (.fetchFault r k c.pc) (z.meets found)) ∧
      ∀ pa x, Word.field c.pc 63 56 = 0 → c.pc.toNat % 4 = 0 → c.issued = false → c.ic = [] → c.inst = none →
        z.translate r (z.ctxOf r) c.pc.toNat { fetch := true, sys := c.pl } = .ok pa →
        z.place (pa / 128 * 128) = some (.hbm x) → z.poisoned x 128 = false →
        ∃ s1, z.fetch r c = .word s1 (BitVec.ofNat 32 (Word.ofBytes (Memory.readN s.mem (x + c.pc.toNat % 128) 4)))) ∧
    (∀ r rank u k mode cost i, s.agenda = .facet r rank :: rest →
      State.mayAct { s with agenda := rest } r rank = true →
      State.facetChoice { s with agenda := rest } r rank = .fire u k mode cost → Decode.facet (u.slots.getD k 0) = .ok i →
      step s = exec i (State.didAct { State.debit { s with agenda := rest } r cost with
        cur := { region := r, rank := rank, node := u.node, slot := k, mode := mode } } r rank))

/-- Log entry 1: a step with no turn left is a clock; one whose next turn is an event or a clock does exactly that. -/
def Sys2Proof.Claims.stepTakesTheNextTurn : Prop :=
  ∀ (s : State) (rest : List Turn),
    (s.agenda = [] → step s = .next s.tick) ∧
    (s.agenda = .clock :: rest → step s = .next ({ s with agenda := rest } : State).tick) ∧
    ∀ i, s.agenda = .event i :: rest → step s = exec i { s with agenda := rest }

/-- The claim stepRunsDecoded (R36, R205, R212, R216, R19). The claim stepTakesTheNextTurn (Log entry 1). -/
def Obligations.StepsTakeTurns : Prop :=
  stepRunsDecoded ∧ stepTakesTheNextTurn

/-- R35, R36, R204: a facet of one node that takes turns, with no switch due, and has no firing held fires the ready slot with the lowest index, and nothing where
no slot is ready. An ADD whose energy is there is ready exactly when the predicates match, the tag matches, each channel it
names holds DATA at its head, each register it reads is present and its destination has room or is free; a NOP with no
predicate update never is. -/
def Obligations.FacetFiresTheLowestReadySlot : Prop :=
  ∀ (s : State) (r rank : Nat) (u : FacetUnit), s.facetsAt r rank = [u] → s.takesTurns u = true → u.assist = none →
    u.chainFire = none → u.brk = none → u.chain = 1 → s.switchDue u = false → s.facet? u.inst u.node u.clone 0 = some u →
    (∀ k i, k < 16 → Decode.facet (u.slots.getD k 0) = .ok i → s.slotReady u k = true → (∀ j, j < k → s.slotReady u j = false) →
      s.chosen r rank = some (i, { s.debit r (u.slotCost k) with
        cur := { region := r, rank := rank, node := u.node, slot := k, mode := .normal } })) ∧
    ((∀ k, k < 16 → s.slotReady u k = false) → s.chosen r rank = none) ∧
    ∀ k w, (Decode.facet (u.slots.getD k 0) = .ok (.nop w) → w.puAct = 0 → s.slotReady u k = false) ∧
      ∀ sz, Decode.facet (u.slots.getD k 0) = .ok (.facetAdd sz w) →
        (s.slotReady u k = true ↔
          (u.preds &&& w.pm = w.pv &&& w.pm) ∧
          (w.tgEn = true → ∃ t, (s.seen u).head w.tgCh.val = some t ∧ t.tag = w.tgTag) ∧
          (∀ o ∈ [w.a, w.b], ∀ q, o = .pop q ∨ o = .peek q → ∃ t, (s.seen u).head q.val = some t ∧ t.kind = 0) ∧
          (∀ o ∈ [w.a, w.b], ∀ n, o = .reg n → u.chreg.getLsbD n.val = true → u.pres.getLsbD n.val = true) ∧
          (∀ q, w.d = .out q → (u.outs.getD q.val []).length < 4) ∧
          (∀ n, w.d = .reg n → u.chreg.getLsbD n.val = true → u.pres.getLsbD n.val = true → w.a = .reg n ∨ w.b = .reg n) ∧
          s.affords u.region (u.slotCost k) = true)

/-- R142 to R147: words written out from the encodings decode to their instructions: ADDI x2, x0, 8; BNE x2, x0, -3; LAUNCH x5, x6, x7;
SYS HALT; AMO.ADD.D x0, x20, x19 at level 1; the facet words NOP, ADD.W v0, v1, v2 and MUL.W o0, i0, i0 setting p0. Opcode 0, an
unused conductor opcode and a nonzero unused field decode to none. -/
def Obligations.DecodesSpecWords : Prop :=
  Decode.conductor 0x08400008 = .ok (.addi 2 0 8) ∧
  Decode.conductor 0x4440FFFD = .ok (.bne 2 0 0xFFFD) ∧
  Decode.conductor 0xF8A63800 = .ok (.launch 5 6 7) ∧
  Decode.conductor 0xFC000007 = .ok .sysHalt ∧
  Decode.conductor 0x90149848 = .ok (.amoAdd 0 20 19 true 1) ∧
  (∃ w, Decode.facet 0x00000003EFBEF800 = .ok (.nop w) ∧ w.puAct = 0 ∧ w.pm = 0) ∧
  (∃ w, Decode.facet 0x000000900084F800 = .ok (.facetAdd .W w) ∧ w.d = .reg 0 ∧ w.a = .reg 1 ∧ w.b = .reg 2 ∧ w.c = .none) ∧
  (∃ w, Decode.facet 0x010001530820F880 = .ok (.facetMul .W w) ∧ w.pm = 1 ∧ w.pv = 0 ∧ w.d = .out 0 ∧ w.a = .pop 0 ∧ w.b = .pop 0 ∧
    w.puIdx = 0 ∧ w.puAct = 2) ∧
  Decode.conductor 0x00000000 = .error .invalid ∧
  Decode.conductor 0xDC000000 = .error .reserved ∧
  Decode.conductor 0xA8008001 = .error .unusedField

/-- R137, R142 to R147: decoding and encoding agree, every operand at every value: for every well-formed instruction of a conductor or
of a facet the word encoded decodes to it; a
facet word and a conductor word that decode are the words encoded. -/
def Obligations.DecodeAndEncodeAgree : Prop :=
  (∀ i : Instr, i.wf = true →
    (∀ x, Encode.facet i = some x → Decode.facet x = .ok i) ∧ (∀ x, Encode.conductor i = some x → Decode.conductor x = .ok i)) ∧
  (∀ (x : BitVec 32) (i : Instr), Decode.conductor x = .ok i → i.wf = true ∧ Encode.conductor i = some x) ∧
  ∀ (x : BitVec 64) (i : Instr), Decode.facet x = .ok i → i.wf = true ∧ Encode.facet i = some x

/-- Log entry 3: every step keeps both memories in the canonical form. -/
def Obligations.StepKeepsMemoryCanonical : Prop := ∀ s t : State, s.wf → step s = .next t → t.wf

/-- Log entry 3: in a canonical memory a byte reads as it was last written, and every other byte as before; the form is kept; and the
bytes of a store read back. -/
def Obligations.MemoryReadsWhatWasWritten : Prop :=
  ∀ (m : List Host.Cell) (a : Nat) (v : Byte) (bs : List Byte), Memory.wf m = true →
    Memory.read (Memory.write m a v) a = v ∧ (∀ b, b ≠ a → Memory.read (Memory.write m a v) b = Memory.read m b) ∧
    Memory.wf (Memory.write m a v) = true ∧ Memory.wf (Memory.writeN m a bs) = true ∧
    Memory.readN (Memory.writeN m a bs) a bs.length = bs ∧
    ∀ b, b < a ∨ a + bs.length ≤ b → Memory.read (Memory.writeN m a bs) b = Memory.read m b

/-- Every instruction runs: `exec` refuses none, and faults none but a conductor's instruction where no conductor executes and a
facet's where no unit fires; a step whose next turn is no event answers a next state. The model's choice: log entry 1. -/
def Obligations.EveryStepAnswers : Prop :=
  (∀ (i : Instr) (s : State), (∃ t, exec i s = .next t) ∨
    exec i s = .fault .noUnit ∧
      ((Encode.conductor i).isSome = true ∧ s.cond? s.cur.region = none ∨
        (Encode.facet i).isSome = true ∧ ((s.facetsAt s.cur.region s.cur.rank).find? fun u => u.node == s.cur.node) = none)) ∧
  ∀ s : State, (∀ i rest, s.agenda = .event i :: rest → Encode.conductor i = none ∧ Encode.facet i = none) → ∃ t, step s = .next t

/-- R107, R224 to R227: after a device reset every conductor is at system level and reads the reset values of its registers: STATUS 1;
EPC, CAUSE, FADDR, FINFO, STEP, TOKHI, TOKSB, TOKOHI, TOKOSB, BKPTA0 to 7 and BKPTC0 to 7 zero; CYCLE 0; the generation and
stepping of DEVID, and its own region number. The L2 counters are zero. Both memories are canonical with nothing
listed (log entry 3), and nothing is registered or loaded. -/
def Obligations.ResetState : Prop :=
  let s := State.reset
  (∀ r, r < 192 → ∃ c, s.cond? r = some c ∧ c.pl = true ∧ c.pend = [] ∧
    (∀ n v, (n, v) ∈ [(0x000, 1), (0x001, 0), (0x002, 0), (0x003, 0), (0x005, 0), (0x020, 0), (0x022, 0), (0x040, 0), (0x041, 0),
        (0x042, 0), (0x043, 0), (0x012, 0x21100 + s.devId.toNat)] → s.sysReg r c n = some (BitVec.ofNat 64 v)) ∧
    (∀ k, k < 8 → s.sysReg r c (0x50 + k) = some 0 ∧ s.sysReg r c (0x58 + k) = some 0) ∧
    (s.sysReg r c 0x010).map (fun v => Word.field v 7 0) = some r) ∧
  s.cond? 192 = none ∧ s.clk = 0 ∧ s.slices = [] ∧ (∀ n, s.slice n = { slice := n }) ∧ s.wf ∧ s.mem = [] ∧ s.spad = [] ∧
  s.parts = [] ∧ s.ctxs = [] ∧ s.queues = [] ∧ s.insts = [] ∧ s.facets = [] ∧ s.islands = [] ∧ s.engines = []
end

