-- ==== Sys2Proof/Laws/Encoding.lean ====
section
/-!
SUPPORT. The fields of an encoded word, as the decoder reads them: one lemma per field of each format (R137, R142), and
operand specifiers and the small codes there and back.
-/
namespace Sys2Proof

/-- Decoding an operand's code gives the operand (R138). -/
theorem Operand.ofCode_code (o : Operand) : Operand.ofCode o.code = o := by
  cases o with
  | reg n => revert n; decide
  | pop n => revert n; decide
  | peek n => revert n; decide
  | out n => revert n; decide
  | imm n => revert n; decide
  | zero => rfl
  | laneid => rfl
  | konst => rfl
  | none => rfl

/-- An operand's code has six bits (R138). -/
theorem Operand.code_lt (o : Operand) : o.code < 64 := by
  cases o with
  | reg n => revert n; decide
  | pop n => revert n; decide
  | peek n => revert n; decide
  | out n => revert n; decide
  | imm n => revert n; decide
  | zero => decide
  | laneid => decide
  | konst => decide
  | none => decide

namespace Laws

/-- A field of a word, by arithmetic. -/
theorem bits_eq {n : Nat} (x : BitVec n) (lo len : Nat) : Decode.bits x lo len = x.toNat / 2 ^ lo % 2 ^ len := by
  simp [Decode.bits, BitVec.extractLsb'_toNat, Nat.shiftRight_eq_div_pow]

/-- A field of a word as a word, from its value. -/
theorem extract_eq_of_toNat {n : Nat} (x : BitVec n) (lo len : Nat) (v : BitVec len)
    (h : x.toNat / 2 ^ lo % 2 ^ len = v.toNat) : x.extractLsb' lo len = v := by
  apply BitVec.eq_of_toNat_eq
  rw [BitVec.extractLsb'_toNat, Nat.shiftRight_eq_div_pow, h]

/-- One bit of a word, from its value. -/
theorem getLsbD_eq_of_toNat {n : Nat} (x : BitVec n) (i : Nat) (b : Bool) (h : x.toNat / 2 ^ i % 2 = b.toNat) :
    x.getLsbD i = b := by
  rw [← BitVec.testBit_toNat, Nat.testBit_eq_decide_div_mod_eq, h]
  cases b <;> rfl

/-- Two words put together, as a number. -/
theorem toNat_append_add {v w : Nat} (x : BitVec v) (y : BitVec w) : (x ++ y).toNat = x.toNat * 2 ^ w + y.toNat := by
  rw [BitVec.toNat_append, Nat.shiftLeft_eq, ← Nat.shiftLeft_eq, Nat.shiftLeft_add_eq_or_of_lt y.isLt]

/-! ### Facet words (R137) -/

theorem operand_toNat (o : Operand) : (Encode.operand o).toNat = o.code := by
  have := o.code_lt
  simp only [Encode.operand, BitVec.toNat_ofNat]
  omega

/-- A facet word as a number. -/
theorem formF_toNat (op : Nat) (w : FWord) (h : op < 256) : (Encode.formF op w).toNat =
    w.pm.toNat * 2 ^ 56 + w.pv.toNat * 2 ^ 48 + w.tgEn.toNat * 2 ^ 47 + w.tgCh.val * 2 ^ 45 + w.tgTag.toNat * 2 ^ 43 +
    op * 2 ^ 35 + w.d.code * 2 ^ 29 + w.a.code * 2 ^ 23 + w.b.code * 2 ^ 17 + w.c.code * 2 ^ 11 + w.puIdx.val * 2 ^ 8 +
    w.puAct.toNat * 2 ^ 6 + w.h.toNat * 2 ^ 4 + w.sv.toNat * 2 ^ 3 + w.sw.toNat * 2 ^ 2 := by
  have h1 := w.tgCh.isLt
  have h2 := w.puIdx.isLt
  simp only [Encode.formF]
  repeat rw [toNat_append_add]
  simp only [operand_toNat, BitVec.toNat_ofNat, BitVec.toNat_ofBool]
  omega

/-- The opcode of an encoded facet word. -/
theorem facetOp_formF (op : Nat) (w : FWord) (h : op < 256) : Decode.facetOp (Encode.formF op w) = op := by
  rw [Decode.facetOp, bits_eq, formF_toNat op w h]
  have := w.d.code_lt; have := w.a.code_lt; have := w.b.code_lt; have := w.c.code_lt
  have := w.puIdx.isLt; have := w.puAct.isLt; have := w.h.isLt; have := w.tgTag.isLt
  have := Bool.toNat_le w.sv; have := Bool.toNat_le w.sw
  omega

/-- The two low bits of an encoded facet word. -/
theorem low_formF (op : Nat) (w : FWord) (h : op < 256) : Decode.bits (Encode.formF op w) 0 2 = 0 := by
  rw [bits_eq, formF_toNat op w h]
  omega

/-- The fields of an encoded facet word. -/
theorem fword_formF (op : Nat) (w : FWord) (h : op < 256) : Decode.fword (Encode.formF op w) = w := by
  have hv := formF_toNat op w h
  have h1 := w.tgCh.isLt; have h2 := w.puIdx.isLt
  have ha := w.d.code_lt; have hb := w.a.code_lt; have hc := w.b.code_lt; have hd := w.c.code_lt
  have b1 := w.pm.isLt; have b2 := w.pv.isLt; have b3 := w.tgTag.isLt; have b4 := w.puAct.isLt; have b5 := w.h.isLt
  have c1 := Bool.toNat_le w.sv; have c2 := Bool.toNat_le w.sw; have c3 := Bool.toNat_le w.tgEn
  have e1 : Decode.bits (Encode.formF op w) 29 6 = w.d.code := by rw [bits_eq, hv]; omega
  have e2 : Decode.bits (Encode.formF op w) 23 6 = w.a.code := by rw [bits_eq, hv]; omega
  have e3 : Decode.bits (Encode.formF op w) 17 6 = w.b.code := by rw [bits_eq, hv]; omega
  have e4 : Decode.bits (Encode.formF op w) 11 6 = w.c.code := by rw [bits_eq, hv]; omega
  have e5 : Decode.bits (Encode.formF op w) 45 2 = w.tgCh.val := by rw [bits_eq, hv]; omega
  have e6 : Decode.bits (Encode.formF op w) 8 3 = w.puIdx.val := by rw [bits_eq, hv]; omega
  have f1 : (Encode.formF op w).extractLsb' 56 8 = w.pm := extract_eq_of_toNat _ _ _ _ (by rw [hv]; omega)
  have f2 : (Encode.formF op w).extractLsb' 48 8 = w.pv := extract_eq_of_toNat _ _ _ _ (by rw [hv]; omega)
  have f3 : (Encode.formF op w).extractLsb' 43 2 = w.tgTag := extract_eq_of_toNat _ _ _ _ (by rw [hv]; omega)
  have f4 : (Encode.formF op w).extractLsb' 6 2 = w.puAct := extract_eq_of_toNat _ _ _ _ (by rw [hv]; omega)
  have f5 : (Encode.formF op w).extractLsb' 4 2 = w.h := extract_eq_of_toNat _ _ _ _ (by rw [hv]; omega)
  have g1 : (Encode.formF op w).getLsbD 47 = w.tgEn := getLsbD_eq_of_toNat _ _ _ (by rw [hv]; omega)
  have g2 : (Encode.formF op w).getLsbD 3 = w.sv := getLsbD_eq_of_toNat _ _ _ (by rw [hv]; omega)
  have g3 : (Encode.formF op w).getLsbD 2 = w.sw := getLsbD_eq_of_toNat _ _ _ (by rw [hv]; omega)
  simp only [Decode.fword, e1, e2, e3, e4, e5, e6, f1, f2, f3, f4, f5, g1, g2, g3, Operand.ofCode_code]
  have k1 : Fin.ofNat 4 w.tgCh.val = w.tgCh := Fin.ext (Nat.mod_eq_of_lt h1)
  have k2 : Fin.ofNat 8 w.puIdx.val = w.puIdx := Fin.ext (Nat.mod_eq_of_lt h2)
  rw [k1, k2]

/-! ### Conductor words (R142) -/

/-- A register number there and back. -/
theorem reg_val (r : Reg) : Decode.reg r.val = r := Fin.ext (Nat.mod_eq_of_lt r.isLt)

/-- A format R word as a number. -/
theorem formR_toNat (op : BitVec 6) (d a b : Reg) (fn : BitVec 11) : (Encode.formR op d a b fn).toNat =
    op.toNat * 2 ^ 26 + d.val * 2 ^ 21 + a.val * 2 ^ 16 + b.val * 2 ^ 11 + fn.toNat := by
  have := d.isLt; have := a.isLt; have := b.isLt
  simp only [Encode.formR, Encode.reg]
  repeat rw [toNat_append_add]
  simp only [BitVec.toNat_ofNat]
  omega

/-- A format I or B word as a number. -/
theorem formI_toNat (op : BitVec 6) (d a : Reg) (imm : BitVec 16) : (Encode.formI op d a imm).toNat =
    op.toNat * 2 ^ 26 + d.val * 2 ^ 21 + a.val * 2 ^ 16 + imm.toNat := by
  have := d.isLt; have := a.isLt
  simp only [Encode.formI, Encode.reg]
  repeat rw [toNat_append_add]
  simp only [BitVec.toNat_ofNat]
  omega

/-- A format J word as a number. -/
theorem formJ_toNat (op : BitVec 6) (disp : BitVec 26) : (Encode.formJ op disp).toNat = op.toNat * 2 ^ 26 + disp.toNat := by
  simp only [Encode.formJ]
  rw [toNat_append_add]

variable (op : BitVec 6) (d a b : Reg) (fn : BitVec 11) (imm : BitVec 16) (disp : BitVec 26)

@[simp] theorem op_formR : Decode.bits (Encode.formR op d a b fn) 26 6 = op.toNat := by
  have := d.isLt; have := a.isLt; have := b.isLt; have := fn.isLt; have := op.isLt
  rw [bits_eq, formR_toNat]; omega

@[simp] theorem d_formR : Decode.bits (Encode.formR op d a b fn) 21 5 = d.val := by
  have := d.isLt; have := a.isLt; have := b.isLt; have := fn.isLt
  rw [bits_eq, formR_toNat]; omega

@[simp] theorem a_formR : Decode.bits (Encode.formR op d a b fn) 16 5 = a.val := by
  have := a.isLt; have := b.isLt; have := fn.isLt
  rw [bits_eq, formR_toNat]; omega

@[simp] theorem b_formR : Decode.bits (Encode.formR op d a b fn) 11 5 = b.val := by
  have := b.isLt; have := fn.isLt
  rw [bits_eq, formR_toNat]; omega

@[simp] theorem fn_formR : Decode.bits (Encode.formR op d a b fn) 0 11 = fn.toNat := by
  have := fn.isLt
  rw [bits_eq, formR_toNat]; omega

@[simp] theorem op_formI : Decode.bits (Encode.formI op d a imm) 26 6 = op.toNat := by
  have := d.isLt; have := a.isLt; have := imm.isLt; have := op.isLt
  rw [bits_eq, formI_toNat]; omega

@[simp] theorem d_formI : Decode.bits (Encode.formI op d a imm) 21 5 = d.val := by
  have := d.isLt; have := a.isLt; have := imm.isLt
  rw [bits_eq, formI_toNat]; omega

@[simp] theorem a_formI : Decode.bits (Encode.formI op d a imm) 16 5 = a.val := by
  have := a.isLt; have := imm.isLt
  rw [bits_eq, formI_toNat]; omega

@[simp] theorem imm_formI : (Encode.formI op d a imm).extractLsb' 0 16 = imm :=
  extract_eq_of_toNat _ _ _ _ (by have := imm.isLt; rw [formI_toNat]; omega)

@[simp] theorem op_formJ : Decode.bits (Encode.formJ op disp) 26 6 = op.toNat := by
  have := disp.isLt; have := op.isLt
  rw [bits_eq, formJ_toNat]; omega

@[simp] theorem disp_formJ : (Encode.formJ op disp).extractLsb' 0 26 = disp :=
  extract_eq_of_toNat _ _ _ _ (by have := disp.isLt; rw [formJ_toNat]; omega)

end Laws
end Sys2Proof
end

