-- ==== Sys2Proof/Laws/Exec.lean ====
section
/-!
SUPPORT. One equation per arm of `exec`: what each instruction is executed by. A proof rewrites with these and never unfolds
the match.
-/
set_option Elab.async false

namespace Sys2Proof.Machine

theorem exec_nop (s : State) {w} : exec (.nop w) s = execNop w s := rfl
theorem exec_mov (s : State) {w} : exec (.mov w) s = execMov w s := rfl
theorem exec_movi (s : State) {w} : exec (.movi w) s = execMovi w s := rfl
theorem exec_movis (s : State) {w} : exec (.movis w) s = execMovis w s := rfl
theorem exec_sel (s : State) {w} : exec (.sel w) s = execSel w s := rfl
theorem exec_drop (s : State) {w} : exec (.drop w) s = execDrop w s := rfl
theorem exec_steer (s : State) {w} : exec (.steer w) s = execSteer w s := rfl
theorem exec_steerx (s : State) {w} : exec (.steerx w) s = execSteerx w s := rfl
theorem exec_merge (s : State) {w} : exec (.merge w) s = execMerge w s := rfl
theorem exec_mergeu (s : State) {w} : exec (.mergeu w) s = execMergeu w s := rfl
theorem exec_emitn (s : State) {w} : exec (.emitn w) s = execEmitn w s := rfl
theorem exec_ctl (s : State) {w} : exec (.ctl w) s = execCtl w s := rfl
theorem exec_cease (s : State) {w} : exec (.cease w) s = execCease w s := rfl
theorem exec_vers (s : State) {w} : exec (.vers w) s = execVers w s := rfl
theorem exec_vfin (s : State) {w} : exec (.vfin w) s = execVfin w s := rfl
theorem exec_halt (s : State) {w} : exec (.halt w) s = execHalt w s := rfl
theorem exec_facetAdd (s : State) {sz} {w} : exec (.facetAdd sz w) s = execFacetAdd sz w s := rfl
theorem exec_facetSub (s : State) {sz} {w} : exec (.facetSub sz w) s = execFacetSub sz w s := rfl
theorem exec_addss (s : State) {sz} {w} : exec (.addss sz w) s = execAddss sz w s := rfl
theorem exec_addsz (s : State) {sz} {w} : exec (.addsz sz w) s = execAddsz sz w s := rfl
theorem exec_subss (s : State) {sz} {w} : exec (.subss sz w) s = execSubss sz w s := rfl
theorem exec_subsz (s : State) {sz} {w} : exec (.subsz sz w) s = execSubsz sz w s := rfl
theorem exec_facetMul (s : State) {sz} {w} : exec (.facetMul sz w) s = execFacetMul sz w s := rfl
theorem exec_facetMulhs (s : State) {sz} {w} : exec (.facetMulhs sz w) s = execFacetMulhs sz w s := rfl
theorem exec_facetMulhz (s : State) {sz} {w} : exec (.facetMulhz sz w) s = execFacetMulhz sz w s := rfl
theorem exec_facetMins (s : State) {sz} {w} : exec (.facetMins sz w) s = execFacetMins sz w s := rfl
theorem exec_facetMinz (s : State) {sz} {w} : exec (.facetMinz sz w) s = execFacetMinz sz w s := rfl
theorem exec_facetMaxs (s : State) {sz} {w} : exec (.facetMaxs sz w) s = execFacetMaxs sz w s := rfl
theorem exec_facetMaxz (s : State) {sz} {w} : exec (.facetMaxz sz w) s = execFacetMaxz sz w s := rfl
theorem exec_abs (s : State) {sz} {w} : exec (.abs sz w) s = execAbs sz w s := rfl
theorem exec_mac (s : State) {sz} {w} : exec (.mac sz w) s = execMac sz w s := rfl
theorem exec_facetClz (s : State) {sz} {w} : exec (.facetClz sz w) s = execFacetClz sz w s := rfl
theorem exec_facetAnd (s : State) {w} : exec (.facetAnd w) s = execFacetAnd w s := rfl
theorem exec_facetOr (s : State) {w} : exec (.facetOr w) s = execFacetOr w s := rfl
theorem exec_facetXor (s : State) {w} : exec (.facetXor w) s = execFacetXor w s := rfl
theorem exec_facetAndn (s : State) {w} : exec (.facetAndn w) s = execFacetAndn w s := rfl
theorem exec_facetShl (s : State) {sz} {w} : exec (.facetShl sz w) s = execFacetShl sz w s := rfl
theorem exec_facetShrz (s : State) {sz} {w} : exec (.facetShrz sz w) s = execFacetShrz sz w s := rfl
theorem exec_facetShrs (s : State) {sz} {w} : exec (.facetShrs sz w) s = execFacetShrs sz w s := rfl
theorem exec_cmpeq (s : State) {sz} {w} : exec (.cmpeq sz w) s = execCmpeq sz w s := rfl
theorem exec_cmplts (s : State) {sz} {w} : exec (.cmplts sz w) s = execCmplts sz w s := rfl
theorem exec_cmpltz (s : State) {sz} {w} : exec (.cmpltz sz w) s = execCmpltz sz w s := rfl
theorem exec_test (s : State) {sz} {w} : exec (.test sz w) s = execTest sz w s := rfl
theorem exec_fadd (s : State) {fm} {w} : exec (.fadd fm w) s = execFadd fm w s := rfl
theorem exec_fsub (s : State) {fm} {w} : exec (.fsub fm w) s = execFsub fm w s := rfl
theorem exec_fmul (s : State) {fm} {w} : exec (.fmul fm w) s = execFmul fm w s := rfl
theorem exec_ffma (s : State) {fm} {w} : exec (.ffma fm w) s = execFfma fm w s := rfl
theorem exec_fmin (s : State) {fm} {w} : exec (.fmin fm w) s = execFmin fm w s := rfl
theorem exec_fmax (s : State) {fm} {w} : exec (.fmax fm w) s = execFmax fm w s := rfl
theorem exec_fneg (s : State) {fm} {w} : exec (.fneg fm w) s = execFneg fm w s := rfl
theorem exec_fabs (s : State) {fm} {w} : exec (.fabs fm w) s = execFabs fm w s := rfl
theorem exec_fcmpeq (s : State) {fm} {w} : exec (.fcmpeq fm w) s = execFcmpeq fm w s := rfl
theorem exec_fcmplt (s : State) {fm} {w} : exec (.fcmplt fm w) s = execFcmplt fm w s := rfl
theorem exec_fcmple (s : State) {fm} {w} : exec (.fcmple fm w) s = execFcmple fm w s := rfl
theorem exec_frcp (s : State) {fm} {w} : exec (.frcp fm w) s = execFrcp fm w s := rfl
theorem exec_frsq (s : State) {fm} {w} : exec (.frsq fm w) s = execFrsq fm w s := rfl
theorem exec_fexp2 (s : State) {fm} {w} : exec (.fexp2 fm w) s = execFexp2 fm w s := rfl
theorem exec_flog2 (s : State) {fm} {w} : exec (.flog2 fm w) s = execFlog2 fm w s := rfl
theorem exec_fscale (s : State) {fm} {w} : exec (.fscale fm w) s = execFscale fm w s := rfl
theorem exec_cvtn (s : State) {nf} {w} : exec (.cvtn nf w) s = execCvtn nf w s := rfl
theorem exec_cvtw (s : State) {nf} {w} : exec (.cvtw nf w) s = execCvtw nf w s := rfl
theorem exec_cvtfi (s : State) {w} : exec (.cvtfi w) s = execCvtfi w s := rfl
theorem exec_cvtif (s : State) {w} : exec (.cvtif w) s = execCvtif w s := rfl
theorem exec_shuf (s : State) {w} : exec (.shuf w) s = execShuf w s := rfl
theorem exec_bcast (s : State) {w} : exec (.bcast w) s = execBcast w s := rfl
theorem exec_extr (s : State) {w} : exec (.extr w) s = execExtr w s := rfl
theorem exec_lsumW (s : State) {w} : exec (.lsumW w) s = execLsumW w s := rfl
theorem exec_lsumF32 (s : State) {w} : exec (.lsumF32 w) s = execLsumF32 w s := rfl
theorem exec_lmaxF32 (s : State) {w} : exec (.lmaxF32 w) s = execLmaxF32 w s := rfl
theorem exec_lds (s : State) {w} : exec (.lds w) s = execLds w s := rfl
theorem exec_sts (s : State) {w} : exec (.sts w) s = execSts w s := rfl
theorem exec_ldsw (s : State) {w} : exec (.ldsw w) s = execLdsw w s := rfl
theorem exec_stsw (s : State) {w} : exec (.stsw w) s = execStsw w s := rfl
theorem exec_ldg (s : State) {w} : exec (.ldg w) s = execLdg w s := rfl
theorem exec_ldgb (s : State) {w} : exec (.ldgb w) s = execLdgb w s := rfl
theorem exec_stg (s : State) {w} : exec (.stg w) s = execStg w s := rfl
theorem exec_stge (s : State) {w} : exec (.stge w) s = execStge w s := rfl
theorem exec_pref (s : State) {w} : exec (.pref w) s = execPref w s := rfl
theorem exec_atoms (s : State) {w} : exec (.atoms w) s = execAtoms w s := rfl
theorem exec_atomg (s : State) {w} : exec (.atomg w) s = execAtomg w s := rfl
theorem exec_cass (s : State) {w} : exec (.cass w) s = execCass w s := rfl
theorem exec_casg (s : State) {w} : exec (.casg w) s = execCasg w s := rfl
theorem exec_fence (s : State) {w} : exec (.fence w) s = execFence w s := rfl
theorem exec_acq (s : State) {w} : exec (.acq w) s = execAcq w s := rfl
theorem exec_rel (s : State) {w} : exec (.rel w) s = execRel w s := rfl
theorem exec_hstat (s : State) {w} : exec (.hstat w) s = execHstat w s := rfl
theorem exec_htake (s : State) {w} : exec (.htake w) s = execHtake w s := rfl
theorem exec_hfree (s : State) {w} : exec (.hfree w) s = execHfree w s := rfl
theorem exec_wptr (s : State) {w} : exec (.wptr w) s = execWptr w s := rfl
theorem exec_wpwait (s : State) {w} : exec (.wpwait w) s = execWpwait w s := rfl
theorem exec_treq (s : State) {w} : exec (.treq w) s = execTreq w s := rfl
theorem exec_accrd (s : State) {w} : exec (.accrd w) s = execAccrd w s := rfl
theorem exec_tempty (s : State) {w} : exec (.tempty w) s = execTempty w s := rfl
theorem exec_lzres (s : State) {w} : exec (.lzres w) s = execLzres w s := rfl
theorem exec_lzsend (s : State) {w} : exec (.lzsend w) s = execLzsend w s := rfl
theorem exec_lzstat (s : State) {w} : exec (.lzstat w) s = execLzstat w s := rfl
theorem exec_lzreset (s : State) {w} : exec (.lzreset w) s = execLzreset w s := rfl
theorem exec_trap (s : State) {w} : exec (.trap w) s = execTrap w s := rfl
theorem exec_brk (s : State) {w} : exec (.brk w) s = execBrk w s := rfl
theorem exec_rdcnt (s : State) {w} : exec (.rdcnt w) s = execRdcnt w s := rfl
theorem exec_rdst (s : State) {w} : exec (.rdst w) s = execRdst w s := rfl
theorem exec_setpv (s : State) {w} : exec (.setpv w) s = execSetpv w s := rfl
theorem exec_getp (s : State) {w} : exec (.getp w) s = execGetp w s := rfl
theorem exec_beat (s : State) {w} : exec (.beat w) s = execBeat w s := rfl
theorem exec_layv (s : State) {w} : exec (.layv w) s = execLayv w s := rfl
theorem exec_seq (s : State) {w} : exec (.seq w) s = execSeq w s := rfl
theorem exec_settag (s : State) {w} : exec (.settag w) s = execSettag w s := rfl
theorem exec_dot4Tf8 (s : State) {w} : exec (.dot4Tf8 w) s = execDot4Tf8 w s := rfl
theorem exec_sort4W (s : State) {w} : exec (.sort4W w) s = execSort4W w s := rfl
theorem exec_add (s : State) {d} {a} {b} : exec (.add d a b) s = execAdd d a b s := rfl
theorem exec_sub (s : State) {d} {a} {b} : exec (.sub d a b) s = execSub d a b s := rfl
theorem exec_and (s : State) {d} {a} {b} : exec (.and d a b) s = execAnd d a b s := rfl
theorem exec_or (s : State) {d} {a} {b} : exec (.or d a b) s = execOr d a b s := rfl
theorem exec_xor (s : State) {d} {a} {b} : exec (.xor d a b) s = execXor d a b s := rfl
theorem exec_andn (s : State) {d} {a} {b} : exec (.andn d a b) s = execAndn d a b s := rfl
theorem exec_shl (s : State) {d} {a} {b} : exec (.shl d a b) s = execShl d a b s := rfl
theorem exec_shrz (s : State) {d} {a} {b} : exec (.shrz d a b) s = execShrz d a b s := rfl
theorem exec_shrs (s : State) {d} {a} {b} : exec (.shrs d a b) s = execShrs d a b s := rfl
theorem exec_mul (s : State) {d} {a} {b} : exec (.mul d a b) s = execMul d a b s := rfl
theorem exec_mulhs (s : State) {d} {a} {b} : exec (.mulhs d a b) s = execMulhs d a b s := rfl
theorem exec_mulhz (s : State) {d} {a} {b} : exec (.mulhz d a b) s = execMulhz d a b s := rfl
theorem exec_divs (s : State) {d} {a} {b} : exec (.divs d a b) s = execDivs d a b s := rfl
theorem exec_divz (s : State) {d} {a} {b} : exec (.divz d a b) s = execDivz d a b s := rfl
theorem exec_rems (s : State) {d} {a} {b} : exec (.rems d a b) s = execRems d a b s := rfl
theorem exec_remz (s : State) {d} {a} {b} : exec (.remz d a b) s = execRemz d a b s := rfl
theorem exec_slts (s : State) {d} {a} {b} : exec (.slts d a b) s = execSlts d a b s := rfl
theorem exec_sltz (s : State) {d} {a} {b} : exec (.sltz d a b) s = execSltz d a b s := rfl
theorem exec_mins (s : State) {d} {a} {b} : exec (.mins d a b) s = execMins d a b s := rfl
theorem exec_maxs (s : State) {d} {a} {b} : exec (.maxs d a b) s = execMaxs d a b s := rfl
theorem exec_minz (s : State) {d} {a} {b} : exec (.minz d a b) s = execMinz d a b s := rfl
theorem exec_maxz (s : State) {d} {a} {b} : exec (.maxz d a b) s = execMaxz d a b s := rfl
theorem exec_clz (s : State) {d} {a} : exec (.clz d a) s = execClz d a s := rfl
theorem exec_popc (s : State) {d} {a} : exec (.popc d a) s = execPopc d a s := rfl
theorem exec_addw (s : State) {d} {a} {b} : exec (.addw d a b) s = execAddw d a b s := rfl
theorem exec_subw (s : State) {d} {a} {b} : exec (.subw d a b) s = execSubw d a b s := rfl
theorem exec_selnz (s : State) {d} {a} {b} : exec (.selnz d a b) s = execSelnz d a b s := rfl
theorem exec_addi (s : State) {d} {a} {imm} : exec (.addi d a imm) s = execAddi d a imm s := rfl
theorem exec_andi (s : State) {d} {a} {imm} : exec (.andi d a imm) s = execAndi d a imm s := rfl
theorem exec_ori (s : State) {d} {a} {imm} : exec (.ori d a imm) s = execOri d a imm s := rfl
theorem exec_xori (s : State) {d} {a} {imm} : exec (.xori d a imm) s = execXori d a imm s := rfl
theorem exec_shi (s : State) {d} {a} {k} {n} : exec (.shi d a k n) s = execShi d a k n s := rfl
theorem exec_slti (s : State) {d} {a} {imm} : exec (.slti d a imm) s = execSlti d a imm s := rfl
theorem exec_sltiz (s : State) {d} {a} {imm} : exec (.sltiz d a imm) s = execSltiz d a imm s := rfl
theorem exec_lui (s : State) {d} {imm} : exec (.lui d imm) s = execLui d imm s := rfl
theorem exec_ins16 (s : State) {d} {a} {imm} : exec (.ins16 d a imm) s = execIns16 d a imm s := rfl
theorem exec_addpc (s : State) {d} {imm} : exec (.addpc d imm) s = execAddpc d imm s := rfl
theorem exec_beq (s : State) {a} {b} {disp} : exec (.beq a b disp) s = execBeq a b disp s := rfl
theorem exec_bne (s : State) {a} {b} {disp} : exec (.bne a b disp) s = execBne a b disp s := rfl
theorem exec_blts (s : State) {a} {b} {disp} : exec (.blts a b disp) s = execBlts a b disp s := rfl
theorem exec_bges (s : State) {a} {b} {disp} : exec (.bges a b disp) s = execBges a b disp s := rfl
theorem exec_blo (s : State) {a} {b} {disp} : exec (.blo a b disp) s = execBlo a b disp s := rfl
theorem exec_bhs (s : State) {a} {b} {disp} : exec (.bhs a b disp) s = execBhs a b disp s := rfl
theorem exec_j (s : State) {disp} : exec (.j disp) s = execJ disp s := rfl
theorem exec_jal (s : State) {disp} : exec (.jal disp) s = execJal disp s := rfl
theorem exec_jalr (s : State) {d} {a} {imm} : exec (.jalr d a imm) s = execJalr d a imm s := rfl
theorem exec_ldb (s : State) {d} {a} {imm} : exec (.ldb d a imm) s = execLdb d a imm s := rfl
theorem exec_ldh (s : State) {d} {a} {imm} : exec (.ldh d a imm) s = execLdh d a imm s := rfl
theorem exec_ldw (s : State) {d} {a} {imm} : exec (.ldw d a imm) s = execLdw d a imm s := rfl
theorem exec_ldd (s : State) {d} {a} {imm} : exec (.ldd d a imm) s = execLdd d a imm s := rfl
theorem exec_ldbz (s : State) {d} {a} {imm} : exec (.ldbz d a imm) s = execLdbz d a imm s := rfl
theorem exec_ldhz (s : State) {d} {a} {imm} : exec (.ldhz d a imm) s = execLdhz d a imm s := rfl
theorem exec_ldwz (s : State) {d} {a} {imm} : exec (.ldwz d a imm) s = execLdwz d a imm s := rfl
theorem exec_stb (s : State) {d} {a} {imm} : exec (.stb d a imm) s = execStb d a imm s := rfl
theorem exec_sth (s : State) {d} {a} {imm} : exec (.sth d a imm) s = execSth d a imm s := rfl
theorem exec_stw (s : State) {d} {a} {imm} : exec (.stw d a imm) s = execStw d a imm s := rfl
theorem exec_std (s : State) {d} {a} {imm} : exec (.std d a imm) s = execStd d a imm s := rfl
theorem exec_amoAdd (s : State) {d} {a} {b} {wide} {lvl} : exec (.amoAdd d a b wide lvl) s = execAmoAdd d a b wide lvl s := rfl
theorem exec_amoAnd (s : State) {d} {a} {b} {wide} {lvl} : exec (.amoAnd d a b wide lvl) s = execAmoAnd d a b wide lvl s := rfl
theorem exec_amoOr (s : State) {d} {a} {b} {wide} {lvl} : exec (.amoOr d a b wide lvl) s = execAmoOr d a b wide lvl s := rfl
theorem exec_amoXor (s : State) {d} {a} {b} {wide} {lvl} : exec (.amoXor d a b wide lvl) s = execAmoXor d a b wide lvl s := rfl
theorem exec_amoMins (s : State) {d} {a} {b} {wide} {lvl} : exec (.amoMins d a b wide lvl) s = execAmoMins d a b wide lvl s := rfl
theorem exec_amoMaxs (s : State) {d} {a} {b} {wide} {lvl} : exec (.amoMaxs d a b wide lvl) s = execAmoMaxs d a b wide lvl s := rfl
theorem exec_amoMinz (s : State) {d} {a} {b} {wide} {lvl} : exec (.amoMinz d a b wide lvl) s = execAmoMinz d a b wide lvl s := rfl
theorem exec_amoMaxz (s : State) {d} {a} {b} {wide} {lvl} : exec (.amoMaxz d a b wide lvl) s = execAmoMaxz d a b wide lvl s := rfl
theorem exec_amoXchg (s : State) {d} {a} {b} {wide} {lvl} : exec (.amoXchg d a b wide lvl) s = execAmoXchg d a b wide lvl s := rfl
theorem exec_amoCas (s : State) {d} {a} {b} {wide} {lvl} : exec (.amoCas d a b wide lvl) s = execAmoCas d a b wide lvl s := rfl
theorem exec_amoFadd (s : State) {d} {a} {b} {lvl} : exec (.amoFadd d a b lvl) s = execAmoFadd d a b lvl s := rfl
theorem exec_fenceFull (s : State) {lvl} : exec (.fenceFull lvl) s = execFenceFull lvl s := rfl
theorem exec_fenceAcq (s : State) {lvl} : exec (.fenceAcq lvl) s = execFenceAcq lvl s := rfl
theorem exec_fenceRel (s : State) {lvl} : exec (.fenceRel lvl) s = execFenceRel lvl s := rfl
theorem exec_fenceTinv (s : State) {a} {b} : exec (.fenceTinv a b) s = execFenceTinv a b s := rfl
theorem exec_l2ctlSetrb (s : State) {a} {b} {n} : exec (.l2ctlSetrb a b n) s = execL2ctlSetrb a b n s := rfl
theorem exec_l2ctlSetrl (s : State) {a} {b} {n} : exec (.l2ctlSetrl a b n) s = execL2ctlSetrl a b n s := rfl
theorem exec_l2ctlUnpin (s : State) {a} {b} {n} : exec (.l2ctlUnpin a b n) s = execL2ctlUnpin a b n s := rfl
theorem exec_l2ctlWbinv (s : State) {a} {b} : exec (.l2ctlWbinv a b) s = execL2ctlWbinv a b s := rfl
theorem exec_waith (s : State) {d} {a} {b} {st} : exec (.waith d a b st) s = execWaith d a b st s := rfl
theorem exec_mfs (s : State) {d} {n} : exec (.mfs d n) s = execMfs d n s := rfl
theorem exec_mts (s : State) {a} {n} : exec (.mts a n) s = execMts a n s := rfl
theorem exec_tokin (s : State) {d} {a} : exec (.tokin d a) s = execTokin d a s := rfl
theorem exec_tokout (s : State) {a} {b} : exec (.tokout a b) s = execTokout a b s := rfl
theorem exec_toktry (s : State) {d} {a} : exec (.toktry d a) s = execToktry d a s := rfl
theorem exec_cfgld (s : State) {d} {a} {b} : exec (.cfgld d a b) s = execCfgld d a b s := rfl
theorem exec_cfggo (s : State) {d} {a} : exec (.cfggo d a) s = execCfggo d a s := rfl
theorem exec_switch (s : State) {d} {a} : exec (.switch d a) s = execSwitch d a s := rfl
theorem exec_rewireHint (s : State) {d} {a} {b} : exec (.rewireHint d a b) s = execRewireHint d a b s := rfl
theorem exec_rewireLock (s : State) {d} {a} {b} : exec (.rewireLock d a b) s = execRewireLock d a b s := rfl
theorem exec_rewireUnlock (s : State) {d} {a} {b} : exec (.rewireUnlock d a b) s = execRewireUnlock d a b s := rfl
theorem exec_rewirePin (s : State) {d} {a} {b} : exec (.rewirePin d a b) s = execRewirePin d a b s := rfl
theorem exec_rewireUnpin (s : State) {d} {a} {b} : exec (.rewireUnpin d a b) s = execRewireUnpin d a b s := rfl
theorem exec_layver (s : State) {d} : exec (.layver d) s = execLayver d s := rfl
theorem exec_layq (s : State) {d} {a} : exec (.layq d a) s = execLayq d a s := rfl
theorem exec_rate (s : State) {d} {a} {b} : exec (.rate d a b) s = execRate d a b s := rfl
theorem exec_strm (s : State) {d} {a} {b} : exec (.strm d a b) s = execStrm d a b s := rfl
theorem exec_strmst (s : State) {d} {a} {b} : exec (.strmst d a b) s = execStrmst d a b s := rfl
theorem exec_tdset (s : State) {d} {a} {b} : exec (.tdset d a b) s = execTdset d a b s := rfl
theorem exec_prset (s : State) {d} {a} {b} : exec (.prset d a b) s = execPrset d a b s := rfl
theorem exec_chord (s : State) {d} {a} {b} : exec (.chord d a b) s = execChord d a b s := rfl
theorem exec_lzctlReserve (s : State) {d} {a} {b} : exec (.lzctlReserve d a b) s = execLzctlReserve d a b s := rfl
theorem exec_lzctlRelease (s : State) {d} {a} {b} : exec (.lzctlRelease d a b) s = execLzctlRelease d a b s := rfl
theorem exec_lzctlStatus (s : State) {d} {a} {b} : exec (.lzctlStatus d a b) s = execLzctlStatus d a b s := rfl
theorem exec_lzctlResume (s : State) {d} {a} {b} : exec (.lzctlResume d a b) s = execLzctlResume d a b s := rfl
theorem exec_lzctlClear (s : State) {d} {a} {b} : exec (.lzctlClear d a b) s = execLzctlClear d a b s := rfl
theorem exec_launch (s : State) {d} {a} {b} : exec (.launch d a b) s = execLaunch d a b s := rfl
theorem exec_sysTrap (s : State) {code} : exec (.sysTrap code) s = execSysTrap code s := rfl
theorem exec_eret (s : State) : exec (.eret) s = execEret s := rfl
theorem exec_wfi (s : State) : exec (.wfi) s = execWfi s := rfl
theorem exec_sysBrk (s : State) {code} : exec (.sysBrk code) s = execSysBrk code s := rfl
theorem exec_icinv (s : State) {a} {b} : exec (.icinv a b) s = execIcinv a b s := rfl
theorem exec_sysBeat (s : State) {code} : exec (.sysBeat code) s = execSysBeat code s := rfl
theorem exec_sysCease (s : State) {code} : exec (.sysCease code) s = execSysCease code s := rfl
theorem exec_sysHalt (s : State) : exec (.sysHalt) s = execSysHalt s := rfl
theorem exec_illegal (s : State) {r} : exec (.illegal r) s = execIllegal r s := rfl
theorem exec_fetchFault (s : State) {r} {cause} {addr} : exec (.fetchFault r cause addr) s = execFetchFault r cause addr s := rfl
theorem exec_breakpointMatch (s : State) {r} : exec (.breakpointMatch r) s = execBreakpointMatch r s := rfl
theorem exec_registerPartition (s : State) {addr} : exec (.registerPartition addr) s = execRegisterPartition addr s := rfl
theorem exec_registerContext (s : State) {addr} : exec (.registerContext addr) s = execRegisterContext addr s := rfl
theorem exec_registerQueue (s : State) {addr} {q} : exec (.registerQueue addr q) s = execRegisterQueue addr q s := rfl
theorem exec_rereadQuads (s : State) {addr} : exec (.rereadQuads addr) s = execRereadQuads addr s := rfl
theorem exec_kill (s : State) {ctx} {cause} : exec (.kill ctx cause) s = execKill ctx cause s := rfl
theorem exec_portEnable (s : State) {k} {p} : exec (.portEnable k p) s = execPortEnable k p s := rfl
theorem exec_portDisable (s : State) {k} {p} : exec (.portDisable k p) s = execPortDisable k p s := rfl
theorem exec_dbgslotSet (s : State) {v} : exec (.dbgslotSet v) s = execDbgslotSet v s := rfl
theorem exec_dbgslotClear (s : State) {v} : exec (.dbgslotClear v) s = execDbgslotClear v s := rfl
theorem exec_checkpointCollect (s : State) {n} : exec (.checkpointCollect n) s = execCheckpointCollect n s := rfl
theorem exec_checkpointCopy (s : State) {n} : exec (.checkpointCopy n) s = execCheckpointCopy n s := rfl
theorem exec_nodeFaultTrap (s : State) {r} : exec (.nodeFaultTrap r) s = execNodeFaultTrap r s := rfl
theorem exec_breakResume (s : State) {r} {rank} : exec (.breakResume r rank) s = execBreakResume r rank s := rfl
theorem exec_tokenAccept (s : State) {inst} {arc} : exec (.tokenAccept inst arc) s = execTokenAccept inst arc s := rfl
theorem exec_facetNullHandling (s : State) {r} {rank} : exec (.facetNullHandling r rank) s = execFacetNullHandling r rank s := rfl
theorem exec_facetEndHandling (s : State) {r} {rank} : exec (.facetEndHandling r rank) s = execFacetEndHandling r rank s := rfl
theorem exec_islandNullHandling (s : State) {r} {isl} : exec (.islandNullHandling r isl) s = execIslandNullHandling r isl s := rfl
theorem exec_islandEndHandling (s : State) {r} {isl} : exec (.islandEndHandling r isl) s = execIslandEndHandling r isl s := rfl
theorem exec_engineNullHandling (s : State) {inst} {node} : exec (.engineNullHandling inst node) s = execEngineNullHandling inst node s := rfl
theorem exec_engineEndHandling (s : State) {inst} {node} : exec (.engineEndHandling inst node) s = execEngineEndHandling inst node s := rfl
theorem exec_steerMergeNull (s : State) {r} {rank} : exec (.steerMergeNull r rank) s = execSteerMergeNull r rank s := rfl
theorem exec_mergeuNullDiscard (s : State) {r} {rank} : exec (.mergeuNullDiscard r rank) s = execMergeuNullDiscard r rank s := rfl
theorem exec_steerMergeEnd (s : State) {r} {rank} : exec (.steerMergeEnd r rank) s = execSteerMergeEnd r rank s := rfl
theorem exec_chainMemberFiring (s : State) {r} {rank} : exec (.chainMemberFiring r rank) s = execChainMemberFiring r rank s := rfl
theorem exec_spillRingEntry (s : State) {inst} {arc} : exec (.spillRingEntry inst arc) s = execSpillRingEntry inst arc s := rfl
theorem exec_spillRingDelivery (s : State) {inst} {arc} : exec (.spillRingDelivery inst arc) s = execSpillRingDelivery inst arc s := rfl
theorem exec_complete (s : State) {inst} : exec (.complete inst) s = execComplete inst s := rfl
theorem exec_deadlock (s : State) {inst} : exec (.deadlock inst) s = execDeadlock inst s := rfl
theorem exec_tableWalk (s : State) {die} : exec (.tableWalk die) s = execTableWalk die s := rfl
theorem exec_trackedEntryExpire (s : State) {r} : exec (.trackedEntryExpire r) s = execTrackedEntryExpire r s := rfl
theorem exec_multicastRequest (s : State) {r} {st} : exec (.multicastRequest r st) s = execMulticastRequest r st s := rfl
theorem exec_multicastResponse (s : State) {slice} {n} : exec (.multicastResponse slice n) s = execMulticastResponse slice n s := rfl
theorem exec_mergeRecordExpire (s : State) {slice} {n} : exec (.mergeRecordExpire slice n) s = execMergeRecordExpire slice n s := rfl
theorem exec_chaseLinkReturn (s : State) {r} {st} : exec (.chaseLinkReturn r st) s = execChaseLinkReturn r st s := rfl
theorem exec_streamUnit (s : State) {r} {st} : exec (.streamUnit r st) s = execStreamUnit r st s := rfl
theorem exec_arrivalToken (s : State) {r} {h} : exec (.arrivalToken r h) s = execArrivalToken r h s := rfl
theorem exec_streamNodeCommand (s : State) {inst} {node} : exec (.streamNodeCommand inst node) s = execStreamNodeCommand inst node s := rfl
theorem exec_chordNodePut (s : State) {inst} {node} : exec (.chordNodePut inst node) s = execChordNodePut inst node s := rfl
theorem exec_islandFiring (s : State) {r} {isl} : exec (.islandFiring r isl) s = execIslandFiring r isl s := rfl
theorem exec_diagonalEnd (s : State) {r} {isl} : exec (.diagonalEnd r isl) s = execDiagonalEnd r isl s := rfl
theorem exec_skippedFiring (s : State) {r} {isl} : exec (.skippedFiring r isl) s = execSkippedFiring r isl s := rfl
theorem exec_weightReload (s : State) {r} {isl} : exec (.weightReload r isl) s = execWeightReload r isl s := rfl
theorem exec_weightReloadDone (s : State) {r} {isl} : exec (.weightReloadDone r isl) s = execWeightReloadDone r isl s := rfl
theorem exec_publication (s : State) {r} {isl} {t} : exec (.publication r isl t) s = execPublication r isl t s := rfl
theorem exec_drainRow (s : State) {r} {isl} {t} : exec (.drainRow r isl t) s = execDrainRow r isl t s := rfl
theorem exec_versionToken (s : State) {r} {isl} {t} : exec (.versionToken r isl t) s = execVersionToken r isl t s := rfl
theorem exec_finalRepeatToken (s : State) {r} {isl} {t} : exec (.finalRepeatToken r isl t) s = execFinalRepeatToken r isl t s := rfl
theorem exec_ceaseAtIsland (s : State) {n} : exec (.ceaseAtIsland n) s = execCeaseAtIsland n s := rfl
theorem exec_ceaseAtFacet (s : State) {n} : exec (.ceaseAtFacet n) s = execCeaseAtFacet n s := rfl
theorem exec_ceaseDiscard (s : State) {n} : exec (.ceaseDiscard n) s = execCeaseDiscard n s := rfl
theorem exec_settled (s : State) {inst} {level} : exec (.settled inst level) s = execSettled inst level s := rfl
theorem exec_islandSwitch (s : State) {r} {isl} : exec (.islandSwitch r isl) s = execIslandSwitch r isl s := rfl
theorem exec_reservationRequest (s : State) {f} : exec (.reservationRequest f) s = execReservationRequest f s := rfl
theorem exec_reservationAnswer (s : State) {f} : exec (.reservationAnswer f) s = execReservationAnswer f s := rfl
theorem exec_reservationTimeout (s : State) {tx} : exec (.reservationTimeout tx) s = execReservationTimeout tx s := rfl
theorem exec_putPacketSend (s : State) {eng} : exec (.putPacketSend eng) s = execPutPacketSend eng s := rfl
theorem exec_putPacket (s : State) {f} {k} {p} : exec (.putPacket f k p) s = execPutPacket f k p s := rfl
theorem exec_putack (s : State) {f} : exec (.putack f) s = execPutack f s := rfl
theorem exec_releaseRequest (s : State) {f} : exec (.releaseRequest f) s = execReleaseRequest f s := rfl
theorem exec_quietPeriodEnd (s : State) {eng} {id} : exec (.quietPeriodEnd eng id) s = execQuietPeriodEnd eng id s := rfl
theorem exec_linkFail (s : State) {eng} {id} : exec (.linkFail eng id) s = execLinkFail eng id s := rfl
theorem exec_failureSeen (s : State) {r} {h} {sl} : exec (.failureSeen r h sl) s = execFailureSeen r h sl s := rfl
theorem exec_slotAbort (s : State) {r} {h} {sl} : exec (.slotAbort r h sl) s = execSlotAbort r h sl s := rfl
theorem exec_keep (s : State) {eng} {id} : exec (.keep eng id) s = execKeep eng id s := rfl
theorem exec_trainingSuccess (s : State) {k} {p} {lanes} {peer} : exec (.trainingSuccess k p lanes peer) s = execTrainingSuccess k p lanes peer s := rfl
theorem exec_trainingTimeout (s : State) {k} {p} : exec (.trainingTimeout k p) s = execTrainingTimeout k p s := rfl
theorem exec_laneFailure (s : State) {k} {p} {lane} : exec (.laneFailure k p lane) s = execLaneFailure k p lane s := rfl
theorem exec_receiveTimeout (s : State) {k} {p} : exec (.receiveTimeout k p) s = execReceiveTimeout k p s := rfl
theorem exec_replayLimit (s : State) {k} {p} : exec (.replayLimit k p) s = execReplayLimit k p s := rfl
theorem exec_downRetry (s : State) {k} {p} : exec (.downRetry k p) s = execDownRetry k p s := rfl
theorem exec_flitReceive (s : State) {p} {raw} : exec (.flitReceive p raw) s = execFlitReceive p raw s := rfl
theorem exec_frameReceive (s : State) {p} {peer} {raw} : exec (.frameReceive p peer raw) s = execFrameReceive p peer raw s := rfl
theorem exec_frameResend (s : State) {peer} {pseq} : exec (.frameResend peer pseq) s = execFrameResend peer pseq s := rfl
theorem exec_remoteRequest (s : State) {f} {p} : exec (.remoteRequest f p) s = execRemoteRequest f p s := rfl
theorem exec_remoteResponse (s : State) {f} : exec (.remoteResponse f) s = execRemoteResponse f s := rfl
theorem exec_remoteFailover (s : State) {dst} : exec (.remoteFailover dst) s = execRemoteFailover dst s := rfl
theorem exec_remoteTimeout (s : State) {tx} : exec (.remoteTimeout tx) s = execRemoteTimeout tx s := rfl
theorem exec_killComplete (s : State) {ctx} : exec (.killComplete ctx) s = execKillComplete ctx s := rfl
theorem exec_packetLaunch (s : State) {q} {regions} : exec (.packetLaunch q regions) s = execPacketLaunch q regions s := rfl
theorem exec_packetCopy (s : State) {q} : exec (.packetCopy q) s = execPacketCopy q s := rfl
theorem exec_copyDone (s : State) {q} : exec (.copyDone q) s = execCopyDone q s := rfl
theorem exec_packetEvent (s : State) {q} : exec (.packetEvent q) s = execPacketEvent q s := rfl
theorem exec_packetNop (s : State) {q} : exec (.packetNop q) s = execPacketNop q s := rfl
theorem exec_poolDispatch (s : State) {q} {regions} : exec (.poolDispatch q regions) s = execPoolDispatch q regions s := rfl
theorem exec_preempt (s : State) {part} : exec (.preempt part) s = execPreempt part s := rfl
theorem exec_deficitExpiry (s : State) {part} : exec (.deficitExpiry part) s = execDeficitExpiry part s := rfl
theorem exec_freeze (s : State) {inst} : exec (.freeze inst) s = execFreeze inst s := rfl
theorem exec_saveDone (s : State) {inst} : exec (.saveDone inst) s = execSaveDone inst s := rfl
theorem exec_resume (s : State) {inst} {regions} : exec (.resume inst regions) s = execResume inst regions s := rfl
theorem exec_retire (s : State) {inst} : exec (.retire inst) s = execRetire inst s := rfl
theorem exec_faultDomainAction (s : State) {r} : exec (.faultDomainAction r) s = execFaultDomainAction r s := rfl
theorem exec_watchdog (s : State) {q} : exec (.watchdog q) s = execWatchdog q s := rfl
theorem exec_queueUnpause (s : State) {q} : exec (.queueUnpause q) s = execQueueUnpause q s := rfl
theorem exec_windowBoundary (s : State) {inst} : exec (.windowBoundary inst) s = execWindowBoundary inst s := rfl
theorem exec_rewireStart (s : State) {inst} : exec (.rewireStart inst) s = execRewireStart inst s := rfl
theorem exec_nodeSwitch (s : State) {inst} {node} : exec (.nodeSwitch inst node) s = execNodeSwitch inst node s := rfl
theorem exec_switchOrphan (s : State) {r} {rank} : exec (.switchOrphan r rank) s = execSwitchOrphan r rank s := rfl
theorem exec_splitterDeal (s : State) {inst} {arc} : exec (.splitterDeal inst arc) s = execSplitterDeal inst arc s := rfl
theorem exec_reorderMergeEmit (s : State) {inst} {node} {port} : exec (.reorderMergeEmit inst node port) s = execReorderMergeEmit inst node port s := rfl
theorem exec_containmentReplay (s : State) {r} {rank} {agree} : exec (.containmentReplay r rank agree) s = execContainmentReplay r rank agree s := rfl
theorem exec_spareMove (s : State) {r} {rank} : exec (.spareMove r rank) s = execSpareMove r rank s := rfl
theorem exec_islandRerun (s : State) {r} {isl} {agree} : exec (.islandRerun r isl agree) s = execIslandRerun r isl agree s := rfl
theorem exec_l2Scrub (s : State) {slice} {set} {way} {found} : exec (.l2Scrub slice set way found) s = execL2Scrub slice set way found s := rfl
theorem exec_hbmScrub (s : State) {addr} {found} : exec (.hbmScrub addr found) s = execHbmScrub addr found s := rfl
theorem exec_checkpointPhaseEnd (s : State) {n} : exec (.checkpointPhaseEnd n) s = execCheckpointPhaseEnd n s := rfl
theorem exec_hostWindowAccess (s : State) {off} {acc} : exec (.hostWindowAccess off acc) s = execHostWindowAccess off acc s := rfl
theorem exec_vfWindowAccess (s : State) {vf} {off} {acc} : exec (.vfWindowAccess vf off acc) s = execVfWindowAccess vf off acc s := rfl
theorem exec_registerWrite (s : State) {off} {v} : exec (.registerWrite off v) s = execRegisterWrite off v s := rfl
theorem exec_keySlotFill (s : State) {slot} {vf} {key} : exec (.keySlotFill slot vf key) s = execKeySlotFill slot vf key s := rfl
theorem exec_tdiExit (s : State) {vf} : exec (.tdiExit vf) s = execTdiExit vf s := rfl
theorem exec_getMeasurements (s : State) {fn} : exec (.getMeasurements fn) s = execGetMeasurements fn s := rfl
theorem exec_firmwareStage (s : State) {img} : exec (.firmwareStage img) s = execFirmwareStage img s := rfl
theorem exec_perstRelease (s : State) {b} : exec (.perstRelease b) s = execPerstRelease b s := rfl
theorem exec_shdn (s : State) : exec (.shdn) s = execShdn s := rfl
theorem exec_thermtrip (s : State) {tmax} : exec (.thermtrip tmax) s = execThermtrip tmax s := rfl
theorem exec_energyRefill (s : State) {tmax} {watts} : exec (.energyRefill tmax watts) s = execEnergyRefill tmax watts s := rfl
theorem exec_wfiComplete (s : State) {r} : exec (.wfiComplete r) s = execWfiComplete r s := rfl
theorem exec_perstAssert (s : State) : exec (.perstAssert) s = execPerstAssert s := rfl
theorem exec_pwrgd (s : State) {up} : exec (.pwrgd up) s = execPwrgd up s := rfl

end Sys2Proof.Machine
end

