-- ==== Sys2Proof/Laws/State.lean ====
section
/-!
SUPPORT. The state after each of its updates, field by field: the named updates of Machine/Ops.lean change the field
they are named after, and no other.
-/
namespace Sys2Proof.Machine.State

/-! ### modCond -/

section
variable (s : State) (r : Nat) (f : Conductor → Conductor)

@[simp] theorem modCond_agenda : (s.modCond r f).agenda = s.agenda := rfl
@[simp] theorem modCond_cur : (s.modCond r f).cur = s.cur := rfl
@[simp] theorem modCond_fresh : (s.modCond r f).fresh = s.fresh := rfl
@[simp] theorem modCond_clk : (s.modCond r f).clk = s.clk := rfl
@[simp] theorem modCond_resetAt : (s.modCond r f).resetAt = s.resetAt := rfl
@[simp] theorem modCond_stepping : (s.modCond r f).stepping = s.stepping := rfl
@[simp] theorem modCond_devId : (s.modCond r f).devId = s.devId := rfl
@[simp] theorem modCond_pins : (s.modCond r f).pins = s.pins := rfl
@[simp] theorem modCond_boot : (s.modCond r f).boot = s.boot := rfl
@[simp] theorem modCond_store : (s.modCond r f).store = s.store := rfl
@[simp] theorem modCond_regs : (s.modCond r f).regs = s.regs := rfl
@[simp] theorem modCond_stopped : (s.modCond r f).stopped = s.stopped := rfl
@[simp] theorem modCond_mem : (s.modCond r f).mem = s.mem := rfl
@[simp] theorem modCond_poison : (s.modCond r f).poison = s.poison := rfl
@[simp] theorem modCond_latent : (s.modCond r f).latent = s.latent := rfl
@[simp] theorem modCond_spad : (s.modCond r f).spad = s.spad := rfl
@[simp] theorem modCond_spadPoison : (s.modCond r f).spadPoison = s.spadPoison := rfl
@[simp] theorem modCond_spadHigh : (s.modCond r f).spadHigh = s.spadHigh := rfl
@[simp] theorem modCond_tlb : (s.modCond r f).tlb = s.tlb := rfl
@[simp] theorem modCond_dieTlb : (s.modCond r f).dieTlb = s.dieTlb := rfl
@[simp] theorem modCond_walksWaiting : (s.modCond r f).walksWaiting = s.walksWaiting := rfl
@[simp] theorem modCond_l2 : (s.modCond r f).l2 = s.l2 := rfl
@[simp] theorem modCond_l2ways : (s.modCond r f).l2ways = s.l2ways := rfl
@[simp] theorem modCond_retiring : (s.modCond r f).retiring = s.retiring := rfl
@[simp] theorem modCond_mergeRecs : (s.modCond r f).mergeRecs = s.mergeRecs := rfl
@[simp] theorem modCond_slices : (s.modCond r f).slices = s.slices := rfl
@[simp] theorem modCond_conds : (s.modCond r f).conds = s.conds.modify r f := rfl
@[simp] theorem modCond_energy : (s.modCond r f).energy = s.energy := rfl
@[simp] theorem modCond_lastRefill : (s.modCond r f).lastRefill = s.lastRefill := rfl
@[simp] theorem modCond_refillAt : (s.modCond r f).refillAt = s.refillAt := rfl
@[simp] theorem modCond_gain : (s.modCond r f).gain = s.gain := rfl
@[simp] theorem modCond_gainAt : (s.modCond r f).gainAt = s.gainAt := rfl
@[simp] theorem modCond_facets : (s.modCond r f).facets = s.facets := rfl
@[simp] theorem modCond_islands : (s.modCond r f).islands = s.islands := rfl
@[simp] theorem modCond_engines : (s.modCond r f).engines = s.engines := rfl
@[simp] theorem modCond_arcs : (s.modCond r f).arcs = s.arcs := rfl
@[simp] theorem modCond_merges : (s.modCond r f).merges = s.merges := rfl
@[simp] theorem modCond_splitters : (s.modCond r f).splitters = s.splitters := rfl
@[simp] theorem modCond_ceases : (s.modCond r f).ceases = s.ceases := rfl
@[simp] theorem modCond_insts : (s.modCond r f).insts = s.insts := rfl
@[simp] theorem modCond_nextInst : (s.modCond r f).nextInst = s.nextInst := rfl
@[simp] theorem modCond_handles : (s.modCond r f).handles = s.handles := rfl
@[simp] theorem modCond_gens : (s.modCond r f).gens = s.gens := rfl
@[simp] theorem modCond_streams : (s.modCond r f).streams = s.streams := rfl
@[simp] theorem modCond_chords : (s.modCond r f).chords = s.chords := rfl
@[simp] theorem modCond_nextPut : (s.modCond r f).nextPut = s.nextPut := rfl
@[simp] theorem modCond_resvs : (s.modCond r f).resvs = s.resvs := rfl
@[simp] theorem modCond_txns : (s.modCond r f).txns = s.txns := rfl
@[simp] theorem modCond_nextTx : (s.modCond r f).nextTx = s.nextTx := rfl
@[simp] theorem modCond_performed : (s.modCond r f).performed = s.performed := rfl
@[simp] theorem modCond_sup : (s.modCond r f).sup = s.sup := rfl
@[simp] theorem modCond_sop : (s.modCond r f).sop = s.sop := rfl
@[simp] theorem modCond_peers : (s.modCond r f).peers = s.peers := rfl
@[simp] theorem modCond_outbox : (s.modCond r f).outbox = s.outbox := rfl
@[simp] theorem modCond_replies : (s.modCond r f).replies = s.replies := rfl
@[simp] theorem modCond_heard : (s.modCond r f).heard = s.heard := rfl
@[simp] theorem modCond_domPath : (s.modCond r f).domPath = s.domPath := rfl
@[simp] theorem modCond_tracked : (s.modCond r f).tracked = s.tracked := rfl
@[simp] theorem modCond_acted : (s.modCond r f).acted = s.acted := rfl
@[simp] theorem modCond_ptrs : (s.modCond r f).ptrs = s.ptrs := rfl
@[simp] theorem modCond_hb : (s.modCond r f).hb = s.hb := rfl
@[simp] theorem modCond_writeRels : (s.modCond r f).writeRels = s.writeRels := rfl
@[simp] theorem modCond_parts : (s.modCond r f).parts = s.parts := rfl
@[simp] theorem modCond_ctxs : (s.modCond r f).ctxs = s.ctxs := rfl
@[simp] theorem modCond_queues : (s.modCond r f).queues = s.queues := rfl
@[simp] theorem modCond_pool : (s.modCond r f).pool = s.pool := rfl
@[simp] theorem modCond_poolGone : (s.modCond r f).poolGone = s.poolGone := rfl
@[simp] theorem modCond_errPf : (s.modCond r f).errPf = s.errPf := rfl
@[simp] theorem modCond_errPart : (s.modCond r f).errPart = s.errPart := rfl
@[simp] theorem modCond_checks : (s.modCond r f).checks = s.checks := rfl
@[simp] theorem modCond_keys : (s.modCond r f).keys = s.keys := rfl
@[simp] theorem modCond_tdis : (s.modCond r f).tdis = s.tdis := rfl
@[simp] theorem modCond_facetErrs : (s.modCond r f).facetErrs = s.facetErrs := rfl
@[simp] theorem modCond_digests : (s.modCond r f).digests = s.digests := rfl
@[simp] theorem modCond_interrupts : (s.modCond r f).interrupts = s.interrupts := rfl
@[simp] theorem modCond_hostReplies : (s.modCond r f).hostReplies = s.hostReplies := rfl
@[simp] theorem modCond_hostReqs : (s.modCond r f).hostReqs = s.hostReqs := rfl
@[simp] theorem modCond_cfgCache : (s.modCond r f).cfgCache = s.cfgCache := rfl

end

/-! ### modInst -/

section
variable (s : State) (id : Nat) (f : Inst → Inst)

@[simp] theorem modInst_agenda : (s.modInst id f).agenda = s.agenda := rfl
@[simp] theorem modInst_cur : (s.modInst id f).cur = s.cur := rfl
@[simp] theorem modInst_fresh : (s.modInst id f).fresh = s.fresh := rfl
@[simp] theorem modInst_clk : (s.modInst id f).clk = s.clk := rfl
@[simp] theorem modInst_resetAt : (s.modInst id f).resetAt = s.resetAt := rfl
@[simp] theorem modInst_stepping : (s.modInst id f).stepping = s.stepping := rfl
@[simp] theorem modInst_devId : (s.modInst id f).devId = s.devId := rfl
@[simp] theorem modInst_pins : (s.modInst id f).pins = s.pins := rfl
@[simp] theorem modInst_boot : (s.modInst id f).boot = s.boot := rfl
@[simp] theorem modInst_store : (s.modInst id f).store = s.store := rfl
@[simp] theorem modInst_regs : (s.modInst id f).regs = s.regs := rfl
@[simp] theorem modInst_stopped : (s.modInst id f).stopped = s.stopped := rfl
@[simp] theorem modInst_mem : (s.modInst id f).mem = s.mem := rfl
@[simp] theorem modInst_poison : (s.modInst id f).poison = s.poison := rfl
@[simp] theorem modInst_latent : (s.modInst id f).latent = s.latent := rfl
@[simp] theorem modInst_spad : (s.modInst id f).spad = s.spad := rfl
@[simp] theorem modInst_spadPoison : (s.modInst id f).spadPoison = s.spadPoison := rfl
@[simp] theorem modInst_spadHigh : (s.modInst id f).spadHigh = s.spadHigh := rfl
@[simp] theorem modInst_tlb : (s.modInst id f).tlb = s.tlb := rfl
@[simp] theorem modInst_dieTlb : (s.modInst id f).dieTlb = s.dieTlb := rfl
@[simp] theorem modInst_walksWaiting : (s.modInst id f).walksWaiting = s.walksWaiting := rfl
@[simp] theorem modInst_l2 : (s.modInst id f).l2 = s.l2 := rfl
@[simp] theorem modInst_l2ways : (s.modInst id f).l2ways = s.l2ways := rfl
@[simp] theorem modInst_retiring : (s.modInst id f).retiring = s.retiring := rfl
@[simp] theorem modInst_mergeRecs : (s.modInst id f).mergeRecs = s.mergeRecs := rfl
@[simp] theorem modInst_slices : (s.modInst id f).slices = s.slices := rfl
@[simp] theorem modInst_conds : (s.modInst id f).conds = s.conds := rfl
@[simp] theorem modInst_energy : (s.modInst id f).energy = s.energy := rfl
@[simp] theorem modInst_lastRefill : (s.modInst id f).lastRefill = s.lastRefill := rfl
@[simp] theorem modInst_refillAt : (s.modInst id f).refillAt = s.refillAt := rfl
@[simp] theorem modInst_gain : (s.modInst id f).gain = s.gain := rfl
@[simp] theorem modInst_gainAt : (s.modInst id f).gainAt = s.gainAt := rfl
@[simp] theorem modInst_facets : (s.modInst id f).facets = s.facets := rfl
@[simp] theorem modInst_islands : (s.modInst id f).islands = s.islands := rfl
@[simp] theorem modInst_engines : (s.modInst id f).engines = s.engines := rfl
@[simp] theorem modInst_arcs : (s.modInst id f).arcs = s.arcs := rfl
@[simp] theorem modInst_merges : (s.modInst id f).merges = s.merges := rfl
@[simp] theorem modInst_splitters : (s.modInst id f).splitters = s.splitters := rfl
@[simp] theorem modInst_ceases : (s.modInst id f).ceases = s.ceases := rfl
@[simp] theorem modInst_insts : (s.modInst id f).insts = s.insts.map fun i => if i.id = id then f i else i := rfl
@[simp] theorem modInst_nextInst : (s.modInst id f).nextInst = s.nextInst := rfl
@[simp] theorem modInst_handles : (s.modInst id f).handles = s.handles := rfl
@[simp] theorem modInst_gens : (s.modInst id f).gens = s.gens := rfl
@[simp] theorem modInst_streams : (s.modInst id f).streams = s.streams := rfl
@[simp] theorem modInst_chords : (s.modInst id f).chords = s.chords := rfl
@[simp] theorem modInst_nextPut : (s.modInst id f).nextPut = s.nextPut := rfl
@[simp] theorem modInst_resvs : (s.modInst id f).resvs = s.resvs := rfl
@[simp] theorem modInst_txns : (s.modInst id f).txns = s.txns := rfl
@[simp] theorem modInst_nextTx : (s.modInst id f).nextTx = s.nextTx := rfl
@[simp] theorem modInst_performed : (s.modInst id f).performed = s.performed := rfl
@[simp] theorem modInst_sup : (s.modInst id f).sup = s.sup := rfl
@[simp] theorem modInst_sop : (s.modInst id f).sop = s.sop := rfl
@[simp] theorem modInst_peers : (s.modInst id f).peers = s.peers := rfl
@[simp] theorem modInst_outbox : (s.modInst id f).outbox = s.outbox := rfl
@[simp] theorem modInst_replies : (s.modInst id f).replies = s.replies := rfl
@[simp] theorem modInst_heard : (s.modInst id f).heard = s.heard := rfl
@[simp] theorem modInst_domPath : (s.modInst id f).domPath = s.domPath := rfl
@[simp] theorem modInst_tracked : (s.modInst id f).tracked = s.tracked := rfl
@[simp] theorem modInst_acted : (s.modInst id f).acted = s.acted := rfl
@[simp] theorem modInst_ptrs : (s.modInst id f).ptrs = s.ptrs := rfl
@[simp] theorem modInst_hb : (s.modInst id f).hb = s.hb := rfl
@[simp] theorem modInst_writeRels : (s.modInst id f).writeRels = s.writeRels := rfl
@[simp] theorem modInst_parts : (s.modInst id f).parts = s.parts := rfl
@[simp] theorem modInst_ctxs : (s.modInst id f).ctxs = s.ctxs := rfl
@[simp] theorem modInst_queues : (s.modInst id f).queues = s.queues := rfl
@[simp] theorem modInst_pool : (s.modInst id f).pool = s.pool := rfl
@[simp] theorem modInst_poolGone : (s.modInst id f).poolGone = s.poolGone := rfl
@[simp] theorem modInst_errPf : (s.modInst id f).errPf = s.errPf := rfl
@[simp] theorem modInst_errPart : (s.modInst id f).errPart = s.errPart := rfl
@[simp] theorem modInst_checks : (s.modInst id f).checks = s.checks := rfl
@[simp] theorem modInst_keys : (s.modInst id f).keys = s.keys := rfl
@[simp] theorem modInst_tdis : (s.modInst id f).tdis = s.tdis := rfl
@[simp] theorem modInst_facetErrs : (s.modInst id f).facetErrs = s.facetErrs := rfl
@[simp] theorem modInst_digests : (s.modInst id f).digests = s.digests := rfl
@[simp] theorem modInst_interrupts : (s.modInst id f).interrupts = s.interrupts := rfl
@[simp] theorem modInst_hostReplies : (s.modInst id f).hostReplies = s.hostReplies := rfl
@[simp] theorem modInst_hostReqs : (s.modInst id f).hostReqs = s.hostReqs := rfl
@[simp] theorem modInst_cfgCache : (s.modInst id f).cfgCache = s.cfgCache := rfl

end

/-! ### modCtx -/

section
variable (s : State) (id : BitVec 12) (f : Context → Context)

@[simp] theorem modCtx_agenda : (s.modCtx id f).agenda = s.agenda := rfl
@[simp] theorem modCtx_cur : (s.modCtx id f).cur = s.cur := rfl
@[simp] theorem modCtx_fresh : (s.modCtx id f).fresh = s.fresh := rfl
@[simp] theorem modCtx_clk : (s.modCtx id f).clk = s.clk := rfl
@[simp] theorem modCtx_resetAt : (s.modCtx id f).resetAt = s.resetAt := rfl
@[simp] theorem modCtx_stepping : (s.modCtx id f).stepping = s.stepping := rfl
@[simp] theorem modCtx_devId : (s.modCtx id f).devId = s.devId := rfl
@[simp] theorem modCtx_pins : (s.modCtx id f).pins = s.pins := rfl
@[simp] theorem modCtx_boot : (s.modCtx id f).boot = s.boot := rfl
@[simp] theorem modCtx_store : (s.modCtx id f).store = s.store := rfl
@[simp] theorem modCtx_regs : (s.modCtx id f).regs = s.regs := rfl
@[simp] theorem modCtx_stopped : (s.modCtx id f).stopped = s.stopped := rfl
@[simp] theorem modCtx_mem : (s.modCtx id f).mem = s.mem := rfl
@[simp] theorem modCtx_poison : (s.modCtx id f).poison = s.poison := rfl
@[simp] theorem modCtx_latent : (s.modCtx id f).latent = s.latent := rfl
@[simp] theorem modCtx_spad : (s.modCtx id f).spad = s.spad := rfl
@[simp] theorem modCtx_spadPoison : (s.modCtx id f).spadPoison = s.spadPoison := rfl
@[simp] theorem modCtx_spadHigh : (s.modCtx id f).spadHigh = s.spadHigh := rfl
@[simp] theorem modCtx_tlb : (s.modCtx id f).tlb = s.tlb := rfl
@[simp] theorem modCtx_dieTlb : (s.modCtx id f).dieTlb = s.dieTlb := rfl
@[simp] theorem modCtx_walksWaiting : (s.modCtx id f).walksWaiting = s.walksWaiting := rfl
@[simp] theorem modCtx_l2 : (s.modCtx id f).l2 = s.l2 := rfl
@[simp] theorem modCtx_l2ways : (s.modCtx id f).l2ways = s.l2ways := rfl
@[simp] theorem modCtx_retiring : (s.modCtx id f).retiring = s.retiring := rfl
@[simp] theorem modCtx_mergeRecs : (s.modCtx id f).mergeRecs = s.mergeRecs := rfl
@[simp] theorem modCtx_slices : (s.modCtx id f).slices = s.slices := rfl
@[simp] theorem modCtx_conds : (s.modCtx id f).conds = s.conds := rfl
@[simp] theorem modCtx_energy : (s.modCtx id f).energy = s.energy := rfl
@[simp] theorem modCtx_lastRefill : (s.modCtx id f).lastRefill = s.lastRefill := rfl
@[simp] theorem modCtx_refillAt : (s.modCtx id f).refillAt = s.refillAt := rfl
@[simp] theorem modCtx_gain : (s.modCtx id f).gain = s.gain := rfl
@[simp] theorem modCtx_gainAt : (s.modCtx id f).gainAt = s.gainAt := rfl
@[simp] theorem modCtx_facets : (s.modCtx id f).facets = s.facets := rfl
@[simp] theorem modCtx_islands : (s.modCtx id f).islands = s.islands := rfl
@[simp] theorem modCtx_engines : (s.modCtx id f).engines = s.engines := rfl
@[simp] theorem modCtx_arcs : (s.modCtx id f).arcs = s.arcs := rfl
@[simp] theorem modCtx_merges : (s.modCtx id f).merges = s.merges := rfl
@[simp] theorem modCtx_splitters : (s.modCtx id f).splitters = s.splitters := rfl
@[simp] theorem modCtx_ceases : (s.modCtx id f).ceases = s.ceases := rfl
@[simp] theorem modCtx_insts : (s.modCtx id f).insts = s.insts := rfl
@[simp] theorem modCtx_nextInst : (s.modCtx id f).nextInst = s.nextInst := rfl
@[simp] theorem modCtx_handles : (s.modCtx id f).handles = s.handles := rfl
@[simp] theorem modCtx_gens : (s.modCtx id f).gens = s.gens := rfl
@[simp] theorem modCtx_streams : (s.modCtx id f).streams = s.streams := rfl
@[simp] theorem modCtx_chords : (s.modCtx id f).chords = s.chords := rfl
@[simp] theorem modCtx_nextPut : (s.modCtx id f).nextPut = s.nextPut := rfl
@[simp] theorem modCtx_resvs : (s.modCtx id f).resvs = s.resvs := rfl
@[simp] theorem modCtx_txns : (s.modCtx id f).txns = s.txns := rfl
@[simp] theorem modCtx_nextTx : (s.modCtx id f).nextTx = s.nextTx := rfl
@[simp] theorem modCtx_performed : (s.modCtx id f).performed = s.performed := rfl
@[simp] theorem modCtx_sup : (s.modCtx id f).sup = s.sup := rfl
@[simp] theorem modCtx_sop : (s.modCtx id f).sop = s.sop := rfl
@[simp] theorem modCtx_peers : (s.modCtx id f).peers = s.peers := rfl
@[simp] theorem modCtx_outbox : (s.modCtx id f).outbox = s.outbox := rfl
@[simp] theorem modCtx_replies : (s.modCtx id f).replies = s.replies := rfl
@[simp] theorem modCtx_heard : (s.modCtx id f).heard = s.heard := rfl
@[simp] theorem modCtx_domPath : (s.modCtx id f).domPath = s.domPath := rfl
@[simp] theorem modCtx_tracked : (s.modCtx id f).tracked = s.tracked := rfl
@[simp] theorem modCtx_acted : (s.modCtx id f).acted = s.acted := rfl
@[simp] theorem modCtx_ptrs : (s.modCtx id f).ptrs = s.ptrs := rfl
@[simp] theorem modCtx_hb : (s.modCtx id f).hb = s.hb := rfl
@[simp] theorem modCtx_writeRels : (s.modCtx id f).writeRels = s.writeRels := rfl
@[simp] theorem modCtx_parts : (s.modCtx id f).parts = s.parts := rfl
@[simp] theorem modCtx_ctxs : (s.modCtx id f).ctxs = s.ctxs.map fun c => if c.id = id then f c else c := rfl
@[simp] theorem modCtx_queues : (s.modCtx id f).queues = s.queues := rfl
@[simp] theorem modCtx_pool : (s.modCtx id f).pool = s.pool := rfl
@[simp] theorem modCtx_poolGone : (s.modCtx id f).poolGone = s.poolGone := rfl
@[simp] theorem modCtx_errPf : (s.modCtx id f).errPf = s.errPf := rfl
@[simp] theorem modCtx_errPart : (s.modCtx id f).errPart = s.errPart := rfl
@[simp] theorem modCtx_checks : (s.modCtx id f).checks = s.checks := rfl
@[simp] theorem modCtx_keys : (s.modCtx id f).keys = s.keys := rfl
@[simp] theorem modCtx_tdis : (s.modCtx id f).tdis = s.tdis := rfl
@[simp] theorem modCtx_facetErrs : (s.modCtx id f).facetErrs = s.facetErrs := rfl
@[simp] theorem modCtx_digests : (s.modCtx id f).digests = s.digests := rfl
@[simp] theorem modCtx_interrupts : (s.modCtx id f).interrupts = s.interrupts := rfl
@[simp] theorem modCtx_hostReplies : (s.modCtx id f).hostReplies = s.hostReplies := rfl
@[simp] theorem modCtx_hostReqs : (s.modCtx id f).hostReqs = s.hostReqs := rfl
@[simp] theorem modCtx_cfgCache : (s.modCtx id f).cfgCache = s.cfgCache := rfl

end

/-! ### modQueue -/

section
variable (s : State) (n : Nat) (f : Queue → Queue)

@[simp] theorem modQueue_agenda : (s.modQueue n f).agenda = s.agenda := rfl
@[simp] theorem modQueue_cur : (s.modQueue n f).cur = s.cur := rfl
@[simp] theorem modQueue_fresh : (s.modQueue n f).fresh = s.fresh := rfl
@[simp] theorem modQueue_clk : (s.modQueue n f).clk = s.clk := rfl
@[simp] theorem modQueue_resetAt : (s.modQueue n f).resetAt = s.resetAt := rfl
@[simp] theorem modQueue_stepping : (s.modQueue n f).stepping = s.stepping := rfl
@[simp] theorem modQueue_devId : (s.modQueue n f).devId = s.devId := rfl
@[simp] theorem modQueue_pins : (s.modQueue n f).pins = s.pins := rfl
@[simp] theorem modQueue_boot : (s.modQueue n f).boot = s.boot := rfl
@[simp] theorem modQueue_store : (s.modQueue n f).store = s.store := rfl
@[simp] theorem modQueue_regs : (s.modQueue n f).regs = s.regs := rfl
@[simp] theorem modQueue_stopped : (s.modQueue n f).stopped = s.stopped := rfl
@[simp] theorem modQueue_mem : (s.modQueue n f).mem = s.mem := rfl
@[simp] theorem modQueue_poison : (s.modQueue n f).poison = s.poison := rfl
@[simp] theorem modQueue_latent : (s.modQueue n f).latent = s.latent := rfl
@[simp] theorem modQueue_spad : (s.modQueue n f).spad = s.spad := rfl
@[simp] theorem modQueue_spadPoison : (s.modQueue n f).spadPoison = s.spadPoison := rfl
@[simp] theorem modQueue_spadHigh : (s.modQueue n f).spadHigh = s.spadHigh := rfl
@[simp] theorem modQueue_tlb : (s.modQueue n f).tlb = s.tlb := rfl
@[simp] theorem modQueue_dieTlb : (s.modQueue n f).dieTlb = s.dieTlb := rfl
@[simp] theorem modQueue_walksWaiting : (s.modQueue n f).walksWaiting = s.walksWaiting := rfl
@[simp] theorem modQueue_l2 : (s.modQueue n f).l2 = s.l2 := rfl
@[simp] theorem modQueue_l2ways : (s.modQueue n f).l2ways = s.l2ways := rfl
@[simp] theorem modQueue_retiring : (s.modQueue n f).retiring = s.retiring := rfl
@[simp] theorem modQueue_mergeRecs : (s.modQueue n f).mergeRecs = s.mergeRecs := rfl
@[simp] theorem modQueue_slices : (s.modQueue n f).slices = s.slices := rfl
@[simp] theorem modQueue_conds : (s.modQueue n f).conds = s.conds := rfl
@[simp] theorem modQueue_energy : (s.modQueue n f).energy = s.energy := rfl
@[simp] theorem modQueue_lastRefill : (s.modQueue n f).lastRefill = s.lastRefill := rfl
@[simp] theorem modQueue_refillAt : (s.modQueue n f).refillAt = s.refillAt := rfl
@[simp] theorem modQueue_gain : (s.modQueue n f).gain = s.gain := rfl
@[simp] theorem modQueue_gainAt : (s.modQueue n f).gainAt = s.gainAt := rfl
@[simp] theorem modQueue_facets : (s.modQueue n f).facets = s.facets := rfl
@[simp] theorem modQueue_islands : (s.modQueue n f).islands = s.islands := rfl
@[simp] theorem modQueue_engines : (s.modQueue n f).engines = s.engines := rfl
@[simp] theorem modQueue_arcs : (s.modQueue n f).arcs = s.arcs := rfl
@[simp] theorem modQueue_merges : (s.modQueue n f).merges = s.merges := rfl
@[simp] theorem modQueue_splitters : (s.modQueue n f).splitters = s.splitters := rfl
@[simp] theorem modQueue_ceases : (s.modQueue n f).ceases = s.ceases := rfl
@[simp] theorem modQueue_insts : (s.modQueue n f).insts = s.insts := rfl
@[simp] theorem modQueue_nextInst : (s.modQueue n f).nextInst = s.nextInst := rfl
@[simp] theorem modQueue_handles : (s.modQueue n f).handles = s.handles := rfl
@[simp] theorem modQueue_gens : (s.modQueue n f).gens = s.gens := rfl
@[simp] theorem modQueue_streams : (s.modQueue n f).streams = s.streams := rfl
@[simp] theorem modQueue_chords : (s.modQueue n f).chords = s.chords := rfl
@[simp] theorem modQueue_nextPut : (s.modQueue n f).nextPut = s.nextPut := rfl
@[simp] theorem modQueue_resvs : (s.modQueue n f).resvs = s.resvs := rfl
@[simp] theorem modQueue_txns : (s.modQueue n f).txns = s.txns := rfl
@[simp] theorem modQueue_nextTx : (s.modQueue n f).nextTx = s.nextTx := rfl
@[simp] theorem modQueue_performed : (s.modQueue n f).performed = s.performed := rfl
@[simp] theorem modQueue_sup : (s.modQueue n f).sup = s.sup := rfl
@[simp] theorem modQueue_sop : (s.modQueue n f).sop = s.sop := rfl
@[simp] theorem modQueue_peers : (s.modQueue n f).peers = s.peers := rfl
@[simp] theorem modQueue_outbox : (s.modQueue n f).outbox = s.outbox := rfl
@[simp] theorem modQueue_replies : (s.modQueue n f).replies = s.replies := rfl
@[simp] theorem modQueue_heard : (s.modQueue n f).heard = s.heard := rfl
@[simp] theorem modQueue_domPath : (s.modQueue n f).domPath = s.domPath := rfl
@[simp] theorem modQueue_tracked : (s.modQueue n f).tracked = s.tracked := rfl
@[simp] theorem modQueue_acted : (s.modQueue n f).acted = s.acted := rfl
@[simp] theorem modQueue_ptrs : (s.modQueue n f).ptrs = s.ptrs := rfl
@[simp] theorem modQueue_hb : (s.modQueue n f).hb = s.hb := rfl
@[simp] theorem modQueue_writeRels : (s.modQueue n f).writeRels = s.writeRels := rfl
@[simp] theorem modQueue_parts : (s.modQueue n f).parts = s.parts := rfl
@[simp] theorem modQueue_ctxs : (s.modQueue n f).ctxs = s.ctxs := rfl
@[simp] theorem modQueue_queues : (s.modQueue n f).queues = s.queues.map fun q => if q.num = n then f q else q := rfl
@[simp] theorem modQueue_pool : (s.modQueue n f).pool = s.pool := rfl
@[simp] theorem modQueue_poolGone : (s.modQueue n f).poolGone = s.poolGone := rfl
@[simp] theorem modQueue_errPf : (s.modQueue n f).errPf = s.errPf := rfl
@[simp] theorem modQueue_errPart : (s.modQueue n f).errPart = s.errPart := rfl
@[simp] theorem modQueue_checks : (s.modQueue n f).checks = s.checks := rfl
@[simp] theorem modQueue_keys : (s.modQueue n f).keys = s.keys := rfl
@[simp] theorem modQueue_tdis : (s.modQueue n f).tdis = s.tdis := rfl
@[simp] theorem modQueue_facetErrs : (s.modQueue n f).facetErrs = s.facetErrs := rfl
@[simp] theorem modQueue_digests : (s.modQueue n f).digests = s.digests := rfl
@[simp] theorem modQueue_interrupts : (s.modQueue n f).interrupts = s.interrupts := rfl
@[simp] theorem modQueue_hostReplies : (s.modQueue n f).hostReplies = s.hostReplies := rfl
@[simp] theorem modQueue_hostReqs : (s.modQueue n f).hostReqs = s.hostReqs := rfl
@[simp] theorem modQueue_cfgCache : (s.modQueue n f).cfgCache = s.cfgCache := rfl

end

/-! ### modPart -/

section
variable (s : State) (id : Nat) (f : Partition → Partition)

@[simp] theorem modPart_agenda : (s.modPart id f).agenda = s.agenda := rfl
@[simp] theorem modPart_cur : (s.modPart id f).cur = s.cur := rfl
@[simp] theorem modPart_fresh : (s.modPart id f).fresh = s.fresh := rfl
@[simp] theorem modPart_clk : (s.modPart id f).clk = s.clk := rfl
@[simp] theorem modPart_resetAt : (s.modPart id f).resetAt = s.resetAt := rfl
@[simp] theorem modPart_stepping : (s.modPart id f).stepping = s.stepping := rfl
@[simp] theorem modPart_devId : (s.modPart id f).devId = s.devId := rfl
@[simp] theorem modPart_pins : (s.modPart id f).pins = s.pins := rfl
@[simp] theorem modPart_boot : (s.modPart id f).boot = s.boot := rfl
@[simp] theorem modPart_store : (s.modPart id f).store = s.store := rfl
@[simp] theorem modPart_regs : (s.modPart id f).regs = s.regs := rfl
@[simp] theorem modPart_stopped : (s.modPart id f).stopped = s.stopped := rfl
@[simp] theorem modPart_mem : (s.modPart id f).mem = s.mem := rfl
@[simp] theorem modPart_poison : (s.modPart id f).poison = s.poison := rfl
@[simp] theorem modPart_latent : (s.modPart id f).latent = s.latent := rfl
@[simp] theorem modPart_spad : (s.modPart id f).spad = s.spad := rfl
@[simp] theorem modPart_spadPoison : (s.modPart id f).spadPoison = s.spadPoison := rfl
@[simp] theorem modPart_spadHigh : (s.modPart id f).spadHigh = s.spadHigh := rfl
@[simp] theorem modPart_tlb : (s.modPart id f).tlb = s.tlb := rfl
@[simp] theorem modPart_dieTlb : (s.modPart id f).dieTlb = s.dieTlb := rfl
@[simp] theorem modPart_walksWaiting : (s.modPart id f).walksWaiting = s.walksWaiting := rfl
@[simp] theorem modPart_l2 : (s.modPart id f).l2 = s.l2 := rfl
@[simp] theorem modPart_l2ways : (s.modPart id f).l2ways = s.l2ways := rfl
@[simp] theorem modPart_retiring : (s.modPart id f).retiring = s.retiring := rfl
@[simp] theorem modPart_mergeRecs : (s.modPart id f).mergeRecs = s.mergeRecs := rfl
@[simp] theorem modPart_slices : (s.modPart id f).slices = s.slices := rfl
@[simp] theorem modPart_conds : (s.modPart id f).conds = s.conds := rfl
@[simp] theorem modPart_energy : (s.modPart id f).energy = s.energy := rfl
@[simp] theorem modPart_lastRefill : (s.modPart id f).lastRefill = s.lastRefill := rfl
@[simp] theorem modPart_refillAt : (s.modPart id f).refillAt = s.refillAt := rfl
@[simp] theorem modPart_gain : (s.modPart id f).gain = s.gain := rfl
@[simp] theorem modPart_gainAt : (s.modPart id f).gainAt = s.gainAt := rfl
@[simp] theorem modPart_facets : (s.modPart id f).facets = s.facets := rfl
@[simp] theorem modPart_islands : (s.modPart id f).islands = s.islands := rfl
@[simp] theorem modPart_engines : (s.modPart id f).engines = s.engines := rfl
@[simp] theorem modPart_arcs : (s.modPart id f).arcs = s.arcs := rfl
@[simp] theorem modPart_merges : (s.modPart id f).merges = s.merges := rfl
@[simp] theorem modPart_splitters : (s.modPart id f).splitters = s.splitters := rfl
@[simp] theorem modPart_ceases : (s.modPart id f).ceases = s.ceases := rfl
@[simp] theorem modPart_insts : (s.modPart id f).insts = s.insts := rfl
@[simp] theorem modPart_nextInst : (s.modPart id f).nextInst = s.nextInst := rfl
@[simp] theorem modPart_handles : (s.modPart id f).handles = s.handles := rfl
@[simp] theorem modPart_gens : (s.modPart id f).gens = s.gens := rfl
@[simp] theorem modPart_streams : (s.modPart id f).streams = s.streams := rfl
@[simp] theorem modPart_chords : (s.modPart id f).chords = s.chords := rfl
@[simp] theorem modPart_nextPut : (s.modPart id f).nextPut = s.nextPut := rfl
@[simp] theorem modPart_resvs : (s.modPart id f).resvs = s.resvs := rfl
@[simp] theorem modPart_txns : (s.modPart id f).txns = s.txns := rfl
@[simp] theorem modPart_nextTx : (s.modPart id f).nextTx = s.nextTx := rfl
@[simp] theorem modPart_performed : (s.modPart id f).performed = s.performed := rfl
@[simp] theorem modPart_sup : (s.modPart id f).sup = s.sup := rfl
@[simp] theorem modPart_sop : (s.modPart id f).sop = s.sop := rfl
@[simp] theorem modPart_peers : (s.modPart id f).peers = s.peers := rfl
@[simp] theorem modPart_outbox : (s.modPart id f).outbox = s.outbox := rfl
@[simp] theorem modPart_replies : (s.modPart id f).replies = s.replies := rfl
@[simp] theorem modPart_heard : (s.modPart id f).heard = s.heard := rfl
@[simp] theorem modPart_domPath : (s.modPart id f).domPath = s.domPath := rfl
@[simp] theorem modPart_tracked : (s.modPart id f).tracked = s.tracked := rfl
@[simp] theorem modPart_acted : (s.modPart id f).acted = s.acted := rfl
@[simp] theorem modPart_ptrs : (s.modPart id f).ptrs = s.ptrs := rfl
@[simp] theorem modPart_hb : (s.modPart id f).hb = s.hb := rfl
@[simp] theorem modPart_writeRels : (s.modPart id f).writeRels = s.writeRels := rfl
@[simp] theorem modPart_parts : (s.modPart id f).parts = s.parts.map fun p => if p.id = id then f p else p := rfl
@[simp] theorem modPart_ctxs : (s.modPart id f).ctxs = s.ctxs := rfl
@[simp] theorem modPart_queues : (s.modPart id f).queues = s.queues := rfl
@[simp] theorem modPart_pool : (s.modPart id f).pool = s.pool := rfl
@[simp] theorem modPart_poolGone : (s.modPart id f).poolGone = s.poolGone := rfl
@[simp] theorem modPart_errPf : (s.modPart id f).errPf = s.errPf := rfl
@[simp] theorem modPart_errPart : (s.modPart id f).errPart = s.errPart := rfl
@[simp] theorem modPart_checks : (s.modPart id f).checks = s.checks := rfl
@[simp] theorem modPart_keys : (s.modPart id f).keys = s.keys := rfl
@[simp] theorem modPart_tdis : (s.modPart id f).tdis = s.tdis := rfl
@[simp] theorem modPart_facetErrs : (s.modPart id f).facetErrs = s.facetErrs := rfl
@[simp] theorem modPart_digests : (s.modPart id f).digests = s.digests := rfl
@[simp] theorem modPart_interrupts : (s.modPart id f).interrupts = s.interrupts := rfl
@[simp] theorem modPart_hostReplies : (s.modPart id f).hostReplies = s.hostReplies := rfl
@[simp] theorem modPart_hostReqs : (s.modPart id f).hostReqs = s.hostReqs := rfl
@[simp] theorem modPart_cfgCache : (s.modPart id f).cfgCache = s.cfgCache := rfl

end

/-! ### modHandle -/

section
variable (s : State) (r h : Nat) (f : Handle → Handle)

@[simp] theorem modHandle_agenda : (s.modHandle r h f).agenda = s.agenda := rfl
@[simp] theorem modHandle_cur : (s.modHandle r h f).cur = s.cur := rfl
@[simp] theorem modHandle_fresh : (s.modHandle r h f).fresh = s.fresh := rfl
@[simp] theorem modHandle_clk : (s.modHandle r h f).clk = s.clk := rfl
@[simp] theorem modHandle_resetAt : (s.modHandle r h f).resetAt = s.resetAt := rfl
@[simp] theorem modHandle_stepping : (s.modHandle r h f).stepping = s.stepping := rfl
@[simp] theorem modHandle_devId : (s.modHandle r h f).devId = s.devId := rfl
@[simp] theorem modHandle_pins : (s.modHandle r h f).pins = s.pins := rfl
@[simp] theorem modHandle_boot : (s.modHandle r h f).boot = s.boot := rfl
@[simp] theorem modHandle_store : (s.modHandle r h f).store = s.store := rfl
@[simp] theorem modHandle_regs : (s.modHandle r h f).regs = s.regs := rfl
@[simp] theorem modHandle_stopped : (s.modHandle r h f).stopped = s.stopped := rfl
@[simp] theorem modHandle_mem : (s.modHandle r h f).mem = s.mem := rfl
@[simp] theorem modHandle_poison : (s.modHandle r h f).poison = s.poison := rfl
@[simp] theorem modHandle_latent : (s.modHandle r h f).latent = s.latent := rfl
@[simp] theorem modHandle_spad : (s.modHandle r h f).spad = s.spad := rfl
@[simp] theorem modHandle_spadPoison : (s.modHandle r h f).spadPoison = s.spadPoison := rfl
@[simp] theorem modHandle_spadHigh : (s.modHandle r h f).spadHigh = s.spadHigh := rfl
@[simp] theorem modHandle_tlb : (s.modHandle r h f).tlb = s.tlb := rfl
@[simp] theorem modHandle_dieTlb : (s.modHandle r h f).dieTlb = s.dieTlb := rfl
@[simp] theorem modHandle_walksWaiting : (s.modHandle r h f).walksWaiting = s.walksWaiting := rfl
@[simp] theorem modHandle_l2 : (s.modHandle r h f).l2 = s.l2 := rfl
@[simp] theorem modHandle_l2ways : (s.modHandle r h f).l2ways = s.l2ways := rfl
@[simp] theorem modHandle_retiring : (s.modHandle r h f).retiring = s.retiring := rfl
@[simp] theorem modHandle_mergeRecs : (s.modHandle r h f).mergeRecs = s.mergeRecs := rfl
@[simp] theorem modHandle_slices : (s.modHandle r h f).slices = s.slices := rfl
@[simp] theorem modHandle_conds : (s.modHandle r h f).conds = s.conds := rfl
@[simp] theorem modHandle_energy : (s.modHandle r h f).energy = s.energy := rfl
@[simp] theorem modHandle_lastRefill : (s.modHandle r h f).lastRefill = s.lastRefill := rfl
@[simp] theorem modHandle_refillAt : (s.modHandle r h f).refillAt = s.refillAt := rfl
@[simp] theorem modHandle_gain : (s.modHandle r h f).gain = s.gain := rfl
@[simp] theorem modHandle_gainAt : (s.modHandle r h f).gainAt = s.gainAt := rfl
@[simp] theorem modHandle_facets : (s.modHandle r h f).facets = s.facets := rfl
@[simp] theorem modHandle_islands : (s.modHandle r h f).islands = s.islands := rfl
@[simp] theorem modHandle_engines : (s.modHandle r h f).engines = s.engines := rfl
@[simp] theorem modHandle_arcs : (s.modHandle r h f).arcs = s.arcs := rfl
@[simp] theorem modHandle_merges : (s.modHandle r h f).merges = s.merges := rfl
@[simp] theorem modHandle_splitters : (s.modHandle r h f).splitters = s.splitters := rfl
@[simp] theorem modHandle_ceases : (s.modHandle r h f).ceases = s.ceases := rfl
@[simp] theorem modHandle_insts : (s.modHandle r h f).insts = s.insts := rfl
@[simp] theorem modHandle_nextInst : (s.modHandle r h f).nextInst = s.nextInst := rfl
@[simp] theorem modHandle_handles : (s.modHandle r h f).handles = s.handles.map fun x => if x.region = r ∧ x.num = h then f x else x := rfl
@[simp] theorem modHandle_gens : (s.modHandle r h f).gens = s.gens := rfl
@[simp] theorem modHandle_streams : (s.modHandle r h f).streams = s.streams := rfl
@[simp] theorem modHandle_chords : (s.modHandle r h f).chords = s.chords := rfl
@[simp] theorem modHandle_nextPut : (s.modHandle r h f).nextPut = s.nextPut := rfl
@[simp] theorem modHandle_resvs : (s.modHandle r h f).resvs = s.resvs := rfl
@[simp] theorem modHandle_txns : (s.modHandle r h f).txns = s.txns := rfl
@[simp] theorem modHandle_nextTx : (s.modHandle r h f).nextTx = s.nextTx := rfl
@[simp] theorem modHandle_performed : (s.modHandle r h f).performed = s.performed := rfl
@[simp] theorem modHandle_sup : (s.modHandle r h f).sup = s.sup := rfl
@[simp] theorem modHandle_sop : (s.modHandle r h f).sop = s.sop := rfl
@[simp] theorem modHandle_peers : (s.modHandle r h f).peers = s.peers := rfl
@[simp] theorem modHandle_outbox : (s.modHandle r h f).outbox = s.outbox := rfl
@[simp] theorem modHandle_replies : (s.modHandle r h f).replies = s.replies := rfl
@[simp] theorem modHandle_heard : (s.modHandle r h f).heard = s.heard := rfl
@[simp] theorem modHandle_domPath : (s.modHandle r h f).domPath = s.domPath := rfl
@[simp] theorem modHandle_tracked : (s.modHandle r h f).tracked = s.tracked := rfl
@[simp] theorem modHandle_acted : (s.modHandle r h f).acted = s.acted := rfl
@[simp] theorem modHandle_ptrs : (s.modHandle r h f).ptrs = s.ptrs := rfl
@[simp] theorem modHandle_hb : (s.modHandle r h f).hb = s.hb := rfl
@[simp] theorem modHandle_writeRels : (s.modHandle r h f).writeRels = s.writeRels := rfl
@[simp] theorem modHandle_parts : (s.modHandle r h f).parts = s.parts := rfl
@[simp] theorem modHandle_ctxs : (s.modHandle r h f).ctxs = s.ctxs := rfl
@[simp] theorem modHandle_queues : (s.modHandle r h f).queues = s.queues := rfl
@[simp] theorem modHandle_pool : (s.modHandle r h f).pool = s.pool := rfl
@[simp] theorem modHandle_poolGone : (s.modHandle r h f).poolGone = s.poolGone := rfl
@[simp] theorem modHandle_errPf : (s.modHandle r h f).errPf = s.errPf := rfl
@[simp] theorem modHandle_errPart : (s.modHandle r h f).errPart = s.errPart := rfl
@[simp] theorem modHandle_checks : (s.modHandle r h f).checks = s.checks := rfl
@[simp] theorem modHandle_keys : (s.modHandle r h f).keys = s.keys := rfl
@[simp] theorem modHandle_tdis : (s.modHandle r h f).tdis = s.tdis := rfl
@[simp] theorem modHandle_facetErrs : (s.modHandle r h f).facetErrs = s.facetErrs := rfl
@[simp] theorem modHandle_digests : (s.modHandle r h f).digests = s.digests := rfl
@[simp] theorem modHandle_interrupts : (s.modHandle r h f).interrupts = s.interrupts := rfl
@[simp] theorem modHandle_hostReplies : (s.modHandle r h f).hostReplies = s.hostReplies := rfl
@[simp] theorem modHandle_hostReqs : (s.modHandle r h f).hostReqs = s.hostReqs := rfl
@[simp] theorem modHandle_cfgCache : (s.modHandle r h f).cfgCache = s.cfgCache := rfl

end

/-! ### modFacet -/

section
variable (s : State) (inst node clone pos : Nat) (f : FacetUnit → FacetUnit)

@[simp] theorem modFacet_agenda : (s.modFacet inst node clone pos f).agenda = s.agenda := rfl
@[simp] theorem modFacet_cur : (s.modFacet inst node clone pos f).cur = s.cur := rfl
@[simp] theorem modFacet_fresh : (s.modFacet inst node clone pos f).fresh = s.fresh := rfl
@[simp] theorem modFacet_clk : (s.modFacet inst node clone pos f).clk = s.clk := rfl
@[simp] theorem modFacet_resetAt : (s.modFacet inst node clone pos f).resetAt = s.resetAt := rfl
@[simp] theorem modFacet_stepping : (s.modFacet inst node clone pos f).stepping = s.stepping := rfl
@[simp] theorem modFacet_devId : (s.modFacet inst node clone pos f).devId = s.devId := rfl
@[simp] theorem modFacet_pins : (s.modFacet inst node clone pos f).pins = s.pins := rfl
@[simp] theorem modFacet_boot : (s.modFacet inst node clone pos f).boot = s.boot := rfl
@[simp] theorem modFacet_store : (s.modFacet inst node clone pos f).store = s.store := rfl
@[simp] theorem modFacet_regs : (s.modFacet inst node clone pos f).regs = s.regs := rfl
@[simp] theorem modFacet_stopped : (s.modFacet inst node clone pos f).stopped = s.stopped := rfl
@[simp] theorem modFacet_mem : (s.modFacet inst node clone pos f).mem = s.mem := rfl
@[simp] theorem modFacet_poison : (s.modFacet inst node clone pos f).poison = s.poison := rfl
@[simp] theorem modFacet_latent : (s.modFacet inst node clone pos f).latent = s.latent := rfl
@[simp] theorem modFacet_spad : (s.modFacet inst node clone pos f).spad = s.spad := rfl
@[simp] theorem modFacet_spadPoison : (s.modFacet inst node clone pos f).spadPoison = s.spadPoison := rfl
@[simp] theorem modFacet_spadHigh : (s.modFacet inst node clone pos f).spadHigh = s.spadHigh := rfl
@[simp] theorem modFacet_tlb : (s.modFacet inst node clone pos f).tlb = s.tlb := rfl
@[simp] theorem modFacet_dieTlb : (s.modFacet inst node clone pos f).dieTlb = s.dieTlb := rfl
@[simp] theorem modFacet_walksWaiting : (s.modFacet inst node clone pos f).walksWaiting = s.walksWaiting := rfl
@[simp] theorem modFacet_l2 : (s.modFacet inst node clone pos f).l2 = s.l2 := rfl
@[simp] theorem modFacet_l2ways : (s.modFacet inst node clone pos f).l2ways = s.l2ways := rfl
@[simp] theorem modFacet_retiring : (s.modFacet inst node clone pos f).retiring = s.retiring := rfl
@[simp] theorem modFacet_mergeRecs : (s.modFacet inst node clone pos f).mergeRecs = s.mergeRecs := rfl
@[simp] theorem modFacet_slices : (s.modFacet inst node clone pos f).slices = s.slices := rfl
@[simp] theorem modFacet_conds : (s.modFacet inst node clone pos f).conds = s.conds := rfl
@[simp] theorem modFacet_energy : (s.modFacet inst node clone pos f).energy = s.energy := rfl
@[simp] theorem modFacet_lastRefill : (s.modFacet inst node clone pos f).lastRefill = s.lastRefill := rfl
@[simp] theorem modFacet_refillAt : (s.modFacet inst node clone pos f).refillAt = s.refillAt := rfl
@[simp] theorem modFacet_gain : (s.modFacet inst node clone pos f).gain = s.gain := rfl
@[simp] theorem modFacet_gainAt : (s.modFacet inst node clone pos f).gainAt = s.gainAt := rfl
@[simp] theorem modFacet_facets : (s.modFacet inst node clone pos f).facets = s.facets.map fun u => if u.is inst node clone pos then f u else u := rfl
@[simp] theorem modFacet_islands : (s.modFacet inst node clone pos f).islands = s.islands := rfl
@[simp] theorem modFacet_engines : (s.modFacet inst node clone pos f).engines = s.engines := rfl
@[simp] theorem modFacet_arcs : (s.modFacet inst node clone pos f).arcs = s.arcs := rfl
@[simp] theorem modFacet_merges : (s.modFacet inst node clone pos f).merges = s.merges := rfl
@[simp] theorem modFacet_splitters : (s.modFacet inst node clone pos f).splitters = s.splitters := rfl
@[simp] theorem modFacet_ceases : (s.modFacet inst node clone pos f).ceases = s.ceases := rfl
@[simp] theorem modFacet_insts : (s.modFacet inst node clone pos f).insts = s.insts := rfl
@[simp] theorem modFacet_nextInst : (s.modFacet inst node clone pos f).nextInst = s.nextInst := rfl
@[simp] theorem modFacet_handles : (s.modFacet inst node clone pos f).handles = s.handles := rfl
@[simp] theorem modFacet_gens : (s.modFacet inst node clone pos f).gens = s.gens := rfl
@[simp] theorem modFacet_streams : (s.modFacet inst node clone pos f).streams = s.streams := rfl
@[simp] theorem modFacet_chords : (s.modFacet inst node clone pos f).chords = s.chords := rfl
@[simp] theorem modFacet_nextPut : (s.modFacet inst node clone pos f).nextPut = s.nextPut := rfl
@[simp] theorem modFacet_resvs : (s.modFacet inst node clone pos f).resvs = s.resvs := rfl
@[simp] theorem modFacet_txns : (s.modFacet inst node clone pos f).txns = s.txns := rfl
@[simp] theorem modFacet_nextTx : (s.modFacet inst node clone pos f).nextTx = s.nextTx := rfl
@[simp] theorem modFacet_performed : (s.modFacet inst node clone pos f).performed = s.performed := rfl
@[simp] theorem modFacet_sup : (s.modFacet inst node clone pos f).sup = s.sup := rfl
@[simp] theorem modFacet_sop : (s.modFacet inst node clone pos f).sop = s.sop := rfl
@[simp] theorem modFacet_peers : (s.modFacet inst node clone pos f).peers = s.peers := rfl
@[simp] theorem modFacet_outbox : (s.modFacet inst node clone pos f).outbox = s.outbox := rfl
@[simp] theorem modFacet_replies : (s.modFacet inst node clone pos f).replies = s.replies := rfl
@[simp] theorem modFacet_heard : (s.modFacet inst node clone pos f).heard = s.heard := rfl
@[simp] theorem modFacet_domPath : (s.modFacet inst node clone pos f).domPath = s.domPath := rfl
@[simp] theorem modFacet_tracked : (s.modFacet inst node clone pos f).tracked = s.tracked := rfl
@[simp] theorem modFacet_acted : (s.modFacet inst node clone pos f).acted = s.acted := rfl
@[simp] theorem modFacet_ptrs : (s.modFacet inst node clone pos f).ptrs = s.ptrs := rfl
@[simp] theorem modFacet_hb : (s.modFacet inst node clone pos f).hb = s.hb := rfl
@[simp] theorem modFacet_writeRels : (s.modFacet inst node clone pos f).writeRels = s.writeRels := rfl
@[simp] theorem modFacet_parts : (s.modFacet inst node clone pos f).parts = s.parts := rfl
@[simp] theorem modFacet_ctxs : (s.modFacet inst node clone pos f).ctxs = s.ctxs := rfl
@[simp] theorem modFacet_queues : (s.modFacet inst node clone pos f).queues = s.queues := rfl
@[simp] theorem modFacet_pool : (s.modFacet inst node clone pos f).pool = s.pool := rfl
@[simp] theorem modFacet_poolGone : (s.modFacet inst node clone pos f).poolGone = s.poolGone := rfl
@[simp] theorem modFacet_errPf : (s.modFacet inst node clone pos f).errPf = s.errPf := rfl
@[simp] theorem modFacet_errPart : (s.modFacet inst node clone pos f).errPart = s.errPart := rfl
@[simp] theorem modFacet_checks : (s.modFacet inst node clone pos f).checks = s.checks := rfl
@[simp] theorem modFacet_keys : (s.modFacet inst node clone pos f).keys = s.keys := rfl
@[simp] theorem modFacet_tdis : (s.modFacet inst node clone pos f).tdis = s.tdis := rfl
@[simp] theorem modFacet_facetErrs : (s.modFacet inst node clone pos f).facetErrs = s.facetErrs := rfl
@[simp] theorem modFacet_digests : (s.modFacet inst node clone pos f).digests = s.digests := rfl
@[simp] theorem modFacet_interrupts : (s.modFacet inst node clone pos f).interrupts = s.interrupts := rfl
@[simp] theorem modFacet_hostReplies : (s.modFacet inst node clone pos f).hostReplies = s.hostReplies := rfl
@[simp] theorem modFacet_hostReqs : (s.modFacet inst node clone pos f).hostReqs = s.hostReqs := rfl
@[simp] theorem modFacet_cfgCache : (s.modFacet inst node clone pos f).cfgCache = s.cfgCache := rfl

end

/-! ### modIsland -/

section
variable (s : State) (r isl : Nat) (f : IslandUnit → IslandUnit)

@[simp] theorem modIsland_agenda : (s.modIsland r isl f).agenda = s.agenda := rfl
@[simp] theorem modIsland_cur : (s.modIsland r isl f).cur = s.cur := rfl
@[simp] theorem modIsland_fresh : (s.modIsland r isl f).fresh = s.fresh := rfl
@[simp] theorem modIsland_clk : (s.modIsland r isl f).clk = s.clk := rfl
@[simp] theorem modIsland_resetAt : (s.modIsland r isl f).resetAt = s.resetAt := rfl
@[simp] theorem modIsland_stepping : (s.modIsland r isl f).stepping = s.stepping := rfl
@[simp] theorem modIsland_devId : (s.modIsland r isl f).devId = s.devId := rfl
@[simp] theorem modIsland_pins : (s.modIsland r isl f).pins = s.pins := rfl
@[simp] theorem modIsland_boot : (s.modIsland r isl f).boot = s.boot := rfl
@[simp] theorem modIsland_store : (s.modIsland r isl f).store = s.store := rfl
@[simp] theorem modIsland_regs : (s.modIsland r isl f).regs = s.regs := rfl
@[simp] theorem modIsland_stopped : (s.modIsland r isl f).stopped = s.stopped := rfl
@[simp] theorem modIsland_mem : (s.modIsland r isl f).mem = s.mem := rfl
@[simp] theorem modIsland_poison : (s.modIsland r isl f).poison = s.poison := rfl
@[simp] theorem modIsland_latent : (s.modIsland r isl f).latent = s.latent := rfl
@[simp] theorem modIsland_spad : (s.modIsland r isl f).spad = s.spad := rfl
@[simp] theorem modIsland_spadPoison : (s.modIsland r isl f).spadPoison = s.spadPoison := rfl
@[simp] theorem modIsland_spadHigh : (s.modIsland r isl f).spadHigh = s.spadHigh := rfl
@[simp] theorem modIsland_tlb : (s.modIsland r isl f).tlb = s.tlb := rfl
@[simp] theorem modIsland_dieTlb : (s.modIsland r isl f).dieTlb = s.dieTlb := rfl
@[simp] theorem modIsland_walksWaiting : (s.modIsland r isl f).walksWaiting = s.walksWaiting := rfl
@[simp] theorem modIsland_l2 : (s.modIsland r isl f).l2 = s.l2 := rfl
@[simp] theorem modIsland_l2ways : (s.modIsland r isl f).l2ways = s.l2ways := rfl
@[simp] theorem modIsland_retiring : (s.modIsland r isl f).retiring = s.retiring := rfl
@[simp] theorem modIsland_mergeRecs : (s.modIsland r isl f).mergeRecs = s.mergeRecs := rfl
@[simp] theorem modIsland_slices : (s.modIsland r isl f).slices = s.slices := rfl
@[simp] theorem modIsland_conds : (s.modIsland r isl f).conds = s.conds := rfl
@[simp] theorem modIsland_energy : (s.modIsland r isl f).energy = s.energy := rfl
@[simp] theorem modIsland_lastRefill : (s.modIsland r isl f).lastRefill = s.lastRefill := rfl
@[simp] theorem modIsland_refillAt : (s.modIsland r isl f).refillAt = s.refillAt := rfl
@[simp] theorem modIsland_gain : (s.modIsland r isl f).gain = s.gain := rfl
@[simp] theorem modIsland_gainAt : (s.modIsland r isl f).gainAt = s.gainAt := rfl
@[simp] theorem modIsland_facets : (s.modIsland r isl f).facets = s.facets := rfl
@[simp] theorem modIsland_islands : (s.modIsland r isl f).islands = s.islands.map fun u => if u.region = r ∧ u.isl = isl then f u else u := rfl
@[simp] theorem modIsland_engines : (s.modIsland r isl f).engines = s.engines := rfl
@[simp] theorem modIsland_arcs : (s.modIsland r isl f).arcs = s.arcs := rfl
@[simp] theorem modIsland_merges : (s.modIsland r isl f).merges = s.merges := rfl
@[simp] theorem modIsland_splitters : (s.modIsland r isl f).splitters = s.splitters := rfl
@[simp] theorem modIsland_ceases : (s.modIsland r isl f).ceases = s.ceases := rfl
@[simp] theorem modIsland_insts : (s.modIsland r isl f).insts = s.insts := rfl
@[simp] theorem modIsland_nextInst : (s.modIsland r isl f).nextInst = s.nextInst := rfl
@[simp] theorem modIsland_handles : (s.modIsland r isl f).handles = s.handles := rfl
@[simp] theorem modIsland_gens : (s.modIsland r isl f).gens = s.gens := rfl
@[simp] theorem modIsland_streams : (s.modIsland r isl f).streams = s.streams := rfl
@[simp] theorem modIsland_chords : (s.modIsland r isl f).chords = s.chords := rfl
@[simp] theorem modIsland_nextPut : (s.modIsland r isl f).nextPut = s.nextPut := rfl
@[simp] theorem modIsland_resvs : (s.modIsland r isl f).resvs = s.resvs := rfl
@[simp] theorem modIsland_txns : (s.modIsland r isl f).txns = s.txns := rfl
@[simp] theorem modIsland_nextTx : (s.modIsland r isl f).nextTx = s.nextTx := rfl
@[simp] theorem modIsland_performed : (s.modIsland r isl f).performed = s.performed := rfl
@[simp] theorem modIsland_sup : (s.modIsland r isl f).sup = s.sup := rfl
@[simp] theorem modIsland_sop : (s.modIsland r isl f).sop = s.sop := rfl
@[simp] theorem modIsland_peers : (s.modIsland r isl f).peers = s.peers := rfl
@[simp] theorem modIsland_outbox : (s.modIsland r isl f).outbox = s.outbox := rfl
@[simp] theorem modIsland_replies : (s.modIsland r isl f).replies = s.replies := rfl
@[simp] theorem modIsland_heard : (s.modIsland r isl f).heard = s.heard := rfl
@[simp] theorem modIsland_domPath : (s.modIsland r isl f).domPath = s.domPath := rfl
@[simp] theorem modIsland_tracked : (s.modIsland r isl f).tracked = s.tracked := rfl
@[simp] theorem modIsland_acted : (s.modIsland r isl f).acted = s.acted := rfl
@[simp] theorem modIsland_ptrs : (s.modIsland r isl f).ptrs = s.ptrs := rfl
@[simp] theorem modIsland_hb : (s.modIsland r isl f).hb = s.hb := rfl
@[simp] theorem modIsland_writeRels : (s.modIsland r isl f).writeRels = s.writeRels := rfl
@[simp] theorem modIsland_parts : (s.modIsland r isl f).parts = s.parts := rfl
@[simp] theorem modIsland_ctxs : (s.modIsland r isl f).ctxs = s.ctxs := rfl
@[simp] theorem modIsland_queues : (s.modIsland r isl f).queues = s.queues := rfl
@[simp] theorem modIsland_pool : (s.modIsland r isl f).pool = s.pool := rfl
@[simp] theorem modIsland_poolGone : (s.modIsland r isl f).poolGone = s.poolGone := rfl
@[simp] theorem modIsland_errPf : (s.modIsland r isl f).errPf = s.errPf := rfl
@[simp] theorem modIsland_errPart : (s.modIsland r isl f).errPart = s.errPart := rfl
@[simp] theorem modIsland_checks : (s.modIsland r isl f).checks = s.checks := rfl
@[simp] theorem modIsland_keys : (s.modIsland r isl f).keys = s.keys := rfl
@[simp] theorem modIsland_tdis : (s.modIsland r isl f).tdis = s.tdis := rfl
@[simp] theorem modIsland_facetErrs : (s.modIsland r isl f).facetErrs = s.facetErrs := rfl
@[simp] theorem modIsland_digests : (s.modIsland r isl f).digests = s.digests := rfl
@[simp] theorem modIsland_interrupts : (s.modIsland r isl f).interrupts = s.interrupts := rfl
@[simp] theorem modIsland_hostReplies : (s.modIsland r isl f).hostReplies = s.hostReplies := rfl
@[simp] theorem modIsland_hostReqs : (s.modIsland r isl f).hostReqs = s.hostReqs := rfl
@[simp] theorem modIsland_cfgCache : (s.modIsland r isl f).cfgCache = s.cfgCache := rfl

end

/-! ### modEngine -/

section
variable (s : State) (inst node : Nat) (f : EngineNode → EngineNode)

@[simp] theorem modEngine_agenda : (s.modEngine inst node f).agenda = s.agenda := rfl
@[simp] theorem modEngine_cur : (s.modEngine inst node f).cur = s.cur := rfl
@[simp] theorem modEngine_fresh : (s.modEngine inst node f).fresh = s.fresh := rfl
@[simp] theorem modEngine_clk : (s.modEngine inst node f).clk = s.clk := rfl
@[simp] theorem modEngine_resetAt : (s.modEngine inst node f).resetAt = s.resetAt := rfl
@[simp] theorem modEngine_stepping : (s.modEngine inst node f).stepping = s.stepping := rfl
@[simp] theorem modEngine_devId : (s.modEngine inst node f).devId = s.devId := rfl
@[simp] theorem modEngine_pins : (s.modEngine inst node f).pins = s.pins := rfl
@[simp] theorem modEngine_boot : (s.modEngine inst node f).boot = s.boot := rfl
@[simp] theorem modEngine_store : (s.modEngine inst node f).store = s.store := rfl
@[simp] theorem modEngine_regs : (s.modEngine inst node f).regs = s.regs := rfl
@[simp] theorem modEngine_stopped : (s.modEngine inst node f).stopped = s.stopped := rfl
@[simp] theorem modEngine_mem : (s.modEngine inst node f).mem = s.mem := rfl
@[simp] theorem modEngine_poison : (s.modEngine inst node f).poison = s.poison := rfl
@[simp] theorem modEngine_latent : (s.modEngine inst node f).latent = s.latent := rfl
@[simp] theorem modEngine_spad : (s.modEngine inst node f).spad = s.spad := rfl
@[simp] theorem modEngine_spadPoison : (s.modEngine inst node f).spadPoison = s.spadPoison := rfl
@[simp] theorem modEngine_spadHigh : (s.modEngine inst node f).spadHigh = s.spadHigh := rfl
@[simp] theorem modEngine_tlb : (s.modEngine inst node f).tlb = s.tlb := rfl
@[simp] theorem modEngine_dieTlb : (s.modEngine inst node f).dieTlb = s.dieTlb := rfl
@[simp] theorem modEngine_walksWaiting : (s.modEngine inst node f).walksWaiting = s.walksWaiting := rfl
@[simp] theorem modEngine_l2 : (s.modEngine inst node f).l2 = s.l2 := rfl
@[simp] theorem modEngine_l2ways : (s.modEngine inst node f).l2ways = s.l2ways := rfl
@[simp] theorem modEngine_retiring : (s.modEngine inst node f).retiring = s.retiring := rfl
@[simp] theorem modEngine_mergeRecs : (s.modEngine inst node f).mergeRecs = s.mergeRecs := rfl
@[simp] theorem modEngine_slices : (s.modEngine inst node f).slices = s.slices := rfl
@[simp] theorem modEngine_conds : (s.modEngine inst node f).conds = s.conds := rfl
@[simp] theorem modEngine_energy : (s.modEngine inst node f).energy = s.energy := rfl
@[simp] theorem modEngine_lastRefill : (s.modEngine inst node f).lastRefill = s.lastRefill := rfl
@[simp] theorem modEngine_refillAt : (s.modEngine inst node f).refillAt = s.refillAt := rfl
@[simp] theorem modEngine_gain : (s.modEngine inst node f).gain = s.gain := rfl
@[simp] theorem modEngine_gainAt : (s.modEngine inst node f).gainAt = s.gainAt := rfl
@[simp] theorem modEngine_facets : (s.modEngine inst node f).facets = s.facets := rfl
@[simp] theorem modEngine_islands : (s.modEngine inst node f).islands = s.islands := rfl
@[simp] theorem modEngine_engines : (s.modEngine inst node f).engines = s.engines.map fun e => if e.inst = inst ∧ e.node = node then f e else e := rfl
@[simp] theorem modEngine_arcs : (s.modEngine inst node f).arcs = s.arcs := rfl
@[simp] theorem modEngine_merges : (s.modEngine inst node f).merges = s.merges := rfl
@[simp] theorem modEngine_splitters : (s.modEngine inst node f).splitters = s.splitters := rfl
@[simp] theorem modEngine_ceases : (s.modEngine inst node f).ceases = s.ceases := rfl
@[simp] theorem modEngine_insts : (s.modEngine inst node f).insts = s.insts := rfl
@[simp] theorem modEngine_nextInst : (s.modEngine inst node f).nextInst = s.nextInst := rfl
@[simp] theorem modEngine_handles : (s.modEngine inst node f).handles = s.handles := rfl
@[simp] theorem modEngine_gens : (s.modEngine inst node f).gens = s.gens := rfl
@[simp] theorem modEngine_streams : (s.modEngine inst node f).streams = s.streams := rfl
@[simp] theorem modEngine_chords : (s.modEngine inst node f).chords = s.chords := rfl
@[simp] theorem modEngine_nextPut : (s.modEngine inst node f).nextPut = s.nextPut := rfl
@[simp] theorem modEngine_resvs : (s.modEngine inst node f).resvs = s.resvs := rfl
@[simp] theorem modEngine_txns : (s.modEngine inst node f).txns = s.txns := rfl
@[simp] theorem modEngine_nextTx : (s.modEngine inst node f).nextTx = s.nextTx := rfl
@[simp] theorem modEngine_performed : (s.modEngine inst node f).performed = s.performed := rfl
@[simp] theorem modEngine_sup : (s.modEngine inst node f).sup = s.sup := rfl
@[simp] theorem modEngine_sop : (s.modEngine inst node f).sop = s.sop := rfl
@[simp] theorem modEngine_peers : (s.modEngine inst node f).peers = s.peers := rfl
@[simp] theorem modEngine_outbox : (s.modEngine inst node f).outbox = s.outbox := rfl
@[simp] theorem modEngine_replies : (s.modEngine inst node f).replies = s.replies := rfl
@[simp] theorem modEngine_heard : (s.modEngine inst node f).heard = s.heard := rfl
@[simp] theorem modEngine_domPath : (s.modEngine inst node f).domPath = s.domPath := rfl
@[simp] theorem modEngine_tracked : (s.modEngine inst node f).tracked = s.tracked := rfl
@[simp] theorem modEngine_acted : (s.modEngine inst node f).acted = s.acted := rfl
@[simp] theorem modEngine_ptrs : (s.modEngine inst node f).ptrs = s.ptrs := rfl
@[simp] theorem modEngine_hb : (s.modEngine inst node f).hb = s.hb := rfl
@[simp] theorem modEngine_writeRels : (s.modEngine inst node f).writeRels = s.writeRels := rfl
@[simp] theorem modEngine_parts : (s.modEngine inst node f).parts = s.parts := rfl
@[simp] theorem modEngine_ctxs : (s.modEngine inst node f).ctxs = s.ctxs := rfl
@[simp] theorem modEngine_queues : (s.modEngine inst node f).queues = s.queues := rfl
@[simp] theorem modEngine_pool : (s.modEngine inst node f).pool = s.pool := rfl
@[simp] theorem modEngine_poolGone : (s.modEngine inst node f).poolGone = s.poolGone := rfl
@[simp] theorem modEngine_errPf : (s.modEngine inst node f).errPf = s.errPf := rfl
@[simp] theorem modEngine_errPart : (s.modEngine inst node f).errPart = s.errPart := rfl
@[simp] theorem modEngine_checks : (s.modEngine inst node f).checks = s.checks := rfl
@[simp] theorem modEngine_keys : (s.modEngine inst node f).keys = s.keys := rfl
@[simp] theorem modEngine_tdis : (s.modEngine inst node f).tdis = s.tdis := rfl
@[simp] theorem modEngine_facetErrs : (s.modEngine inst node f).facetErrs = s.facetErrs := rfl
@[simp] theorem modEngine_digests : (s.modEngine inst node f).digests = s.digests := rfl
@[simp] theorem modEngine_interrupts : (s.modEngine inst node f).interrupts = s.interrupts := rfl
@[simp] theorem modEngine_hostReplies : (s.modEngine inst node f).hostReplies = s.hostReplies := rfl
@[simp] theorem modEngine_hostReqs : (s.modEngine inst node f).hostReqs = s.hostReqs := rfl
@[simp] theorem modEngine_cfgCache : (s.modEngine inst node f).cfgCache = s.cfgCache := rfl

end

/-! ### modArc -/

section
variable (s : State) (inst idx : Nat) (f : ArcSt → ArcSt)

@[simp] theorem modArc_agenda : (s.modArc inst idx f).agenda = s.agenda := rfl
@[simp] theorem modArc_cur : (s.modArc inst idx f).cur = s.cur := rfl
@[simp] theorem modArc_fresh : (s.modArc inst idx f).fresh = s.fresh := rfl
@[simp] theorem modArc_clk : (s.modArc inst idx f).clk = s.clk := rfl
@[simp] theorem modArc_resetAt : (s.modArc inst idx f).resetAt = s.resetAt := rfl
@[simp] theorem modArc_stepping : (s.modArc inst idx f).stepping = s.stepping := rfl
@[simp] theorem modArc_devId : (s.modArc inst idx f).devId = s.devId := rfl
@[simp] theorem modArc_pins : (s.modArc inst idx f).pins = s.pins := rfl
@[simp] theorem modArc_boot : (s.modArc inst idx f).boot = s.boot := rfl
@[simp] theorem modArc_store : (s.modArc inst idx f).store = s.store := rfl
@[simp] theorem modArc_regs : (s.modArc inst idx f).regs = s.regs := rfl
@[simp] theorem modArc_stopped : (s.modArc inst idx f).stopped = s.stopped := rfl
@[simp] theorem modArc_mem : (s.modArc inst idx f).mem = s.mem := rfl
@[simp] theorem modArc_poison : (s.modArc inst idx f).poison = s.poison := rfl
@[simp] theorem modArc_latent : (s.modArc inst idx f).latent = s.latent := rfl
@[simp] theorem modArc_spad : (s.modArc inst idx f).spad = s.spad := rfl
@[simp] theorem modArc_spadPoison : (s.modArc inst idx f).spadPoison = s.spadPoison := rfl
@[simp] theorem modArc_spadHigh : (s.modArc inst idx f).spadHigh = s.spadHigh := rfl
@[simp] theorem modArc_tlb : (s.modArc inst idx f).tlb = s.tlb := rfl
@[simp] theorem modArc_dieTlb : (s.modArc inst idx f).dieTlb = s.dieTlb := rfl
@[simp] theorem modArc_walksWaiting : (s.modArc inst idx f).walksWaiting = s.walksWaiting := rfl
@[simp] theorem modArc_l2 : (s.modArc inst idx f).l2 = s.l2 := rfl
@[simp] theorem modArc_l2ways : (s.modArc inst idx f).l2ways = s.l2ways := rfl
@[simp] theorem modArc_retiring : (s.modArc inst idx f).retiring = s.retiring := rfl
@[simp] theorem modArc_mergeRecs : (s.modArc inst idx f).mergeRecs = s.mergeRecs := rfl
@[simp] theorem modArc_slices : (s.modArc inst idx f).slices = s.slices := rfl
@[simp] theorem modArc_conds : (s.modArc inst idx f).conds = s.conds := rfl
@[simp] theorem modArc_energy : (s.modArc inst idx f).energy = s.energy := rfl
@[simp] theorem modArc_lastRefill : (s.modArc inst idx f).lastRefill = s.lastRefill := rfl
@[simp] theorem modArc_refillAt : (s.modArc inst idx f).refillAt = s.refillAt := rfl
@[simp] theorem modArc_gain : (s.modArc inst idx f).gain = s.gain := rfl
@[simp] theorem modArc_gainAt : (s.modArc inst idx f).gainAt = s.gainAt := rfl
@[simp] theorem modArc_facets : (s.modArc inst idx f).facets = s.facets := rfl
@[simp] theorem modArc_islands : (s.modArc inst idx f).islands = s.islands := rfl
@[simp] theorem modArc_engines : (s.modArc inst idx f).engines = s.engines := rfl
@[simp] theorem modArc_arcs : (s.modArc inst idx f).arcs = s.arcs.map fun a => if a.inst = inst ∧ a.idx = idx then f a else a := rfl
@[simp] theorem modArc_merges : (s.modArc inst idx f).merges = s.merges := rfl
@[simp] theorem modArc_splitters : (s.modArc inst idx f).splitters = s.splitters := rfl
@[simp] theorem modArc_ceases : (s.modArc inst idx f).ceases = s.ceases := rfl
@[simp] theorem modArc_insts : (s.modArc inst idx f).insts = s.insts := rfl
@[simp] theorem modArc_nextInst : (s.modArc inst idx f).nextInst = s.nextInst := rfl
@[simp] theorem modArc_handles : (s.modArc inst idx f).handles = s.handles := rfl
@[simp] theorem modArc_gens : (s.modArc inst idx f).gens = s.gens := rfl
@[simp] theorem modArc_streams : (s.modArc inst idx f).streams = s.streams := rfl
@[simp] theorem modArc_chords : (s.modArc inst idx f).chords = s.chords := rfl
@[simp] theorem modArc_nextPut : (s.modArc inst idx f).nextPut = s.nextPut := rfl
@[simp] theorem modArc_resvs : (s.modArc inst idx f).resvs = s.resvs := rfl
@[simp] theorem modArc_txns : (s.modArc inst idx f).txns = s.txns := rfl
@[simp] theorem modArc_nextTx : (s.modArc inst idx f).nextTx = s.nextTx := rfl
@[simp] theorem modArc_performed : (s.modArc inst idx f).performed = s.performed := rfl
@[simp] theorem modArc_sup : (s.modArc inst idx f).sup = s.sup := rfl
@[simp] theorem modArc_sop : (s.modArc inst idx f).sop = s.sop := rfl
@[simp] theorem modArc_peers : (s.modArc inst idx f).peers = s.peers := rfl
@[simp] theorem modArc_outbox : (s.modArc inst idx f).outbox = s.outbox := rfl
@[simp] theorem modArc_replies : (s.modArc inst idx f).replies = s.replies := rfl
@[simp] theorem modArc_heard : (s.modArc inst idx f).heard = s.heard := rfl
@[simp] theorem modArc_domPath : (s.modArc inst idx f).domPath = s.domPath := rfl
@[simp] theorem modArc_tracked : (s.modArc inst idx f).tracked = s.tracked := rfl
@[simp] theorem modArc_acted : (s.modArc inst idx f).acted = s.acted := rfl
@[simp] theorem modArc_ptrs : (s.modArc inst idx f).ptrs = s.ptrs := rfl
@[simp] theorem modArc_hb : (s.modArc inst idx f).hb = s.hb := rfl
@[simp] theorem modArc_writeRels : (s.modArc inst idx f).writeRels = s.writeRels := rfl
@[simp] theorem modArc_parts : (s.modArc inst idx f).parts = s.parts := rfl
@[simp] theorem modArc_ctxs : (s.modArc inst idx f).ctxs = s.ctxs := rfl
@[simp] theorem modArc_queues : (s.modArc inst idx f).queues = s.queues := rfl
@[simp] theorem modArc_pool : (s.modArc inst idx f).pool = s.pool := rfl
@[simp] theorem modArc_poolGone : (s.modArc inst idx f).poolGone = s.poolGone := rfl
@[simp] theorem modArc_errPf : (s.modArc inst idx f).errPf = s.errPf := rfl
@[simp] theorem modArc_errPart : (s.modArc inst idx f).errPart = s.errPart := rfl
@[simp] theorem modArc_checks : (s.modArc inst idx f).checks = s.checks := rfl
@[simp] theorem modArc_keys : (s.modArc inst idx f).keys = s.keys := rfl
@[simp] theorem modArc_tdis : (s.modArc inst idx f).tdis = s.tdis := rfl
@[simp] theorem modArc_facetErrs : (s.modArc inst idx f).facetErrs = s.facetErrs := rfl
@[simp] theorem modArc_digests : (s.modArc inst idx f).digests = s.digests := rfl
@[simp] theorem modArc_interrupts : (s.modArc inst idx f).interrupts = s.interrupts := rfl
@[simp] theorem modArc_hostReplies : (s.modArc inst idx f).hostReplies = s.hostReplies := rfl
@[simp] theorem modArc_hostReqs : (s.modArc inst idx f).hostReqs = s.hostReqs := rfl
@[simp] theorem modArc_cfgCache : (s.modArc inst idx f).cfgCache = s.cfgCache := rfl

end

/-! ### push -/

section
variable (s : State) (t : Turn)

@[simp] theorem push_agenda : (s.push t).agenda = t :: s.agenda := rfl
@[simp] theorem push_cur : (s.push t).cur = s.cur := rfl
@[simp] theorem push_fresh : (s.push t).fresh = s.fresh := rfl
@[simp] theorem push_clk : (s.push t).clk = s.clk := rfl
@[simp] theorem push_resetAt : (s.push t).resetAt = s.resetAt := rfl
@[simp] theorem push_stepping : (s.push t).stepping = s.stepping := rfl
@[simp] theorem push_devId : (s.push t).devId = s.devId := rfl
@[simp] theorem push_pins : (s.push t).pins = s.pins := rfl
@[simp] theorem push_boot : (s.push t).boot = s.boot := rfl
@[simp] theorem push_store : (s.push t).store = s.store := rfl
@[simp] theorem push_regs : (s.push t).regs = s.regs := rfl
@[simp] theorem push_stopped : (s.push t).stopped = s.stopped := rfl
@[simp] theorem push_mem : (s.push t).mem = s.mem := rfl
@[simp] theorem push_poison : (s.push t).poison = s.poison := rfl
@[simp] theorem push_latent : (s.push t).latent = s.latent := rfl
@[simp] theorem push_spad : (s.push t).spad = s.spad := rfl
@[simp] theorem push_spadPoison : (s.push t).spadPoison = s.spadPoison := rfl
@[simp] theorem push_spadHigh : (s.push t).spadHigh = s.spadHigh := rfl
@[simp] theorem push_tlb : (s.push t).tlb = s.tlb := rfl
@[simp] theorem push_dieTlb : (s.push t).dieTlb = s.dieTlb := rfl
@[simp] theorem push_walksWaiting : (s.push t).walksWaiting = s.walksWaiting := rfl
@[simp] theorem push_l2 : (s.push t).l2 = s.l2 := rfl
@[simp] theorem push_l2ways : (s.push t).l2ways = s.l2ways := rfl
@[simp] theorem push_retiring : (s.push t).retiring = s.retiring := rfl
@[simp] theorem push_mergeRecs : (s.push t).mergeRecs = s.mergeRecs := rfl
@[simp] theorem push_slices : (s.push t).slices = s.slices := rfl
@[simp] theorem push_conds : (s.push t).conds = s.conds := rfl
@[simp] theorem push_energy : (s.push t).energy = s.energy := rfl
@[simp] theorem push_lastRefill : (s.push t).lastRefill = s.lastRefill := rfl
@[simp] theorem push_refillAt : (s.push t).refillAt = s.refillAt := rfl
@[simp] theorem push_gain : (s.push t).gain = s.gain := rfl
@[simp] theorem push_gainAt : (s.push t).gainAt = s.gainAt := rfl
@[simp] theorem push_facets : (s.push t).facets = s.facets := rfl
@[simp] theorem push_islands : (s.push t).islands = s.islands := rfl
@[simp] theorem push_engines : (s.push t).engines = s.engines := rfl
@[simp] theorem push_arcs : (s.push t).arcs = s.arcs := rfl
@[simp] theorem push_merges : (s.push t).merges = s.merges := rfl
@[simp] theorem push_splitters : (s.push t).splitters = s.splitters := rfl
@[simp] theorem push_ceases : (s.push t).ceases = s.ceases := rfl
@[simp] theorem push_insts : (s.push t).insts = s.insts := rfl
@[simp] theorem push_nextInst : (s.push t).nextInst = s.nextInst := rfl
@[simp] theorem push_handles : (s.push t).handles = s.handles := rfl
@[simp] theorem push_gens : (s.push t).gens = s.gens := rfl
@[simp] theorem push_streams : (s.push t).streams = s.streams := rfl
@[simp] theorem push_chords : (s.push t).chords = s.chords := rfl
@[simp] theorem push_nextPut : (s.push t).nextPut = s.nextPut := rfl
@[simp] theorem push_resvs : (s.push t).resvs = s.resvs := rfl
@[simp] theorem push_txns : (s.push t).txns = s.txns := rfl
@[simp] theorem push_nextTx : (s.push t).nextTx = s.nextTx := rfl
@[simp] theorem push_performed : (s.push t).performed = s.performed := rfl
@[simp] theorem push_sup : (s.push t).sup = s.sup := rfl
@[simp] theorem push_sop : (s.push t).sop = s.sop := rfl
@[simp] theorem push_peers : (s.push t).peers = s.peers := rfl
@[simp] theorem push_outbox : (s.push t).outbox = s.outbox := rfl
@[simp] theorem push_replies : (s.push t).replies = s.replies := rfl
@[simp] theorem push_heard : (s.push t).heard = s.heard := rfl
@[simp] theorem push_domPath : (s.push t).domPath = s.domPath := rfl
@[simp] theorem push_tracked : (s.push t).tracked = s.tracked := rfl
@[simp] theorem push_acted : (s.push t).acted = s.acted := rfl
@[simp] theorem push_ptrs : (s.push t).ptrs = s.ptrs := rfl
@[simp] theorem push_hb : (s.push t).hb = s.hb := rfl
@[simp] theorem push_writeRels : (s.push t).writeRels = s.writeRels := rfl
@[simp] theorem push_parts : (s.push t).parts = s.parts := rfl
@[simp] theorem push_ctxs : (s.push t).ctxs = s.ctxs := rfl
@[simp] theorem push_queues : (s.push t).queues = s.queues := rfl
@[simp] theorem push_pool : (s.push t).pool = s.pool := rfl
@[simp] theorem push_poolGone : (s.push t).poolGone = s.poolGone := rfl
@[simp] theorem push_errPf : (s.push t).errPf = s.errPf := rfl
@[simp] theorem push_errPart : (s.push t).errPart = s.errPart := rfl
@[simp] theorem push_checks : (s.push t).checks = s.checks := rfl
@[simp] theorem push_keys : (s.push t).keys = s.keys := rfl
@[simp] theorem push_tdis : (s.push t).tdis = s.tdis := rfl
@[simp] theorem push_facetErrs : (s.push t).facetErrs = s.facetErrs := rfl
@[simp] theorem push_digests : (s.push t).digests = s.digests := rfl
@[simp] theorem push_interrupts : (s.push t).interrupts = s.interrupts := rfl
@[simp] theorem push_hostReplies : (s.push t).hostReplies = s.hostReplies := rfl
@[simp] theorem push_hostReqs : (s.push t).hostReqs = s.hostReqs := rfl
@[simp] theorem push_cfgCache : (s.push t).cfgCache = s.cfgCache := rfl

end

/-! ### interrupt -/

section
variable (s : State) (fn v : Nat)

@[simp] theorem interrupt_agenda : (s.interrupt fn v).agenda = s.agenda := rfl
@[simp] theorem interrupt_cur : (s.interrupt fn v).cur = s.cur := rfl
@[simp] theorem interrupt_fresh : (s.interrupt fn v).fresh = s.fresh := rfl
@[simp] theorem interrupt_clk : (s.interrupt fn v).clk = s.clk := rfl
@[simp] theorem interrupt_resetAt : (s.interrupt fn v).resetAt = s.resetAt := rfl
@[simp] theorem interrupt_stepping : (s.interrupt fn v).stepping = s.stepping := rfl
@[simp] theorem interrupt_devId : (s.interrupt fn v).devId = s.devId := rfl
@[simp] theorem interrupt_pins : (s.interrupt fn v).pins = s.pins := rfl
@[simp] theorem interrupt_boot : (s.interrupt fn v).boot = s.boot := rfl
@[simp] theorem interrupt_store : (s.interrupt fn v).store = s.store := rfl
@[simp] theorem interrupt_regs : (s.interrupt fn v).regs = s.regs := rfl
@[simp] theorem interrupt_stopped : (s.interrupt fn v).stopped = s.stopped := rfl
@[simp] theorem interrupt_mem : (s.interrupt fn v).mem = s.mem := rfl
@[simp] theorem interrupt_poison : (s.interrupt fn v).poison = s.poison := rfl
@[simp] theorem interrupt_latent : (s.interrupt fn v).latent = s.latent := rfl
@[simp] theorem interrupt_spad : (s.interrupt fn v).spad = s.spad := rfl
@[simp] theorem interrupt_spadPoison : (s.interrupt fn v).spadPoison = s.spadPoison := rfl
@[simp] theorem interrupt_spadHigh : (s.interrupt fn v).spadHigh = s.spadHigh := rfl
@[simp] theorem interrupt_tlb : (s.interrupt fn v).tlb = s.tlb := rfl
@[simp] theorem interrupt_dieTlb : (s.interrupt fn v).dieTlb = s.dieTlb := rfl
@[simp] theorem interrupt_walksWaiting : (s.interrupt fn v).walksWaiting = s.walksWaiting := rfl
@[simp] theorem interrupt_l2 : (s.interrupt fn v).l2 = s.l2 := rfl
@[simp] theorem interrupt_l2ways : (s.interrupt fn v).l2ways = s.l2ways := rfl
@[simp] theorem interrupt_retiring : (s.interrupt fn v).retiring = s.retiring := rfl
@[simp] theorem interrupt_mergeRecs : (s.interrupt fn v).mergeRecs = s.mergeRecs := rfl
@[simp] theorem interrupt_slices : (s.interrupt fn v).slices = s.slices := rfl
@[simp] theorem interrupt_conds : (s.interrupt fn v).conds = s.conds := rfl
@[simp] theorem interrupt_energy : (s.interrupt fn v).energy = s.energy := rfl
@[simp] theorem interrupt_lastRefill : (s.interrupt fn v).lastRefill = s.lastRefill := rfl
@[simp] theorem interrupt_refillAt : (s.interrupt fn v).refillAt = s.refillAt := rfl
@[simp] theorem interrupt_gain : (s.interrupt fn v).gain = s.gain := rfl
@[simp] theorem interrupt_gainAt : (s.interrupt fn v).gainAt = s.gainAt := rfl
@[simp] theorem interrupt_facets : (s.interrupt fn v).facets = s.facets := rfl
@[simp] theorem interrupt_islands : (s.interrupt fn v).islands = s.islands := rfl
@[simp] theorem interrupt_engines : (s.interrupt fn v).engines = s.engines := rfl
@[simp] theorem interrupt_arcs : (s.interrupt fn v).arcs = s.arcs := rfl
@[simp] theorem interrupt_merges : (s.interrupt fn v).merges = s.merges := rfl
@[simp] theorem interrupt_splitters : (s.interrupt fn v).splitters = s.splitters := rfl
@[simp] theorem interrupt_ceases : (s.interrupt fn v).ceases = s.ceases := rfl
@[simp] theorem interrupt_insts : (s.interrupt fn v).insts = s.insts := rfl
@[simp] theorem interrupt_nextInst : (s.interrupt fn v).nextInst = s.nextInst := rfl
@[simp] theorem interrupt_handles : (s.interrupt fn v).handles = s.handles := rfl
@[simp] theorem interrupt_gens : (s.interrupt fn v).gens = s.gens := rfl
@[simp] theorem interrupt_streams : (s.interrupt fn v).streams = s.streams := rfl
@[simp] theorem interrupt_chords : (s.interrupt fn v).chords = s.chords := rfl
@[simp] theorem interrupt_nextPut : (s.interrupt fn v).nextPut = s.nextPut := rfl
@[simp] theorem interrupt_resvs : (s.interrupt fn v).resvs = s.resvs := rfl
@[simp] theorem interrupt_txns : (s.interrupt fn v).txns = s.txns := rfl
@[simp] theorem interrupt_nextTx : (s.interrupt fn v).nextTx = s.nextTx := rfl
@[simp] theorem interrupt_performed : (s.interrupt fn v).performed = s.performed := rfl
@[simp] theorem interrupt_sup : (s.interrupt fn v).sup = s.sup := rfl
@[simp] theorem interrupt_sop : (s.interrupt fn v).sop = s.sop := rfl
@[simp] theorem interrupt_peers : (s.interrupt fn v).peers = s.peers := rfl
@[simp] theorem interrupt_outbox : (s.interrupt fn v).outbox = s.outbox := rfl
@[simp] theorem interrupt_replies : (s.interrupt fn v).replies = s.replies := rfl
@[simp] theorem interrupt_heard : (s.interrupt fn v).heard = s.heard := rfl
@[simp] theorem interrupt_domPath : (s.interrupt fn v).domPath = s.domPath := rfl
@[simp] theorem interrupt_tracked : (s.interrupt fn v).tracked = s.tracked := rfl
@[simp] theorem interrupt_acted : (s.interrupt fn v).acted = s.acted := rfl
@[simp] theorem interrupt_ptrs : (s.interrupt fn v).ptrs = s.ptrs := rfl
@[simp] theorem interrupt_hb : (s.interrupt fn v).hb = s.hb := rfl
@[simp] theorem interrupt_writeRels : (s.interrupt fn v).writeRels = s.writeRels := rfl
@[simp] theorem interrupt_parts : (s.interrupt fn v).parts = s.parts := rfl
@[simp] theorem interrupt_ctxs : (s.interrupt fn v).ctxs = s.ctxs := rfl
@[simp] theorem interrupt_queues : (s.interrupt fn v).queues = s.queues := rfl
@[simp] theorem interrupt_pool : (s.interrupt fn v).pool = s.pool := rfl
@[simp] theorem interrupt_poolGone : (s.interrupt fn v).poolGone = s.poolGone := rfl
@[simp] theorem interrupt_errPf : (s.interrupt fn v).errPf = s.errPf := rfl
@[simp] theorem interrupt_errPart : (s.interrupt fn v).errPart = s.errPart := rfl
@[simp] theorem interrupt_checks : (s.interrupt fn v).checks = s.checks := rfl
@[simp] theorem interrupt_keys : (s.interrupt fn v).keys = s.keys := rfl
@[simp] theorem interrupt_tdis : (s.interrupt fn v).tdis = s.tdis := rfl
@[simp] theorem interrupt_facetErrs : (s.interrupt fn v).facetErrs = s.facetErrs := rfl
@[simp] theorem interrupt_digests : (s.interrupt fn v).digests = s.digests := rfl
@[simp] theorem interrupt_interrupts : (s.interrupt fn v).interrupts = s.interrupts ++ [(fn, v)] := rfl
@[simp] theorem interrupt_hostReplies : (s.interrupt fn v).hostReplies = s.hostReplies := rfl
@[simp] theorem interrupt_hostReqs : (s.interrupt fn v).hostReqs = s.hostReqs := rfl
@[simp] theorem interrupt_cfgCache : (s.interrupt fn v).cfgCache = s.cfgCache := rfl

end

/-! ### debit -/

section
variable (s : State) (r cost : Nat)

@[simp] theorem debit_agenda : (s.debit r cost).agenda = s.agenda := rfl
@[simp] theorem debit_cur : (s.debit r cost).cur = s.cur := rfl
@[simp] theorem debit_fresh : (s.debit r cost).fresh = s.fresh := rfl
@[simp] theorem debit_clk : (s.debit r cost).clk = s.clk := rfl
@[simp] theorem debit_resetAt : (s.debit r cost).resetAt = s.resetAt := rfl
@[simp] theorem debit_stepping : (s.debit r cost).stepping = s.stepping := rfl
@[simp] theorem debit_devId : (s.debit r cost).devId = s.devId := rfl
@[simp] theorem debit_pins : (s.debit r cost).pins = s.pins := rfl
@[simp] theorem debit_boot : (s.debit r cost).boot = s.boot := rfl
@[simp] theorem debit_store : (s.debit r cost).store = s.store := rfl
@[simp] theorem debit_regs : (s.debit r cost).regs = s.regs := rfl
@[simp] theorem debit_stopped : (s.debit r cost).stopped = s.stopped := rfl
@[simp] theorem debit_mem : (s.debit r cost).mem = s.mem := rfl
@[simp] theorem debit_poison : (s.debit r cost).poison = s.poison := rfl
@[simp] theorem debit_latent : (s.debit r cost).latent = s.latent := rfl
@[simp] theorem debit_spad : (s.debit r cost).spad = s.spad := rfl
@[simp] theorem debit_spadPoison : (s.debit r cost).spadPoison = s.spadPoison := rfl
@[simp] theorem debit_spadHigh : (s.debit r cost).spadHigh = s.spadHigh := rfl
@[simp] theorem debit_tlb : (s.debit r cost).tlb = s.tlb := rfl
@[simp] theorem debit_dieTlb : (s.debit r cost).dieTlb = s.dieTlb := rfl
@[simp] theorem debit_walksWaiting : (s.debit r cost).walksWaiting = s.walksWaiting := rfl
@[simp] theorem debit_l2 : (s.debit r cost).l2 = s.l2 := rfl
@[simp] theorem debit_l2ways : (s.debit r cost).l2ways = s.l2ways := rfl
@[simp] theorem debit_retiring : (s.debit r cost).retiring = s.retiring := rfl
@[simp] theorem debit_mergeRecs : (s.debit r cost).mergeRecs = s.mergeRecs := rfl
@[simp] theorem debit_slices : (s.debit r cost).slices = s.slices := rfl
@[simp] theorem debit_conds : (s.debit r cost).conds = s.conds := rfl
@[simp] theorem debit_energy : (s.debit r cost).energy = s.energy.modify r fun e => e - cost := rfl
@[simp] theorem debit_lastRefill : (s.debit r cost).lastRefill = s.lastRefill := rfl
@[simp] theorem debit_refillAt : (s.debit r cost).refillAt = s.refillAt := rfl
@[simp] theorem debit_gain : (s.debit r cost).gain = s.gain := rfl
@[simp] theorem debit_gainAt : (s.debit r cost).gainAt = s.gainAt := rfl
@[simp] theorem debit_facets : (s.debit r cost).facets = s.facets := rfl
@[simp] theorem debit_islands : (s.debit r cost).islands = s.islands := rfl
@[simp] theorem debit_engines : (s.debit r cost).engines = s.engines := rfl
@[simp] theorem debit_arcs : (s.debit r cost).arcs = s.arcs := rfl
@[simp] theorem debit_merges : (s.debit r cost).merges = s.merges := rfl
@[simp] theorem debit_splitters : (s.debit r cost).splitters = s.splitters := rfl
@[simp] theorem debit_ceases : (s.debit r cost).ceases = s.ceases := rfl
@[simp] theorem debit_insts : (s.debit r cost).insts = s.insts := rfl
@[simp] theorem debit_nextInst : (s.debit r cost).nextInst = s.nextInst := rfl
@[simp] theorem debit_handles : (s.debit r cost).handles = s.handles := rfl
@[simp] theorem debit_gens : (s.debit r cost).gens = s.gens := rfl
@[simp] theorem debit_streams : (s.debit r cost).streams = s.streams := rfl
@[simp] theorem debit_chords : (s.debit r cost).chords = s.chords := rfl
@[simp] theorem debit_nextPut : (s.debit r cost).nextPut = s.nextPut := rfl
@[simp] theorem debit_resvs : (s.debit r cost).resvs = s.resvs := rfl
@[simp] theorem debit_txns : (s.debit r cost).txns = s.txns := rfl
@[simp] theorem debit_nextTx : (s.debit r cost).nextTx = s.nextTx := rfl
@[simp] theorem debit_performed : (s.debit r cost).performed = s.performed := rfl
@[simp] theorem debit_sup : (s.debit r cost).sup = s.sup := rfl
@[simp] theorem debit_sop : (s.debit r cost).sop = s.sop := rfl
@[simp] theorem debit_peers : (s.debit r cost).peers = s.peers := rfl
@[simp] theorem debit_outbox : (s.debit r cost).outbox = s.outbox := rfl
@[simp] theorem debit_replies : (s.debit r cost).replies = s.replies := rfl
@[simp] theorem debit_heard : (s.debit r cost).heard = s.heard := rfl
@[simp] theorem debit_domPath : (s.debit r cost).domPath = s.domPath := rfl
@[simp] theorem debit_tracked : (s.debit r cost).tracked = s.tracked := rfl
@[simp] theorem debit_acted : (s.debit r cost).acted = s.acted := rfl
@[simp] theorem debit_ptrs : (s.debit r cost).ptrs = s.ptrs := rfl
@[simp] theorem debit_hb : (s.debit r cost).hb = s.hb := rfl
@[simp] theorem debit_writeRels : (s.debit r cost).writeRels = s.writeRels := rfl
@[simp] theorem debit_parts : (s.debit r cost).parts = s.parts := rfl
@[simp] theorem debit_ctxs : (s.debit r cost).ctxs = s.ctxs := rfl
@[simp] theorem debit_queues : (s.debit r cost).queues = s.queues := rfl
@[simp] theorem debit_pool : (s.debit r cost).pool = s.pool := rfl
@[simp] theorem debit_poolGone : (s.debit r cost).poolGone = s.poolGone := rfl
@[simp] theorem debit_errPf : (s.debit r cost).errPf = s.errPf := rfl
@[simp] theorem debit_errPart : (s.debit r cost).errPart = s.errPart := rfl
@[simp] theorem debit_checks : (s.debit r cost).checks = s.checks := rfl
@[simp] theorem debit_keys : (s.debit r cost).keys = s.keys := rfl
@[simp] theorem debit_tdis : (s.debit r cost).tdis = s.tdis := rfl
@[simp] theorem debit_facetErrs : (s.debit r cost).facetErrs = s.facetErrs := rfl
@[simp] theorem debit_digests : (s.debit r cost).digests = s.digests := rfl
@[simp] theorem debit_interrupts : (s.debit r cost).interrupts = s.interrupts := rfl
@[simp] theorem debit_hostReplies : (s.debit r cost).hostReplies = s.hostReplies := rfl
@[simp] theorem debit_hostReqs : (s.debit r cost).hostReqs = s.hostReqs := rfl
@[simp] theorem debit_cfgCache : (s.debit r cost).cfgCache = s.cfgCache := rfl

end

/-! ### setStream -/

section
variable (s : State) (r st : Nat) (cs : List StreamCmd)

@[simp] theorem setStream_agenda : (s.setStream r st cs).agenda = s.agenda := rfl
@[simp] theorem setStream_cur : (s.setStream r st cs).cur = s.cur := rfl
@[simp] theorem setStream_fresh : (s.setStream r st cs).fresh = s.fresh := rfl
@[simp] theorem setStream_clk : (s.setStream r st cs).clk = s.clk := rfl
@[simp] theorem setStream_resetAt : (s.setStream r st cs).resetAt = s.resetAt := rfl
@[simp] theorem setStream_stepping : (s.setStream r st cs).stepping = s.stepping := rfl
@[simp] theorem setStream_devId : (s.setStream r st cs).devId = s.devId := rfl
@[simp] theorem setStream_pins : (s.setStream r st cs).pins = s.pins := rfl
@[simp] theorem setStream_boot : (s.setStream r st cs).boot = s.boot := rfl
@[simp] theorem setStream_store : (s.setStream r st cs).store = s.store := rfl
@[simp] theorem setStream_regs : (s.setStream r st cs).regs = s.regs := rfl
@[simp] theorem setStream_stopped : (s.setStream r st cs).stopped = s.stopped := rfl
@[simp] theorem setStream_mem : (s.setStream r st cs).mem = s.mem := rfl
@[simp] theorem setStream_poison : (s.setStream r st cs).poison = s.poison := rfl
@[simp] theorem setStream_latent : (s.setStream r st cs).latent = s.latent := rfl
@[simp] theorem setStream_spad : (s.setStream r st cs).spad = s.spad := rfl
@[simp] theorem setStream_spadPoison : (s.setStream r st cs).spadPoison = s.spadPoison := rfl
@[simp] theorem setStream_spadHigh : (s.setStream r st cs).spadHigh = s.spadHigh := rfl
@[simp] theorem setStream_tlb : (s.setStream r st cs).tlb = s.tlb := rfl
@[simp] theorem setStream_dieTlb : (s.setStream r st cs).dieTlb = s.dieTlb := rfl
@[simp] theorem setStream_walksWaiting : (s.setStream r st cs).walksWaiting = s.walksWaiting := rfl
@[simp] theorem setStream_l2 : (s.setStream r st cs).l2 = s.l2 := rfl
@[simp] theorem setStream_l2ways : (s.setStream r st cs).l2ways = s.l2ways := rfl
@[simp] theorem setStream_retiring : (s.setStream r st cs).retiring = s.retiring := rfl
@[simp] theorem setStream_mergeRecs : (s.setStream r st cs).mergeRecs = s.mergeRecs := rfl
@[simp] theorem setStream_slices : (s.setStream r st cs).slices = s.slices := rfl
@[simp] theorem setStream_conds : (s.setStream r st cs).conds = s.conds := rfl
@[simp] theorem setStream_energy : (s.setStream r st cs).energy = s.energy := rfl
@[simp] theorem setStream_lastRefill : (s.setStream r st cs).lastRefill = s.lastRefill := rfl
@[simp] theorem setStream_refillAt : (s.setStream r st cs).refillAt = s.refillAt := rfl
@[simp] theorem setStream_gain : (s.setStream r st cs).gain = s.gain := rfl
@[simp] theorem setStream_gainAt : (s.setStream r st cs).gainAt = s.gainAt := rfl
@[simp] theorem setStream_facets : (s.setStream r st cs).facets = s.facets := rfl
@[simp] theorem setStream_islands : (s.setStream r st cs).islands = s.islands := rfl
@[simp] theorem setStream_engines : (s.setStream r st cs).engines = s.engines := rfl
@[simp] theorem setStream_arcs : (s.setStream r st cs).arcs = s.arcs := rfl
@[simp] theorem setStream_merges : (s.setStream r st cs).merges = s.merges := rfl
@[simp] theorem setStream_splitters : (s.setStream r st cs).splitters = s.splitters := rfl
@[simp] theorem setStream_ceases : (s.setStream r st cs).ceases = s.ceases := rfl
@[simp] theorem setStream_insts : (s.setStream r st cs).insts = s.insts := rfl
@[simp] theorem setStream_nextInst : (s.setStream r st cs).nextInst = s.nextInst := rfl
@[simp] theorem setStream_handles : (s.setStream r st cs).handles = s.handles := rfl
@[simp] theorem setStream_gens : (s.setStream r st cs).gens = s.gens := rfl
@[simp] theorem setStream_chords : (s.setStream r st cs).chords = s.chords := rfl
@[simp] theorem setStream_nextPut : (s.setStream r st cs).nextPut = s.nextPut := rfl
@[simp] theorem setStream_resvs : (s.setStream r st cs).resvs = s.resvs := rfl
@[simp] theorem setStream_txns : (s.setStream r st cs).txns = s.txns := rfl
@[simp] theorem setStream_nextTx : (s.setStream r st cs).nextTx = s.nextTx := rfl
@[simp] theorem setStream_performed : (s.setStream r st cs).performed = s.performed := rfl
@[simp] theorem setStream_sup : (s.setStream r st cs).sup = s.sup := rfl
@[simp] theorem setStream_sop : (s.setStream r st cs).sop = s.sop := rfl
@[simp] theorem setStream_peers : (s.setStream r st cs).peers = s.peers := rfl
@[simp] theorem setStream_outbox : (s.setStream r st cs).outbox = s.outbox := rfl
@[simp] theorem setStream_replies : (s.setStream r st cs).replies = s.replies := rfl
@[simp] theorem setStream_heard : (s.setStream r st cs).heard = s.heard := rfl
@[simp] theorem setStream_domPath : (s.setStream r st cs).domPath = s.domPath := rfl
@[simp] theorem setStream_tracked : (s.setStream r st cs).tracked = s.tracked := rfl
@[simp] theorem setStream_acted : (s.setStream r st cs).acted = s.acted := rfl
@[simp] theorem setStream_ptrs : (s.setStream r st cs).ptrs = s.ptrs := rfl
@[simp] theorem setStream_hb : (s.setStream r st cs).hb = s.hb := rfl
@[simp] theorem setStream_writeRels : (s.setStream r st cs).writeRels = s.writeRels := rfl
@[simp] theorem setStream_parts : (s.setStream r st cs).parts = s.parts := rfl
@[simp] theorem setStream_ctxs : (s.setStream r st cs).ctxs = s.ctxs := rfl
@[simp] theorem setStream_queues : (s.setStream r st cs).queues = s.queues := rfl
@[simp] theorem setStream_pool : (s.setStream r st cs).pool = s.pool := rfl
@[simp] theorem setStream_poolGone : (s.setStream r st cs).poolGone = s.poolGone := rfl
@[simp] theorem setStream_errPf : (s.setStream r st cs).errPf = s.errPf := rfl
@[simp] theorem setStream_errPart : (s.setStream r st cs).errPart = s.errPart := rfl
@[simp] theorem setStream_checks : (s.setStream r st cs).checks = s.checks := rfl
@[simp] theorem setStream_keys : (s.setStream r st cs).keys = s.keys := rfl
@[simp] theorem setStream_tdis : (s.setStream r st cs).tdis = s.tdis := rfl
@[simp] theorem setStream_facetErrs : (s.setStream r st cs).facetErrs = s.facetErrs := rfl
@[simp] theorem setStream_digests : (s.setStream r st cs).digests = s.digests := rfl
@[simp] theorem setStream_interrupts : (s.setStream r st cs).interrupts = s.interrupts := rfl
@[simp] theorem setStream_hostReplies : (s.setStream r st cs).hostReplies = s.hostReplies := rfl
@[simp] theorem setStream_hostReqs : (s.setStream r st cs).hostReqs = s.hostReqs := rfl
@[simp] theorem setStream_cfgCache : (s.setStream r st cs).cfgCache = s.cfgCache := rfl

end

/-! ### setChord -/

section
variable (s : State) (e : Nat) (c : ChordEngine)

@[simp] theorem setChord_agenda : (s.setChord e c).agenda = s.agenda := rfl
@[simp] theorem setChord_cur : (s.setChord e c).cur = s.cur := rfl
@[simp] theorem setChord_fresh : (s.setChord e c).fresh = s.fresh := rfl
@[simp] theorem setChord_clk : (s.setChord e c).clk = s.clk := rfl
@[simp] theorem setChord_resetAt : (s.setChord e c).resetAt = s.resetAt := rfl
@[simp] theorem setChord_stepping : (s.setChord e c).stepping = s.stepping := rfl
@[simp] theorem setChord_devId : (s.setChord e c).devId = s.devId := rfl
@[simp] theorem setChord_pins : (s.setChord e c).pins = s.pins := rfl
@[simp] theorem setChord_boot : (s.setChord e c).boot = s.boot := rfl
@[simp] theorem setChord_store : (s.setChord e c).store = s.store := rfl
@[simp] theorem setChord_regs : (s.setChord e c).regs = s.regs := rfl
@[simp] theorem setChord_stopped : (s.setChord e c).stopped = s.stopped := rfl
@[simp] theorem setChord_mem : (s.setChord e c).mem = s.mem := rfl
@[simp] theorem setChord_poison : (s.setChord e c).poison = s.poison := rfl
@[simp] theorem setChord_latent : (s.setChord e c).latent = s.latent := rfl
@[simp] theorem setChord_spad : (s.setChord e c).spad = s.spad := rfl
@[simp] theorem setChord_spadPoison : (s.setChord e c).spadPoison = s.spadPoison := rfl
@[simp] theorem setChord_spadHigh : (s.setChord e c).spadHigh = s.spadHigh := rfl
@[simp] theorem setChord_tlb : (s.setChord e c).tlb = s.tlb := rfl
@[simp] theorem setChord_dieTlb : (s.setChord e c).dieTlb = s.dieTlb := rfl
@[simp] theorem setChord_walksWaiting : (s.setChord e c).walksWaiting = s.walksWaiting := rfl
@[simp] theorem setChord_l2 : (s.setChord e c).l2 = s.l2 := rfl
@[simp] theorem setChord_l2ways : (s.setChord e c).l2ways = s.l2ways := rfl
@[simp] theorem setChord_retiring : (s.setChord e c).retiring = s.retiring := rfl
@[simp] theorem setChord_mergeRecs : (s.setChord e c).mergeRecs = s.mergeRecs := rfl
@[simp] theorem setChord_slices : (s.setChord e c).slices = s.slices := rfl
@[simp] theorem setChord_conds : (s.setChord e c).conds = s.conds := rfl
@[simp] theorem setChord_energy : (s.setChord e c).energy = s.energy := rfl
@[simp] theorem setChord_lastRefill : (s.setChord e c).lastRefill = s.lastRefill := rfl
@[simp] theorem setChord_refillAt : (s.setChord e c).refillAt = s.refillAt := rfl
@[simp] theorem setChord_gain : (s.setChord e c).gain = s.gain := rfl
@[simp] theorem setChord_gainAt : (s.setChord e c).gainAt = s.gainAt := rfl
@[simp] theorem setChord_facets : (s.setChord e c).facets = s.facets := rfl
@[simp] theorem setChord_islands : (s.setChord e c).islands = s.islands := rfl
@[simp] theorem setChord_engines : (s.setChord e c).engines = s.engines := rfl
@[simp] theorem setChord_arcs : (s.setChord e c).arcs = s.arcs := rfl
@[simp] theorem setChord_merges : (s.setChord e c).merges = s.merges := rfl
@[simp] theorem setChord_splitters : (s.setChord e c).splitters = s.splitters := rfl
@[simp] theorem setChord_ceases : (s.setChord e c).ceases = s.ceases := rfl
@[simp] theorem setChord_insts : (s.setChord e c).insts = s.insts := rfl
@[simp] theorem setChord_nextInst : (s.setChord e c).nextInst = s.nextInst := rfl
@[simp] theorem setChord_handles : (s.setChord e c).handles = s.handles := rfl
@[simp] theorem setChord_gens : (s.setChord e c).gens = s.gens := rfl
@[simp] theorem setChord_streams : (s.setChord e c).streams = s.streams := rfl
@[simp] theorem setChord_nextPut : (s.setChord e c).nextPut = s.nextPut := rfl
@[simp] theorem setChord_resvs : (s.setChord e c).resvs = s.resvs := rfl
@[simp] theorem setChord_txns : (s.setChord e c).txns = s.txns := rfl
@[simp] theorem setChord_nextTx : (s.setChord e c).nextTx = s.nextTx := rfl
@[simp] theorem setChord_performed : (s.setChord e c).performed = s.performed := rfl
@[simp] theorem setChord_sup : (s.setChord e c).sup = s.sup := rfl
@[simp] theorem setChord_sop : (s.setChord e c).sop = s.sop := rfl
@[simp] theorem setChord_peers : (s.setChord e c).peers = s.peers := rfl
@[simp] theorem setChord_outbox : (s.setChord e c).outbox = s.outbox := rfl
@[simp] theorem setChord_replies : (s.setChord e c).replies = s.replies := rfl
@[simp] theorem setChord_heard : (s.setChord e c).heard = s.heard := rfl
@[simp] theorem setChord_domPath : (s.setChord e c).domPath = s.domPath := rfl
@[simp] theorem setChord_tracked : (s.setChord e c).tracked = s.tracked := rfl
@[simp] theorem setChord_acted : (s.setChord e c).acted = s.acted := rfl
@[simp] theorem setChord_ptrs : (s.setChord e c).ptrs = s.ptrs := rfl
@[simp] theorem setChord_hb : (s.setChord e c).hb = s.hb := rfl
@[simp] theorem setChord_writeRels : (s.setChord e c).writeRels = s.writeRels := rfl
@[simp] theorem setChord_parts : (s.setChord e c).parts = s.parts := rfl
@[simp] theorem setChord_ctxs : (s.setChord e c).ctxs = s.ctxs := rfl
@[simp] theorem setChord_queues : (s.setChord e c).queues = s.queues := rfl
@[simp] theorem setChord_pool : (s.setChord e c).pool = s.pool := rfl
@[simp] theorem setChord_poolGone : (s.setChord e c).poolGone = s.poolGone := rfl
@[simp] theorem setChord_errPf : (s.setChord e c).errPf = s.errPf := rfl
@[simp] theorem setChord_errPart : (s.setChord e c).errPart = s.errPart := rfl
@[simp] theorem setChord_checks : (s.setChord e c).checks = s.checks := rfl
@[simp] theorem setChord_keys : (s.setChord e c).keys = s.keys := rfl
@[simp] theorem setChord_tdis : (s.setChord e c).tdis = s.tdis := rfl
@[simp] theorem setChord_facetErrs : (s.setChord e c).facetErrs = s.facetErrs := rfl
@[simp] theorem setChord_digests : (s.setChord e c).digests = s.digests := rfl
@[simp] theorem setChord_interrupts : (s.setChord e c).interrupts = s.interrupts := rfl
@[simp] theorem setChord_hostReplies : (s.setChord e c).hostReplies = s.hostReplies := rfl
@[simp] theorem setChord_hostReqs : (s.setChord e c).hostReqs = s.hostReqs := rfl
@[simp] theorem setChord_cfgCache : (s.setChord e c).cfgCache = s.cfgCache := rfl

end

/-! ### The updates made of these -/

theorem fired_eq (s : State) (id : Nat) : s.fired id = s.modInst id fun i => { i with sinceFiring := 0 } := rfl

theorem beat_eq (s : State) (q : Nat) : s.beat q = s.modQueue q fun x => { x with timer := 0 } := rfl

theorem nodeFault_eq (s : State) (r : Nat) (f : NodeFault) :
    s.nodeFault r f = s.modCond r fun c => { c with pend := c.pend ++ [f] } := rfl

theorem setX_eq (s : State) (r : Nat) (d : Reg) (v : Word64) : s.setX r d v = s.modCond r fun c => c.set d v := rfl

end Sys2Proof.Machine.State
end

