-- ==== Sys2Proof/Laws/Ops.lean ====
section
/-!
SUPPORT. What the shared operations can do, each said once: registers, traps and the return from one, how a conductor
instruction ends, how a firing ends, and how a step picks what it executes.
-/
namespace Sys2Proof.Machine

/-! ### Registers (R142) -/

@[simp] theorem Conductor.get_zero (c : Conductor) : c.get 0 = 0 := rfl

@[simp] theorem Conductor.set_zero (c : Conductor) (v : Word64) : c.set 0 v = c := rfl

theorem Conductor.get_set_same (c : Conductor) {d : Reg} (v : Word64) (h : d ≠ 0) (hd : d.val < c.x.length) :
    (c.set d v).get d = v := by
  simp [Conductor.get, Conductor.set, h, hd]

theorem Conductor.get_set_other (c : Conductor) {d r : Reg} (v : Word64) (h : r ≠ d) :
    (c.set d v).get r = c.get r := by
  have hv : d.val ≠ r.val := fun e => h (Fin.ext e.symm)
  by_cases h0 : d = 0
  · rw [h0, Conductor.set_zero]
  · by_cases hr : r = 0
    · rw [hr, Conductor.get_zero, Conductor.get_zero]
    · simp [Conductor.get, Conductor.set, h0, hr, hv]

/-! ### Conductors by number -/

@[simp] theorem State.cond?_modCond_same (s : State) (r : Nat) (f : Conductor → Conductor) :
    (s.modCond r f).cond? r = (s.cond? r).map f := by
  simp [State.cond?, State.modCond]

theorem State.cond?_modCond_other (s : State) {r q : Nat} (f : Conductor → Conductor) (h : q ≠ r) :
    (s.modCond r f).cond? q = s.cond? q := by
  simp [State.cond?, State.modCond, h.symm]

/-! ### Traps and the return from one (R206 to R208) -/

section
variable (c : Conductor) (epc : Word64) (t : Trap)

@[simp] theorem Conductor.trap_epc : (c.trap epc t).epc = epc := rfl
@[simp] theorem Conductor.trap_cause : (c.trap epc t).cause = causeWord t := rfl
@[simp] theorem Conductor.trap_pc : (c.trap epc t).pc = c.tvec := rfl
@[simp] theorem Conductor.trap_pl : (c.trap epc t).pl = true := rfl
@[simp] theorem Conductor.trap_ppl : (c.trap epc t).ppl = c.pl := rfl
@[simp] theorem Conductor.trap_x : (c.trap epc t).x = c.x := rfl
@[simp] theorem Conductor.trap_faddr : (c.trap epc t).faddr = t.faddr.getD c.faddr := rfl
@[simp] theorem Conductor.trap_finfo : (c.trap epc t).finfo = t.finfo.getD c.finfo := rfl
@[simp] theorem Conductor.trap_pend : (c.trap epc t).pend = c.pend := rfl

/-- A return with no node fault pending. -/
theorem Conductor.eret_quiet (h : c.pend = []) : c.eret =
    { c with pc := c.epc, pl := c.ppl, issued := false, wfi := none, arrived := [], handling := none,
             told := false } := by
  unfold Conductor.eret
  simp only [h]
  split <;> rfl

/-- A return to system level takes no node fault (R207). -/
theorem Conductor.eret_system (h : c.ppl = true) : c.eret =
    { c with pc := c.epc, pl := c.ppl, issued := false, wfi := none, arrived := [], handling := none,
             told := false } := by
  simp [Conductor.eret, h]

end

/-! ### How a conductor instruction ends -/

/-- Every conductor instruction answers a next state where its conductor exists. -/
theorem conductor_next {s : State} {c : Conductor} (f : Nat → Conductor → CondRes) (h : s.cond? s.cur.region = some c) :
    conductor s f = .next (settle s s.cur.region c (f s.cur.region c)) := by
  rw [conductor, h]

/-- All that a conductor instruction can answer. -/
theorem conductor_cases {s t : State} {f : Nat → Conductor → CondRes} (h : conductor s f = .next t) :
    ∃ c, s.cond? s.cur.region = some c ∧ t = settle s s.cur.region c (f s.cur.region c) := by
  unfold conductor at h
  split at h
  · cases h
  · rename_i c hc
    cases h
    exact ⟨c, hc, rfl⟩

theorem settle_trap (s : State) (r : Nat) (c : Conductor) (t : Trap) :
    settle s r c (.trap t) = (s.meets t.found).modCond r fun c => c.trapHere t := rfl

/-- Where no error is found, a state stays as it is. -/
@[simp] theorem State.meets_none (s : State) : s.meets none = s := rfl

theorem settle_wait (s s' : State) (r : Nat) (c : Conductor) : settle s r c (.wait s') = s' := rfl

/-- Completion, of a conductor with an instance and of one without. -/
theorem settle_done (s s' : State) (r : Nat) (c : Conductor) : settle s r c (.done s') =
    match c.inst with
    | some id => (s'.modCond r fun d => d.complete (!c.pl) (c.pc + 4)).fired id
    | none => s'.modCond r fun d => d.complete (!c.pl) (c.pc + 4) := rfl

theorem settle_jump (s s' : State) (r : Nat) (c : Conductor) (pc : Word64) : settle s r c (.jump s' pc) =
    match c.inst with
    | some id => (s'.modCond r fun d => d.complete (!c.pl) pc).fired id
    | none => s'.modCond r fun d => d.complete (!c.pl) pc := rfl

/-- Completion keeps both memories of what the instruction left. -/
theorem settle_done_mem (s s' : State) (r : Nat) (c : Conductor) :
    (settle s r c (.done s')).mem = s'.mem ∧ (settle s r c (.done s')).spad = s'.spad := by
  rw [settle_done]
  cases c.inst <;> exact ⟨rfl, rfl⟩

/-! ### How a firing ends (R10, R49, R50) -/

/-- All that a firing can answer: BREAK, the first member of a chain fired, or the whole firing made. -/
theorem firing_cases {i : Instr} {ev : Eval} {s t : State} (h : firing i ev s = .next t) :
    ∃ u, ((s.facetsAt s.cur.region s.cur.rank).find? fun u => u.node == s.cur.node) = some u ∧
      (t = s.facetFault u s.cur.slot { cause := .brk } ∨
        t = s.modFacet u.inst u.node u.clone 0 (fun v => { v with chainFire := some (s.cur.slot, 1), firedAt := some s.clk }) ∨
        t = fireAll i ev s.cur.slot (s.cur.mode == .assisted) (s.chainOf u) s) := by
  unfold firing at h
  split at h
  · cases h
  · rename_i u hu
    refine ⟨u, hu, ?_⟩
    simp only at h
    split at h
    · exact Or.inl (by cases h; rfl)
    · split at h
      · exact Or.inr (Or.inl (by cases h; rfl))
      · exact Or.inr (Or.inr (by cases h; rfl))

/-- A firing answers a next state where its unit exists. -/
theorem firing_next {s : State} {u : FacetUnit} (i : Instr) (ev : Eval)
    (h : ((s.facetsAt s.cur.region s.cur.rank).find? fun u => u.node == s.cur.node) = some u) :
    ∃ t, firing i ev s = .next t := by
  unfold firing
  simp only [h]
  split
  · exact ⟨_, rfl⟩
  · split <;> exact ⟨_, rfl⟩

/-- The whole firing of a unit that is no chain, past the debug-trap bits: what `fireAll` makes of it. -/
theorem firing_single {s : State} {u : FacetUnit} (i : Instr) (ev : Eval)
    (h : ((s.facetsAt s.cur.region s.cur.rank).find? fun u => u.node == s.cur.node) = some u) (hm : s.cur.mode = .normal)
    (hd : u.dbg.getLsbD s.cur.slot = false) (hc : u.chain ≤ 1) :
    firing i ev s = .next (fireAll i ev s.cur.slot false (s.chainOf u) s) := by
  have hn : ¬ u.chain > 1 := by omega
  unfold firing
  simp only [h, hm, hd, hn]
  rfl

/-! ### What a step executes (log entry 1) -/

section
variable (s : State) (rest : List Turn)

theorem step_idle (h : s.agenda = []) : step s = .next s.tick := by
  unfold step; rw [h]

theorem step_clock (h : s.agenda = .clock :: rest) : step s = .next { s with agenda := rest }.tick := by
  unfold step; rw [h]

theorem step_event (i : Instr) (h : s.agenda = .event i :: rest) : step s = exec i { s with agenda := rest } := by
  unfold step; rw [h]

theorem step_conductor (r : Nat) (h : s.agenda = .conductor r :: rest) :
    step s = conductorTurn r { s with agenda := rest, cur := { region := r } } := by
  unfold step; rw [h]

theorem step_facet (r rank : Nat) (h : s.agenda = .facet r rank :: rest) :
    step s = facetTurn r rank { s with agenda := rest } := by
  unfold step; rw [h]

end

/-- A conductor's turn that fetches a word and has the energy for it executes the instruction decoded. -/
theorem conductorTurn_word {r : Nat} {s s1 s2 : State} {c : Conductor} {w : BitVec 32} {i : Instr}
    (hc : s.cond? r = some c) (hr : s.condRuns c = true) (ha : s.mayAct r 64 = true)
    (hb : (!c.pl && !c.bskip && s.matched r c) = false) (hf : s.fetch r c = .word s1 w)
    (he : s1.issueCost r c w = some s2) (hd : Decode.conductor w = .ok i) :
    conductorTurn r s = exec i (s2.didAct r 64) := by
  unfold conductorTurn
  simp only [hc, hr, ha, hb, hf, he, hd]
  rfl

/-- A facet's turn executes the instruction it chose. -/
theorem facetTurn_chosen {r rank : Nat} {s s' : State} {i : Instr} (ha : s.mayAct r rank = true)
    (h : s.chosen r rank = some (i, s')) : facetTurn r rank s = exec i (s'.didAct r rank) := by
  unfold facetTurn
  simp only [ha, h, if_true]

end Sys2Proof.Machine
end

