-- ==== Sys2Proof/Laws/Firing.lean ====
section
/-!
SUPPORT. What a firing of one facet can do, said once: how it is committed (`firing_fires`), and all that one which writes a
value leaves behind (`firedOnce_gave`).
-/
namespace Sys2Proof.Machine

theorem FacetUnit.is_self (u : FacetUnit) : u.is u.inst u.node u.clone u.pos = true := by simp [FacetUnit.is]

theorem FacetUnit.is_iff {u : FacetUnit} {i n c p : Nat} :
    u.is i n c p = true ↔ u.inst = i ∧ u.node = n ∧ u.clone = c ∧ u.pos = p := by
  simp [FacetUnit.is, and_assoc]

theorem State.facet?_is {s : State} {i n c p : Nat} {u : FacetUnit} (h : s.facet? i n c p = some u) : u.is i n c p = true :=
  by simpa using List.find?_some h

theorem State.facet?_modFacet_other (s : State) {i n c p i' n' c' p' : Nat} (f : FacetUnit → FacetUnit)
    (hf : ∀ u : FacetUnit, u.is i' n' c' p' = true → u.is i n c p = false ∧ (f u).is i n c p = false) :
    (s.modFacet i' n' c' p' f).facet? i n c p = s.facet? i n c p := by
  unfold State.facet? State.modFacet
  generalize s.facets = l
  simp only
  induction l with
  | nil => rfl
  | cons v l ih =>
    by_cases hv : v.is i' n' c' p' = true
    · simp [hv, hf v hv, ih]
    · have hv' : v.is i' n' c' p' = false := by simpa using hv
      simp only [List.map_cons, hv', if_false, Bool.false_eq_true]
      by_cases hk : v.is i n c p = true
      · simp [hk]
      · have hk' : v.is i n c p = false := by simpa using hk
        simpa [hk'] using ih


theorem State.facet?_modFacet_same {s : State} {i n c p : Nat} {u : FacetUnit} (f : FacetUnit → FacetUnit)
    (h : s.facet? i n c p = some u) (hf : (f u).is i n c p = true) :
    (s.modFacet i n c p f).facet? i n c p = some (f u) := by
  have hu := State.facet?_is h
  unfold State.facet? at h
  unfold State.facet? State.modFacet
  generalize s.facets = l at h
  simp only
  induction l with
  | nil => simp at h
  | cons v l ih =>
    by_cases hv : v.is i n c p = true
    · have hvu : v = u := by simpa [List.find?, hv] using h
      subst hvu
      simp [hv, hf]
    · have hv' : v.is i n c p = false := by simpa using hv
      have h' : l.find? (fun u => u.is i n c p) = some u := by simpa [List.find?, hv'] using h
      simpa [List.find?, hv'] using ih h'

theorem State.observe_eq (s : State) (a : Agent) (rels : List RelPoint) : ∃ h, s.observe a rels = { s with hb := h } := by
  by_cases h : (rels.filter fun r => !(s.hbOf a).seen.contains r).isEmpty = true
  · exact ⟨s.hb, by simp only [State.observe, h, if_true]⟩
  · exact ⟨_, by simp only [State.observe, h]; rfl⟩

theorem State.orderAfter_eq (s : State) (a : Agent) (vc : VClock) : ∃ h, s.orderAfter a vc = { s with hb := h } := by
  by_cases h : vc.isEmpty = true
  · exact ⟨s.hb, by simp only [State.orderAfter, h, if_true]⟩
  · exact ⟨_, by simp only [State.orderAfter, h]; rfl⟩

/-- A firing's observations change what agents know, and nothing else. -/
theorem State.observed_eq (s : State) (i : Instr) (u : FacetUnit) : ∃ h, s.observed i u = { s with hb := h } := by
  unfold State.observed
  generalize (s.seen u).tokensRead i = l
  induction l generalizing s with
  | nil => exact ⟨s.hb, rfl⟩
  | cons t l ih =>
    obtain ⟨h1, e1⟩ := s.observe_eq u.agent t.rels
    obtain ⟨h2, e2⟩ := (s.observe u.agent t.rels).orderAfter_eq u.agent t.before
    obtain ⟨h3, e3⟩ := ih ((s.observe u.agent t.rels).orderAfter u.agent t.before)
    exact ⟨h3, by rw [List.foldl_cons, e3, e2, e1]⟩

/-- The member of a firing that reads no poison is evaluated (R44). -/
theorem evalMember_clean {s : State} {u : FacetUnit} {i : Instr} (ev : Eval) (hp : s.clean u i) :
    evalMember i ev { rd := s, s := s, u := s.seen u, lead := u, w := i.word, slot := s.cur.slot, assisted := false } =
      ev (s.fire1 i u) := by
  have hpsn : ((s.seen u).tokensRead i).any Token.psn = false := by
    rw [List.any_eq_false]
    intro t ht
    simp [hp.1 t ht]
  unfold evalMember
  simp only [hpsn, hp.2, Bool.or_false, if_false, Bool.false_eq_true]
  rfl

/-- The firing of a unit that is a chain of one facet, evaluated to `fx`: it is committed. -/
theorem firing_fires {s : State} {u : FacetUnit} {i : Instr} {ev : Eval} {s' : State} {fx : Fx} (h : s.fires u)
    (he : ev (s.fire1 i u) = .ok s' fx) (hp : s.clean u i) :
    firing i ev s = .next (s'.firedOnce i u s.cur.slot fx) := by
  have hc : s.chainOf u = [u] := by
    simp [State.chainOf, h.chain, List.range_succ, h.found]
  have hm := (evalMember_clean ev hp).trans he
  unfold State.seen at hm
  rw [firing_single i ev h.here h.mode h.debug (by rw [h.chain]), hc]
  unfold fireAll
  simp only [Volley.run, Volley.member, hm]
  simp only [List.reverse_cons, List.reverse_nil, List.nil_append, List.foldl_cons, List.foldl_nil, State.firedOnce, h.pos]

theorem State.emittedVersion_frame (s : State) (i n : Nat) : ∃ l, s.emittedVersion i n = { s with insts := l } := ⟨_, rfl⟩

/-- A commit changes the member, and the versions its instance has emitted. -/
theorem State.commitMember_eq {s : State} {u v : FacetUnit} (i : Instr) (fx : Fx) (h : s.facet? u.inst u.node u.clone u.pos = some v) :
    ∃ l, s.commitMember i u fx =
      { s.modFacet u.inst u.node u.clone u.pos fun _ =>
          v.commit i (s.facetMask u) (s.hbOf u.agent) fx with insts := l } := by
  unfold State.commitMember
  rw [h]
  obtain ⟨e1, e2, e3, e4⟩ := FacetUnit.is_iff.mp (State.facet?_is h)
  dsimp only
  unfold State.become
  rw [e1, e2, e3, e4]
  by_cases hv : (newVersions v (v.commit i (s.facetMask u) (s.hbOf u.agent) fx)).isEmpty = true
  · exact ⟨s.insts, by simp only [hv, if_true]; rfl⟩
  · exact ⟨_, by simp only [hv]; rfl⟩

theorem FacetUnit.nextSeq_key (u : FacetUnit) (o : Nat) (f : Option Token) (d : List Token) :
    ∃ a b, (u.nextSeq o f d).2 = { u with seqnext := a, seqcnt := b } := by
  unfold FacetUnit.nextSeq
  split
  · exact ⟨_, u.seqcnt, rfl⟩
  · split
    · exact ⟨_, _, rfl⟩
    · exact ⟨_, _, rfl⟩
    · split
      · exact ⟨_, _, rfl⟩
      · exact ⟨u.seqnext, _, rfl⟩

theorem FacetUnit.sideFor_key (u : FacetUnit) (w : FWord) (o k : Nat) (f : Option Token) (d : List Token) :
    ∃ a b, (u.sideFor w o k f d).2 = { u with seqnext := a, seqcnt := b } := u.nextSeq_key o f d

/-- What placing emissions can change of a facet: its buffers and its SEQ state. -/
theorem FacetUnit.placeAll_key (w : FWord) (mask : Nat → BitVec 4) (h : AgentHB) (f : Option Token) (d : List Token)
    (es : List Emission) (u : FacetUnit) (prev : Word64) :
    ∃ a b o c, u.placeAll w mask h f d prev es = { u with seqnext := a, seqcnt := b, outs := o, couts := c } := by
  induction es generalizing u prev with
  | nil => exact ⟨u.seqnext, u.seqcnt, u.outs, u.couts, rfl⟩
  | cons e es ih =>
    have key : ∃ a b o c, (u.place w mask h f d prev e).2 = { u with seqnext := a, seqcnt := b, outs := o, couts := c } := by
      obtain ⟨a, b, hk⟩ := u.sideFor_key w e.port e.kind f d
      unfold FacetUnit.place
      cases e.raw with
      | some r => by_cases hp : e.port < 4 <;> simp only [hp, if_true, if_false] <;> exact ⟨u.seqnext, u.seqcnt, _, _, rfl⟩
      | none =>
        by_cases h4 : e.port ≥ 4
        · have hp : ¬ e.port < 4 := by omega
          simp only [h4, hp, if_true, if_false]
          exact ⟨u.seqnext, u.seqcnt, _, _, rfl⟩
        · have hp : e.port < 4 := by omega
          by_cases hs : e.same = true
          · simp only [h4, hp, hs, if_true, if_false]
            exact ⟨u.seqnext, u.seqcnt, _, _, rfl⟩
          · have hs' : e.same = false := by simpa using hs
            simp only [h4, hp, hs', if_true, if_false, Bool.false_eq_true]
            cases e.ver <;> simp only [hk] <;> exact ⟨a, b, _, _, rfl⟩
    obtain ⟨a1, b1, o1, c1, h1⟩ := key
    obtain ⟨a2, b2, o2, c2, h2⟩ := ih (u.place w mask h f d prev e).2 (u.place w mask h f d prev e).1
    refine ⟨a2, b2, o2, c2, ?_⟩
    show (u.place w mask h f d prev e).2.placeAll w mask h f d (u.place w mask h f d prev e).1 es = _
    rw [h2, h1]

theorem sideOf_kind0 (ver : BitVec 32) (seq : BitVec 16) (psn : Bool) (tag : BitVec 2) :
    Word.field (sideOf ver seq psn tag 0) 1 0 = 0 := by
  have h1 := tag.isLt
  have h2 : psn.toNat ≤ 1 := Bool.toNat_le psn
  simp [Word.field, sideOf, pack]
  omega

/-- What one DATA emission of a value leaves in a buffer. -/
theorem FacetUnit.place_data (u : FacetUnit) (w : FWord) (mask : Nat → BitVec 4) (h : AgentHB) (f : Option Token) (d : List Token)
    (prev : Word64) (p : Fin 4) (x : Word128) :
    ∃ a b e, (u.placeAll w mask h f d prev [{ port := p.val, payload := x }]) =
        { u with seqnext := a, seqcnt := b, outs := u.outs.modify p.val fun es => es ++ [e] } ∧
      e.tok.payload = x ∧ e.tok.kind = 0 := by
  obtain ⟨a, b, hk⟩ := u.sideFor_key w p.val 0 f d
  have hp : p.val < 4 := p.isLt
  have h4 : ¬ p.val ≥ 4 := by omega
  refine ⟨a, b, ⟨{ payload := x, side := (u.sideFor w p.val 0 f d).1, rels := h.rels, vc := h.vc, deal := u.deal }, mask p.val⟩, ?_, rfl, ?_⟩
  · simp only [FacetUnit.placeAll, FacetUnit.place, h4, hp, if_true, if_false, Bool.false_eq_true, hk]
  · simp only [Token.kind, FacetUnit.sideFor]
    exact sideOf_kind0 _ _ _ _

theorem getD_modify_append {α : Type} (l : List (List α)) (p : Fin 4) (x : α) (hl : l.length = 4) (o : Fin 4) :
    (l.modify p.val fun es => es ++ [x]).getD o.val [] = l.getD o.val [] ++ if p = o then [x] else [] := by
  have ho : o.val < l.length := by omega
  by_cases h : p = o
  · subst h
    simp [List.getD, ho]
  · have : p.val ≠ o.val := fun e => h (Fin.ext e)
    simp [List.getD, ho, this, h]

theorem ins_after (u : FacetUnit) (ps : List (Fin 4)) (k : Fin 4) :
    ((List.range 4).map fun k => if ps.any fun p => p.val == k then (u.ins.getD k []).drop 1 else u.ins.getD k []).getD k.val [] =
      if k ∈ ps then (u.ins.getD k.val []).drop 1 else u.ins.getD k.val [] := by
  have hk := k.isLt
  have e : (∃ x ∈ ps, x.val = k.val) ↔ k ∈ ps :=
    ⟨fun ⟨x, hx, h⟩ => by rwa [← Fin.ext h], fun h => ⟨k, h, rfl⟩⟩
  simp [List.getD, hk, e]

/-- Clearing the bits of a list of registers clears just these. -/
theorem clear_bits (l : List (Fin 16)) (n : Fin 16) : ∀ p : BitVec 16,
    (l.foldl (fun p n => p &&& ~~~(1#16 <<< n.val)) p).getLsbD n.val = (p.getLsbD n.val && !decide (n ∈ l)) := by
  induction l with
  | nil => intro p; simp
  | cons m l ih =>
    intro p
    have hn := n.isLt
    rw [List.foldl_cons, ih]
    by_cases h : n = m
    · subst h; simp
    · have : ¬ n.val = m.val := fun e => h (Fin.ext e)
      have hb : (1#16 <<< m.val).getLsbD n.val = false := by
        simp only [BitVec.getLsbD_shiftLeft, BitVec.getLsbD_one]
        by_cases hlt : n.val < m.val
        · simp [hlt]
        · have : n.val - m.val ≠ 0 := by omega
          simp [this]
      rw [BitVec.getLsbD_and, BitVec.getLsbD_not, hb]
      simp [h, hn]

/-- The presence bits that a firing leaves (R39). -/
theorem pres_after (u : FacetUnit) (i : Instr) (val : Option Word128) (n : Fin 16) :
    (match (i.word.d : Operand), (val : Option Word128) with
      | .reg n, some _ => (u.consumed i.sources).foldl (fun p n => p &&& ~~~(1#16 <<< n.val)) u.pres ||| (1#16 <<< n.val)
      | _, _ => (u.consumed i.sources).foldl (fun p n => p &&& ~~~(1#16 <<< n.val)) u.pres : BitVec 16).getLsbD n.val =
    if i.word.d = .reg n ∧ val.isSome = true then true
    else if u.chreg.getLsbD n.val = true ∧ Operand.reg n ∈ i.sources then false else u.pres.getLsbD n.val := by
  have hm : n ∈ u.consumed i.sources ↔ u.chreg.getLsbD n.val = true ∧ Operand.reg n ∈ i.sources := by
    unfold FacetUnit.consumed
    rw [List.mem_filterMap]
    constructor
    · rintro ⟨o, ho, he⟩
      split at he
      · split at he
        · cases he; exact ⟨by assumption, ho⟩
        · cases he
      · cases he
    · rintro ⟨hc, ho⟩
      exact ⟨_, ho, by simp [hc]⟩
  have base : ((u.consumed i.sources).foldl (fun p n => p &&& ~~~(1#16 <<< n.val)) u.pres).getLsbD n.val =
      if u.chreg.getLsbD n.val = true ∧ Operand.reg n ∈ i.sources then false else u.pres.getLsbD n.val := by
    rw [clear_bits]
    by_cases h : n ∈ u.consumed i.sources
    · rw [if_pos (hm.mp h)]; simp [h]
    · rw [if_neg (fun e => h (hm.mpr e))]; simp [h]
  split
  · rename_i m x hd
    by_cases h : m = n
    · subst h; simp [hd]
    · have hv : ¬ (i.word.d = Operand.reg n ∧ (some x).isSome = true) := by
        rw [hd]; rintro ⟨e, _⟩; cases e; exact h rfl
      have hb : (1#16 <<< m.val).getLsbD n.val = false := by
        have : ¬ m.val = n.val := fun e => h (Fin.ext e)
        simp only [BitVec.getLsbD_shiftLeft, BitVec.getLsbD_one]
        by_cases hlt : n.val < m.val
        · simp [hlt]
        · have : n.val - m.val ≠ 0 := by omega
          simp [this]
      rw [if_neg hv, BitVec.getLsbD_or, hb, Bool.or_false, base]
  · rename_i y _ _ hne
    have hv : ¬ (i.word.d = Operand.reg n ∧ y.isSome = true) := by
      rintro ⟨e, hs⟩
      obtain ⟨x, hx⟩ := Option.isSome_iff_exists.mp hs
      exact hne n x e hx
    rw [if_neg hv, base]

/-- A member's commit of a firing that writes a value and gives a condition. -/
theorem FacetUnit.commit_val (u : FacetUnit) (i : Instr) (mask : Nat → BitVec 4) (h : AgentHB) (val : Option Word128) (cond : Bool)
    (fwd : Option Token) (hp : u.pos = 0) (hb : u.outs.length = 4) :
    ∃ a b o dl ls lv, u.commit i mask h { val := val, cond := cond, fwd := fwd } = { u with
      ins := (List.range 4).map fun k =>
        if (popsOf i.sources).any fun p => p.val == k then (u.ins.getD k []).drop 1 else u.ins.getD k []
      regs := (match i.word.d, val with | .reg n, some x => u.regs.set n.val x | _, _ => u.regs)
      preds := predsAfter i.word true none cond u.preds
      pres := (match i.word.d, val with
        | .reg n, some _ => (u.consumed i.sources).foldl (fun p n => p &&& ~~~(1#16 <<< n.val)) u.pres ||| (1#16 <<< n.val)
        | _, _ => (u.consumed i.sources).foldl (fun p n => p &&& ~~~(1#16 <<< n.val)) u.pres)
      spoiled := (match i.word.d, val with | .reg n, some _ => u.spoiled &&& ~~~(1#16 <<< n.val) | _, _ => u.spoiled)
      seqnext := a, seqcnt := b, outs := o, deal := dl, lastseq := ls, live := lv } ∧
      ∀ q : Fin 4, (o.getD q.val []).map (fun e => (e.tok.payload, e.tok.kind)) =
        (u.outs.getD q.val []).map (fun e => (e.tok.payload, e.tok.kind)) ++
        (match i.word.d, val with | .out p, some x => if p = q then [(x, 0)] else [] | _, _ => []) := by
  have hz : (u.pos == 0) = true := by simp [hp]
  cases hd : i.word.d with
  | out p =>
    cases val with
    | none =>
      exact ⟨u.seqnext, u.seqcnt, u.outs, _, _, _, by unfold FacetUnit.commit; simp only [hd, hz]; rfl, fun q => by simp⟩
    | some x =>
      obtain ⟨a, b, e, he, h1, h2⟩ := FacetUnit.place_data { u with
          ins := (List.range 4).map fun k =>
            if (popsOf i.sources).any fun p => p.val == k then (u.ins.getD k []).drop 1 else u.ins.getD k []
          pres := (u.consumed i.sources).foldl (fun p n => p &&& ~~~(1#16 <<< n.val)) u.pres
          deal := match u.reads (popsOf i.sources) with
            | t :: _ => t.deal
            | [] => u.deal } i.word mask h fwd (u.reads (channelsOf i.sources)) 0 p x
      exact ⟨a, b, u.outs.modify p.val fun es => es ++ [e], _, _, _, by
        unfold FacetUnit.commit
        simp only [hd, List.append_nil, Option.getD_none, hz]
        erw [he]
        rfl, fun q => by
        rw [getD_modify_append _ _ _ hb]
        by_cases hpq : p = q <;> simp [hpq, h1, h2]⟩
  | reg n =>
    cases val with
    | none => exact ⟨u.seqnext, u.seqcnt, u.outs, _, _, _, by unfold FacetUnit.commit; simp only [hd, hz]; rfl, fun q => by simp⟩
    | some x => exact ⟨u.seqnext, u.seqcnt, u.outs, _, _, _, by unfold FacetUnit.commit; simp only [hd, hz]; rfl, fun q => by simp⟩
  | _ =>
    cases val <;> exact ⟨u.seqnext, u.seqcnt, u.outs, _, _, _, by unfold FacetUnit.commit; simp only [hd, hz]; rfl, fun q => by simp⟩

/-- The end of a firing changes the facets as its commit and the slot's settling do, and no byte and no conductor. -/
theorem State.firedOnce_parts (s : State) (i : Instr) (u : FacetUnit) (k : Nat) (fx : Fx) :
    let t := s.commitMember i u fx
    (s.firedOnce i u k fx).facets = (t.modFacet u.inst u.node u.clone 0 fun v => v.settled (u.replayOf i k t.clk)).facets ∧
      (s.firedOnce i u k fx).conds = t.conds ∧ (s.firedOnce i u k fx).mem = t.mem ∧ (s.firedOnce i u k fx).spad = t.spad := by
  intro t
  have key : ∀ z : State, ∀ a n, ((z.freeIssued a).fired n).facets = z.facets ∧ ((z.freeIssued a).fired n).conds = z.conds ∧
      ((z.freeIssued a).fired n).mem = z.mem ∧ ((z.freeIssued a).fired n).spad = z.spad := fun _ _ _ => ⟨rfl, rfl, rfl, rfl⟩
  show (State.fired (State.freeIssued _ _) _).facets = _ ∧ _
  rw [State.firedOnce]
  obtain ⟨h1, h2, h3, h4⟩ := key (if u.cls.toNat % 4 = 1 ∧ u.combineOp = 2 then
      { t.modFacet u.inst u.node u.clone 0 fun v => v.settled (u.replayOf i k t.clk) with fresh := t.fresh + 8 }
    else t.modFacet u.inst u.node u.clone 0 fun v => v.settled (u.replayOf i k t.clk)) (.facet u.inst u.node u.clone) u.inst
  refine ⟨h1.trans ?_, h2.trans ?_, h3.trans ?_, h4.trans ?_⟩ <;> by_cases hc : u.cls.toNat % 4 = 1 ∧ u.combineOp = 2 <;>
    simp only [hc, and_self, if_true, if_false] <;> rfl

theorem State.facet?_congr {s t : State} (h : s.facets = t.facets) (i n c p : Nat) : s.facet? i n c p = t.facet? i n c p := by
  unfold State.facet?; rw [h]

/-- All that a firing which writes a value and gives a condition leaves behind. -/
theorem firedOnce_gave {s s' : State} {u : FacetUnit} {i : Instr} {fx : Fx} {val : Option Word128} {cond : Bool} {fwd : Option Token}
    (h : s.fires u) (hf : s'.facets = s.facets) (hc : s.sameConds s') 
    (hx : fx = { val := val, cond := cond, fwd := fwd }) : s.gave (s'.firedOnce i u s.cur.slot fx) i u val cond := by
  subst hx
  have hfound : s'.facet? u.inst u.node u.clone u.pos = some u := by
    have := h.found
    unfold State.facet? at this ⊢
    rw [hf, h.pos]; exact this
  obtain ⟨l, hl⟩ := State.commitMember_eq i { val := val, cond := cond, fwd := fwd } hfound
  obtain ⟨a, b, o, dl, ls, lv, he, ho⟩ := u.commit_val i (s'.facetMask u) (s'.hbOf u.agent) val cond fwd h.pos h.buffers.1
  generalize u.commit i (s'.facetMask u) (s'.hbOf u.agent) { val := val, cond := cond, fwd := fwd } = v at hl he
  have hkey : v.inst = u.inst ∧ v.node = u.node ∧ v.clone = u.clone ∧ v.pos = u.pos := by rw [he]; exact ⟨rfl, rfl, rfl, rfl⟩
  constructor
  · refine ⟨v.settled
      (u.replayOf i s.cur.slot (s'.commitMember i u { val := val, cond := cond, fwd := fwd }).clk), ?_, ?_⟩
    · rw [State.facet?_congr (s'.firedOnce_parts i u s.cur.slot _).1]
      rw [hl]
      apply State.facet?_modFacet_same
      · show State.facet? (State.modFacet _ _ _ _ _ _) _ _ _ _ = _
        rw [h.pos]
        rw [h.pos] at hfound
        refine State.facet?_modFacet_same (u := u) _ hfound ?_
        unfold FacetUnit.is
        simp [hkey, h.pos]
      · unfold FacetUnit.is FacetUnit.settled
        simp [hkey, h.pos]
    · unfold FacetUnit.settled
      rw [he]
      exact ⟨rfl, rfl, fun n => pres_after u i val n, fun k => ins_after u _ k, rfl, rfl, ⟨rfl, rfl, rfl, rfl, rfl⟩, ho⟩
  · intro i' n' c' p' hne
    have hnk : ¬ (i' = u.inst ∧ n' = u.node ∧ c' = u.clone ∧ p' = u.pos) := by
      rintro ⟨rfl, rfl, rfl, rfl⟩; rw [FacetUnit.is_self] at hne; cases hne
    have other : ∀ (t : State) (p : Nat) (f : FacetUnit → FacetUnit), p = u.pos →
        (∀ x : FacetUnit, x.is u.inst u.node u.clone p = true → (f x).is i' n' c' p' = false) →
        (t.modFacet u.inst u.node u.clone p f).facet? i' n' c' p' = t.facet? i' n' c' p' := by
      intro t p f hp hfx
      refine State.facet?_modFacet_other t f fun x hx => ⟨?_, hfx x hx⟩
      subst hp
      by_contra hb
      simp only [FacetUnit.is, Bool.and_eq_true, beq_iff_eq, Bool.not_eq_false] at hx hb
      exact hnk ⟨by omega, by omega, by omega, by omega⟩
    rw [State.facet?_congr (s'.firedOnce_parts i u s.cur.slot _).1]
    rw [hl]
    rw [other _ 0 _ h.pos.symm, show State.facet? { s'.modFacet u.inst u.node u.clone u.pos _ with insts := l } i' n' c' p' = State.facet? (s'.modFacet u.inst u.node u.clone u.pos _) i' n' c' p' from rfl, other _ _ _ rfl]
    · unfold State.facet?; rw [hf]
    · intro x _
      by_contra hb
      simp only [FacetUnit.is, Bool.and_eq_true, beq_iff_eq, Bool.not_eq_false] at hb
      exact hnk ⟨by omega, by omega, by omega, by omega⟩
    · intro x hx
      by_contra hb
      simp only [FacetUnit.is, FacetUnit.settled, Bool.and_eq_true, beq_iff_eq, Bool.not_eq_false] at hx hb
      have := h.pos
      exact hnk ⟨by omega, by omega, by omega, by omega⟩
  · have e := (s'.firedOnce_parts i u s.cur.slot { val := val, cond := cond, fwd := fwd }).2.1
    rw [hl] at e
    intro r
    have := hc r
    unfold State.cond? at this ⊢
    rw [e]
    exact this


/-- A commit and the end of a firing change no byte and no conductor. -/
theorem State.commitMember_frame (s : State) (i : Instr) (u : FacetUnit) (fx : Fx) :
    (s.commitMember i u fx).mem = s.mem ∧ (s.commitMember i u fx).spad = s.spad ∧ (s.commitMember i u fx).conds = s.conds := by
  unfold State.commitMember
  split
  · exact ⟨rfl, rfl, rfl⟩
  · unfold State.become
    dsimp only
    split <;> exact ⟨rfl, rfl, rfl⟩

theorem State.firedOnce_frame (s : State) (i : Instr) (u : FacetUnit) (k : Nat) (fx : Fx) :
    (s.firedOnce i u k fx).mem = s.mem ∧ (s.firedOnce i u k fx).spad = s.spad ∧ (s.firedOnce i u k fx).conds = s.conds := by
  obtain ⟨-, hc, hm, hs⟩ := s.firedOnce_parts i u k fx
  obtain ⟨h1, h2, h3⟩ := s.commitMember_frame i u fx
  exact ⟨hm.trans h1, hs.trans h2, hc.trans h3⟩

end Sys2Proof.Machine
end

