-- ==== Sys2Proof/Laws/Memory.lean ====
section
/-!
SUPPORT. Memory as a list of cells: what a read gives after a write, and that every operation keeps the canonical form
(log entry 3).
-/
namespace Sys2Proof.Machine

/-! ### Reading after writing -/

/-- A canonical list reads as unlisted below its first possible address. -/
theorem Memory.read_below {lo a : Nat} : ∀ {m : List Host.Cell}, Memory.wfFrom lo m = true → a < lo →
    Memory.read m a = unlisted
  | [], _, _ => rfl
  | (k, b) :: m, h, ha => by
    simp only [Memory.wfFrom, Bool.and_eq_true, decide_eq_true_eq] at h
    have hk : k ≠ a := by omega
    rw [Memory.read, if_neg hk]
    exact Memory.read_below h.2 (by omega)

/-- A byte reads as it was written. -/
theorem Memory.read_write_same {lo : Nat} (a : Nat) (v : Byte) : ∀ {m : List Host.Cell}, Memory.wfFrom lo m = true →
    Memory.read (Memory.write m a v) a = v
  | [], _ => by
    unfold Memory.write
    split
    · simp_all [Memory.read]
    · simp [Memory.read]
  | (k, b) :: m, h => by
    simp only [Memory.wfFrom, Bool.and_eq_true, decide_eq_true_eq] at h
    unfold Memory.write
    split
    · rename_i hk
      rw [Memory.read, if_neg (by omega)]
      exact Memory.read_write_same a v h.2
    · split
      · rename_i hk
        split
        · rename_i hv
          rw [Memory.read_below h.2 (by omega), hv]
        · simp [Memory.read]
      · split
        · rename_i hlt hne hv
          rw [Memory.read, if_neg hne, Memory.read_below h.2 (by omega), hv]
        · simp [Memory.read]

/-- Every other byte reads as before. -/
theorem Memory.read_write_other {a c : Nat} (v : Byte) (hc : c ≠ a) : ∀ (m : List Host.Cell),
    Memory.read (Memory.write m a v) c = Memory.read m c
  | [] => by
    unfold Memory.write
    split
    · rfl
    · simp [Memory.read, hc.symm]
  | (k, b) :: m => by
    unfold Memory.write
    split
    · rw [Memory.read, Memory.read, Memory.read_write_other v hc m]
    · split
      · rename_i hk
        split
        · rw [Memory.read, if_neg (by omega)]
        · rw [Memory.read, Memory.read, if_neg hc.symm, if_neg (by omega)]
      · split
        · rfl
        · rw [Memory.read, if_neg hc.symm]

/-! ### The canonical form -/

/-- A list canonical from an address on is canonical from a lower one. -/
theorem Memory.wfFrom_mono {lo hi : Nat} (h : lo ≤ hi) : ∀ {m : List Host.Cell}, Memory.wfFrom hi m = true →
    Memory.wfFrom lo m = true
  | [], _ => rfl
  | (k, b) :: m, hm => by
    simp only [Memory.wfFrom, Bool.and_eq_true, decide_eq_true_eq] at hm ⊢
    exact ⟨⟨by omega, hm.1.2⟩, hm.2⟩

/-- A write keeps the canonical form. -/
theorem Memory.wfFrom_write {a : Nat} (v : Byte) : ∀ {lo : Nat} {m : List Host.Cell}, lo ≤ a →
    Memory.wfFrom lo m = true → Memory.wfFrom lo (Memory.write m a v) = true
  | lo, [], ha, _ => by
    unfold Memory.write
    split
    · rfl
    · rename_i hv
      simp [Memory.wfFrom, ha, hv]
  | lo, (k, b) :: m, ha, h => by
    simp only [Memory.wfFrom, Bool.and_eq_true, decide_eq_true_eq] at h
    unfold Memory.write
    split
    · rename_i hk
      simp only [Memory.wfFrom, Bool.and_eq_true, decide_eq_true_eq]
      exact ⟨h.1, Memory.wfFrom_write v (by omega) h.2⟩
    · split
      · rename_i hk
        split
        · exact Memory.wfFrom_mono (by omega) h.2
        · rename_i hv
          simp only [Memory.wfFrom, Bool.and_eq_true, decide_eq_true_eq]
          exact ⟨⟨ha, by simpa using hv⟩, by rw [← hk]; exact h.2⟩
      · split
        · simp only [Memory.wfFrom, Bool.and_eq_true, decide_eq_true_eq]
          exact h
        · rename_i hv
          simp only [Memory.wfFrom, Bool.and_eq_true, decide_eq_true_eq]
          exact ⟨⟨ha, by simpa using hv⟩, ⟨by omega, h.1.2⟩, h.2⟩

/-- A write keeps the canonical form of a whole memory. -/
theorem Memory.wf_write {m : List Host.Cell} (a : Nat) (v : Byte) (h : Memory.wf m = true) :
    Memory.wf (Memory.write m a v) = true := Memory.wfFrom_write v (Nat.zero_le a) h

/-- Storing bytes keeps the canonical form. -/
theorem Memory.wf_writeN : ∀ (bs : List Byte) {m : List Host.Cell} (a : Nat), Memory.wf m = true →
    Memory.wf (Memory.writeN m a bs) = true
  | [], _, _, h => h
  | b :: bs, _, a, h => Memory.wf_writeN bs (a + 1) (Memory.wf_write a b h)

/-- Cells left out of a canonical memory leave a canonical one. -/
theorem Memory.wfFrom_filter (p : Host.Cell → Bool) : ∀ {lo : Nat} {m : List Host.Cell}, Memory.wfFrom lo m = true →
    Memory.wfFrom lo (m.filter p) = true
  | _, [], _ => rfl
  | lo, (k, b) :: m, h => by
    simp only [Memory.wfFrom, Bool.and_eq_true, decide_eq_true_eq] at h
    have ih := Memory.wfFrom_filter p h.2
    rw [List.filter_cons]
    split
    · simp only [Memory.wfFrom, Bool.and_eq_true, decide_eq_true_eq]
      exact ⟨h.1, ih⟩
    · exact Memory.wfFrom_mono (by omega) ih

/-- Moving cells one by one into a canonical memory leaves a canonical one. -/
theorem Memory.wf_foldl_write {α : Type} (f : α → Nat) (g : α → Byte) : ∀ (l : List α) {m : List Host.Cell},
    Memory.wf m = true → Memory.wf (l.foldl (fun m c => Memory.write m (f c) (g c)) m) = true
  | [], _, h => h
  | c :: l, _, h => Memory.wf_foldl_write f g l (Memory.wf_write (f c) (g c) h)

/-! ### Several bytes -/

/-- A byte outside the bytes stored reads as before. -/
theorem Memory.read_writeN_other {c : Nat} : ∀ (bs : List Byte) (m : List Host.Cell) (a : Nat),
    (c < a ∨ a + bs.length ≤ c) → Memory.read (Memory.writeN m a bs) c = Memory.read m c
  | [], _, _, _ => rfl
  | b :: bs, m, a, h => by
    have hl : (b :: bs).length = bs.length + 1 := rfl
    rw [Memory.writeN, Memory.read_writeN_other bs _ (a + 1) (by omega), Memory.read_write_other b (by omega)]

/-- The bytes stored read back. -/
theorem Memory.readN_writeN : ∀ (bs : List Byte) {m : List Host.Cell} (a : Nat), Memory.wf m = true →
    Memory.readN (Memory.writeN m a bs) a bs.length = bs
  | [], _, _, _ => rfl
  | b :: bs, m, a, h => by
    have h' := Memory.wf_write a b h
    rw [Memory.writeN, List.length_cons, Memory.readN, Memory.readN_writeN bs (a + 1) h',
      Memory.read_writeN_other bs _ (a + 1) (Or.inl (by omega)), Memory.read_write_same a b h]

/-- Bytes apart from the bytes stored read as before. -/
theorem Memory.readN_writeN_apart (bs : List Byte) (m : List Host.Cell) (a : Nat) : ∀ (n c : Nat),
    (c + n ≤ a ∨ a + bs.length ≤ c) → Memory.readN (Memory.writeN m a bs) c n = Memory.readN m c n
  | 0, _, _ => rfl
  | n + 1, c, h => by
    rw [Memory.readN, Memory.readN, Memory.read_writeN_other bs m a (by omega),
      Memory.readN_writeN_apart bs m a n (c + 1) (by omega)]

/-- After reset every byte of both memories reads as unlisted, and both are canonical. -/
theorem reset_memory : Memory.wf State.reset.mem = true ∧ Memory.wf State.reset.spad = true ∧
    ∀ a, Memory.read State.reset.mem a = unlisted := ⟨rfl, rfl, fun _ => rfl⟩

end Sys2Proof.Machine
end

