-- ==== Sys2Proof/Laws/PerInstr.lean ====
section
/-!
SUPPORT. What is proved of each instruction as syntax: its word decodes to it, with every operand (R136 to R147). One
lemma per constructor; an event has no word.
-/
set_option Elab.async false

namespace Sys2Proof.Laws.RoundTrip

/-- Decoding the word of a well-formed instruction gives that instruction. -/
def Statement (i : Instr) : Prop :=
  i.wf = true →
    (∀ x, Encode.facet i = some x → Decode.facet x = .ok i) ∧
    (∀ x, Encode.conductor i = some x → Decode.conductor x = .ok i)

/-- A facet instruction whose opcode row gives it back. -/
theorem of_row {i : Instr} {op : Nat} {w : FWord} (h : Encode.facetParts i = some (op, w)) (hop : op < 256)
    (hc : Encode.conductor i = none) (hrow : Decode.facetRow op w = some i) : Statement i := by
  intro hwf
  refine ⟨fun x hx => ?_, fun x hx => (by rw [hc] at hx; cases hx)⟩
  rw [Encode.facet, h] at hx
  cases hx
  rw [Decode.facet, Laws.facetOp_formF op w hop, Laws.fword_formF op w hop, hrow, Laws.low_formF op w hop]
  simp [hwf]

/-- A conductor instruction whose word is known. -/
theorem of_word {i : Instr} {x : BitVec 32} (h : Encode.conductor i = some x) (hf : Encode.facet i = none)
    (hd : Decode.conductor x = .ok i) : Statement i :=
  fun _ => ⟨fun y hy => (by rw [hf] at hy; cases hy), fun y hy => (by rw [h] at hy; cases hy; exact hd)⟩

/-- Register field 0 (R142). -/
@[simp] theorem reg_zero : Decode.reg 0 = 0 := rfl

/-- The six-bit code of a system operation, under its sub-operation (R144). -/
theorem code_eq (code : BitVec 6) (k n : Nat) (hk : k < 32) (hn : n = 32 * code.toNat + k) :
    BitVec.ofNat 6 (n % 2048 / 32) = code := by
  apply BitVec.eq_of_toNat_eq
  have := code.isLt
  rw [BitVec.toNat_ofNat]
  omega

/-- The amount of a SHI, under its kind (R214). -/
theorem amount_eq (n : BitVec 6) (k : Nat) (hk : k < 3) : (64 * k + n.toNat) % 65536 / 64 % 4 = k ∧
    (64 * k + n.toNat) % 65536 / 256 = 0 ∧ BitVec.ofNat 6 ((64 * k + n.toNat) % 65536) = n := by
  have := n.isLt
  refine ⟨by omega, by omega, ?_⟩
  apply BitVec.eq_of_toNat_eq
  rw [BitVec.toNat_ofNat]
  omega

/-- An instruction without a word. -/
theorem of_none {i : Instr} (h : Encode.conductor i = none) (hf : Encode.facet i = none) : Statement i :=
  fun _ => ⟨fun y hy => (by rw [hf] at hy; cases hy), fun y hy => (by rw [h] at hy; cases hy)⟩

theorem nop (w : FWord) : Statement (.nop w) := of_row rfl (by decide) rfl rfl
theorem mov (w : FWord) : Statement (.mov w) := of_row rfl (by decide) rfl rfl
theorem movi (w : FWord) : Statement (.movi w) := of_row rfl (by decide) rfl rfl
theorem movis (w : FWord) : Statement (.movis w) := of_row rfl (by decide) rfl rfl
theorem sel (w : FWord) : Statement (.sel w) := of_row rfl (by decide) rfl rfl
theorem drop (w : FWord) : Statement (.drop w) := of_row rfl (by decide) rfl rfl
theorem steer (w : FWord) : Statement (.steer w) := of_row rfl (by decide) rfl rfl
theorem steerx (w : FWord) : Statement (.steerx w) := of_row rfl (by decide) rfl rfl
theorem merge (w : FWord) : Statement (.merge w) := of_row rfl (by decide) rfl rfl
theorem mergeu (w : FWord) : Statement (.mergeu w) := of_row rfl (by decide) rfl rfl
theorem emitn (w : FWord) : Statement (.emitn w) := of_row rfl (by decide) rfl rfl
theorem ctl (w : FWord) : Statement (.ctl w) := of_row rfl (by decide) rfl rfl
theorem cease (w : FWord) : Statement (.cease w) := of_row rfl (by decide) rfl rfl
theorem vers (w : FWord) : Statement (.vers w) := of_row rfl (by decide) rfl rfl
theorem vfin (w : FWord) : Statement (.vfin w) := of_row rfl (by decide) rfl rfl
theorem halt (w : FWord) : Statement (.halt w) := of_row rfl (by decide) rfl rfl
theorem facetAdd (sz : Size) (w : FWord) : Statement (.facetAdd sz w) := by
  cases sz <;> exact of_row rfl (by decide) rfl rfl
theorem facetSub (sz : Size) (w : FWord) : Statement (.facetSub sz w) := by
  cases sz <;> exact of_row rfl (by decide) rfl rfl
theorem addss (sz : Size) (w : FWord) : Statement (.addss sz w) := by
  cases sz <;> exact of_row rfl (by decide) rfl rfl
theorem addsz (sz : Size) (w : FWord) : Statement (.addsz sz w) := by
  cases sz <;> exact of_row rfl (by decide) rfl rfl
theorem subss (sz : Size) (w : FWord) : Statement (.subss sz w) := by
  cases sz <;> exact of_row rfl (by decide) rfl rfl
theorem subsz (sz : Size) (w : FWord) : Statement (.subsz sz w) := by
  cases sz <;> exact of_row rfl (by decide) rfl rfl
theorem facetMul (sz : Size) (w : FWord) : Statement (.facetMul sz w) := by
  cases sz <;> exact of_row rfl (by decide) rfl rfl
theorem facetMulhs (sz : Size) (w : FWord) : Statement (.facetMulhs sz w) := by
  cases sz <;> exact of_row rfl (by decide) rfl rfl
theorem facetMulhz (sz : Size) (w : FWord) : Statement (.facetMulhz sz w) := by
  cases sz <;> exact of_row rfl (by decide) rfl rfl
theorem facetMins (sz : Size) (w : FWord) : Statement (.facetMins sz w) := by
  cases sz <;> exact of_row rfl (by decide) rfl rfl
theorem facetMinz (sz : Size) (w : FWord) : Statement (.facetMinz sz w) := by
  cases sz <;> exact of_row rfl (by decide) rfl rfl
theorem facetMaxs (sz : Size) (w : FWord) : Statement (.facetMaxs sz w) := by
  cases sz <;> exact of_row rfl (by decide) rfl rfl
theorem facetMaxz (sz : Size) (w : FWord) : Statement (.facetMaxz sz w) := by
  cases sz <;> exact of_row rfl (by decide) rfl rfl
theorem abs (sz : Size) (w : FWord) : Statement (.abs sz w) := by
  cases sz <;> exact of_row rfl (by decide) rfl rfl
theorem mac (sz : Size) (w : FWord) : Statement (.mac sz w) := by
  cases sz <;> exact of_row rfl (by decide) rfl rfl
theorem facetClz (sz : Size) (w : FWord) : Statement (.facetClz sz w) := by
  cases sz <;> exact of_row rfl (by decide) rfl rfl
theorem facetAnd (w : FWord) : Statement (.facetAnd w) := of_row rfl (by decide) rfl rfl
theorem facetOr (w : FWord) : Statement (.facetOr w) := of_row rfl (by decide) rfl rfl
theorem facetXor (w : FWord) : Statement (.facetXor w) := of_row rfl (by decide) rfl rfl
theorem facetAndn (w : FWord) : Statement (.facetAndn w) := of_row rfl (by decide) rfl rfl
theorem facetShl (sz : Size) (w : FWord) : Statement (.facetShl sz w) := by
  cases sz <;> exact of_row rfl (by decide) rfl rfl
theorem facetShrz (sz : Size) (w : FWord) : Statement (.facetShrz sz w) := by
  cases sz <;> exact of_row rfl (by decide) rfl rfl
theorem facetShrs (sz : Size) (w : FWord) : Statement (.facetShrs sz w) := by
  cases sz <;> exact of_row rfl (by decide) rfl rfl
theorem cmpeq (sz : Size) (w : FWord) : Statement (.cmpeq sz w) := by
  cases sz <;> exact of_row rfl (by decide) rfl rfl
theorem cmplts (sz : Size) (w : FWord) : Statement (.cmplts sz w) := by
  cases sz <;> exact of_row rfl (by decide) rfl rfl
theorem cmpltz (sz : Size) (w : FWord) : Statement (.cmpltz sz w) := by
  cases sz <;> exact of_row rfl (by decide) rfl rfl
theorem test (sz : Size) (w : FWord) : Statement (.test sz w) := by
  cases sz <;> exact of_row rfl (by decide) rfl rfl
theorem fadd (fm : FFmt) (w : FWord) : Statement (.fadd fm w) := by
  cases fm <;> exact of_row rfl (by decide) rfl rfl
theorem fsub (fm : FFmt) (w : FWord) : Statement (.fsub fm w) := by
  cases fm <;> exact of_row rfl (by decide) rfl rfl
theorem fmul (fm : FFmt) (w : FWord) : Statement (.fmul fm w) := by
  cases fm <;> exact of_row rfl (by decide) rfl rfl
theorem ffma (fm : FFmt) (w : FWord) : Statement (.ffma fm w) := by
  cases fm <;> exact of_row rfl (by decide) rfl rfl
theorem fmin (fm : FFmt) (w : FWord) : Statement (.fmin fm w) := by
  cases fm <;> exact of_row rfl (by decide) rfl rfl
theorem fmax (fm : FFmt) (w : FWord) : Statement (.fmax fm w) := by
  cases fm <;> exact of_row rfl (by decide) rfl rfl
theorem fneg (fm : FFmt) (w : FWord) : Statement (.fneg fm w) := by
  cases fm <;> exact of_row rfl (by decide) rfl rfl
theorem fabs (fm : FFmt) (w : FWord) : Statement (.fabs fm w) := by
  cases fm <;> exact of_row rfl (by decide) rfl rfl
theorem fcmpeq (fm : FFmt) (w : FWord) : Statement (.fcmpeq fm w) := by
  cases fm <;> exact of_row rfl (by decide) rfl rfl
theorem fcmplt (fm : FFmt) (w : FWord) : Statement (.fcmplt fm w) := by
  cases fm <;> exact of_row rfl (by decide) rfl rfl
theorem fcmple (fm : FFmt) (w : FWord) : Statement (.fcmple fm w) := by
  cases fm <;> exact of_row rfl (by decide) rfl rfl
theorem frcp (fm : FFmt) (w : FWord) : Statement (.frcp fm w) := by
  cases fm <;> exact of_row rfl (by decide) rfl rfl
theorem frsq (fm : FFmt) (w : FWord) : Statement (.frsq fm w) := by
  cases fm <;> exact of_row rfl (by decide) rfl rfl
theorem fexp2 (fm : FFmt) (w : FWord) : Statement (.fexp2 fm w) := by
  cases fm <;> exact of_row rfl (by decide) rfl rfl
theorem flog2 (fm : FFmt) (w : FWord) : Statement (.flog2 fm w) := by
  cases fm <;> exact of_row rfl (by decide) rfl rfl
theorem fscale (fm : FFmt) (w : FWord) : Statement (.fscale fm w) := by
  cases fm <;> exact of_row rfl (by decide) rfl rfl
theorem cvtn (nf : NFmt) (w : FWord) : Statement (.cvtn nf w) := by
  cases nf <;> exact of_row rfl (by decide) rfl rfl
theorem cvtw (nf : NFmt) (w : FWord) : Statement (.cvtw nf w) := by
  cases nf <;> exact of_row rfl (by decide) rfl rfl
theorem cvtfi (w : FWord) : Statement (.cvtfi w) := of_row rfl (by decide) rfl rfl
theorem cvtif (w : FWord) : Statement (.cvtif w) := of_row rfl (by decide) rfl rfl
theorem shuf (w : FWord) : Statement (.shuf w) := of_row rfl (by decide) rfl rfl
theorem bcast (w : FWord) : Statement (.bcast w) := of_row rfl (by decide) rfl rfl
theorem extr (w : FWord) : Statement (.extr w) := of_row rfl (by decide) rfl rfl
theorem lsumW (w : FWord) : Statement (.lsumW w) := of_row rfl (by decide) rfl rfl
theorem lsumF32 (w : FWord) : Statement (.lsumF32 w) := of_row rfl (by decide) rfl rfl
theorem lmaxF32 (w : FWord) : Statement (.lmaxF32 w) := of_row rfl (by decide) rfl rfl
theorem lds (w : FWord) : Statement (.lds w) := of_row rfl (by decide) rfl rfl
theorem sts (w : FWord) : Statement (.sts w) := of_row rfl (by decide) rfl rfl
theorem ldsw (w : FWord) : Statement (.ldsw w) := of_row rfl (by decide) rfl rfl
theorem stsw (w : FWord) : Statement (.stsw w) := of_row rfl (by decide) rfl rfl
theorem ldg (w : FWord) : Statement (.ldg w) := of_row rfl (by decide) rfl rfl
theorem ldgb (w : FWord) : Statement (.ldgb w) := of_row rfl (by decide) rfl rfl
theorem stg (w : FWord) : Statement (.stg w) := of_row rfl (by decide) rfl rfl
theorem stge (w : FWord) : Statement (.stge w) := of_row rfl (by decide) rfl rfl
theorem pref (w : FWord) : Statement (.pref w) := of_row rfl (by decide) rfl rfl
theorem atoms (w : FWord) : Statement (.atoms w) := of_row rfl (by decide) rfl rfl
theorem atomg (w : FWord) : Statement (.atomg w) := of_row rfl (by decide) rfl rfl
theorem cass (w : FWord) : Statement (.cass w) := of_row rfl (by decide) rfl rfl
theorem casg (w : FWord) : Statement (.casg w) := of_row rfl (by decide) rfl rfl
theorem fence (w : FWord) : Statement (.fence w) := of_row rfl (by decide) rfl rfl
theorem acq (w : FWord) : Statement (.acq w) := of_row rfl (by decide) rfl rfl
theorem rel (w : FWord) : Statement (.rel w) := of_row rfl (by decide) rfl rfl
theorem hstat (w : FWord) : Statement (.hstat w) := of_row rfl (by decide) rfl rfl
theorem htake (w : FWord) : Statement (.htake w) := of_row rfl (by decide) rfl rfl
theorem hfree (w : FWord) : Statement (.hfree w) := of_row rfl (by decide) rfl rfl
theorem wptr (w : FWord) : Statement (.wptr w) := of_row rfl (by decide) rfl rfl
theorem wpwait (w : FWord) : Statement (.wpwait w) := of_row rfl (by decide) rfl rfl
theorem treq (w : FWord) : Statement (.treq w) := of_row rfl (by decide) rfl rfl
theorem accrd (w : FWord) : Statement (.accrd w) := of_row rfl (by decide) rfl rfl
theorem tempty (w : FWord) : Statement (.tempty w) := of_row rfl (by decide) rfl rfl
theorem lzres (w : FWord) : Statement (.lzres w) := of_row rfl (by decide) rfl rfl
theorem lzsend (w : FWord) : Statement (.lzsend w) := of_row rfl (by decide) rfl rfl
theorem lzstat (w : FWord) : Statement (.lzstat w) := of_row rfl (by decide) rfl rfl
theorem lzreset (w : FWord) : Statement (.lzreset w) := of_row rfl (by decide) rfl rfl
theorem trap (w : FWord) : Statement (.trap w) := of_row rfl (by decide) rfl rfl
theorem brk (w : FWord) : Statement (.brk w) := of_row rfl (by decide) rfl rfl
theorem rdcnt (w : FWord) : Statement (.rdcnt w) := of_row rfl (by decide) rfl rfl
theorem rdst (w : FWord) : Statement (.rdst w) := of_row rfl (by decide) rfl rfl
theorem setpv (w : FWord) : Statement (.setpv w) := of_row rfl (by decide) rfl rfl
theorem getp (w : FWord) : Statement (.getp w) := of_row rfl (by decide) rfl rfl
theorem beat (w : FWord) : Statement (.beat w) := of_row rfl (by decide) rfl rfl
theorem layv (w : FWord) : Statement (.layv w) := of_row rfl (by decide) rfl rfl
theorem seq (w : FWord) : Statement (.seq w) := of_row rfl (by decide) rfl rfl
theorem settag (w : FWord) : Statement (.settag w) := of_row rfl (by decide) rfl rfl
theorem dot4Tf8 (w : FWord) : Statement (.dot4Tf8 w) := of_row rfl (by decide) rfl rfl
theorem sort4W (w : FWord) : Statement (.sort4W w) := of_row rfl (by decide) rfl rfl
theorem add (d : Reg) (a : Reg) (b : Reg) : Statement (.add d a b) := of_word rfl rfl (by
    simp [Decode.conductor, Decode.alu, Laws.reg_val])
theorem sub (d : Reg) (a : Reg) (b : Reg) : Statement (.sub d a b) := of_word rfl rfl (by
    simp [Decode.conductor, Decode.alu, Laws.reg_val])
theorem and (d : Reg) (a : Reg) (b : Reg) : Statement (.and d a b) := of_word rfl rfl (by
    simp [Decode.conductor, Decode.alu, Laws.reg_val])
theorem or (d : Reg) (a : Reg) (b : Reg) : Statement (.or d a b) := of_word rfl rfl (by
    simp [Decode.conductor, Decode.alu, Laws.reg_val])
theorem xor (d : Reg) (a : Reg) (b : Reg) : Statement (.xor d a b) := of_word rfl rfl (by
    simp [Decode.conductor, Decode.alu, Laws.reg_val])
theorem andn (d : Reg) (a : Reg) (b : Reg) : Statement (.andn d a b) := of_word rfl rfl (by
    simp [Decode.conductor, Decode.alu, Laws.reg_val])
theorem shl (d : Reg) (a : Reg) (b : Reg) : Statement (.shl d a b) := of_word rfl rfl (by
    simp [Decode.conductor, Decode.alu, Laws.reg_val])
theorem shrz (d : Reg) (a : Reg) (b : Reg) : Statement (.shrz d a b) := of_word rfl rfl (by
    simp [Decode.conductor, Decode.alu, Laws.reg_val])
theorem shrs (d : Reg) (a : Reg) (b : Reg) : Statement (.shrs d a b) := of_word rfl rfl (by
    simp [Decode.conductor, Decode.alu, Laws.reg_val])
theorem mul (d : Reg) (a : Reg) (b : Reg) : Statement (.mul d a b) := of_word rfl rfl (by
    simp [Decode.conductor, Decode.alu, Laws.reg_val])
theorem mulhs (d : Reg) (a : Reg) (b : Reg) : Statement (.mulhs d a b) := of_word rfl rfl (by
    simp [Decode.conductor, Decode.alu, Laws.reg_val])
theorem mulhz (d : Reg) (a : Reg) (b : Reg) : Statement (.mulhz d a b) := of_word rfl rfl (by
    simp [Decode.conductor, Decode.alu, Laws.reg_val])
theorem divs (d : Reg) (a : Reg) (b : Reg) : Statement (.divs d a b) := of_word rfl rfl (by
    simp [Decode.conductor, Decode.alu, Laws.reg_val])
theorem divz (d : Reg) (a : Reg) (b : Reg) : Statement (.divz d a b) := of_word rfl rfl (by
    simp [Decode.conductor, Decode.alu, Laws.reg_val])
theorem rems (d : Reg) (a : Reg) (b : Reg) : Statement (.rems d a b) := of_word rfl rfl (by
    simp [Decode.conductor, Decode.alu, Laws.reg_val])
theorem remz (d : Reg) (a : Reg) (b : Reg) : Statement (.remz d a b) := of_word rfl rfl (by
    simp [Decode.conductor, Decode.alu, Laws.reg_val])
theorem slts (d : Reg) (a : Reg) (b : Reg) : Statement (.slts d a b) := of_word rfl rfl (by
    simp [Decode.conductor, Decode.alu, Laws.reg_val])
theorem sltz (d : Reg) (a : Reg) (b : Reg) : Statement (.sltz d a b) := of_word rfl rfl (by
    simp [Decode.conductor, Decode.alu, Laws.reg_val])
theorem mins (d : Reg) (a : Reg) (b : Reg) : Statement (.mins d a b) := of_word rfl rfl (by
    simp [Decode.conductor, Decode.alu, Laws.reg_val])
theorem maxs (d : Reg) (a : Reg) (b : Reg) : Statement (.maxs d a b) := of_word rfl rfl (by
    simp [Decode.conductor, Decode.alu, Laws.reg_val])
theorem minz (d : Reg) (a : Reg) (b : Reg) : Statement (.minz d a b) := of_word rfl rfl (by
    simp [Decode.conductor, Decode.alu, Laws.reg_val])
theorem maxz (d : Reg) (a : Reg) (b : Reg) : Statement (.maxz d a b) := of_word rfl rfl (by
    simp [Decode.conductor, Decode.alu, Laws.reg_val])
theorem clz (d : Reg) (a : Reg) : Statement (.clz d a) := of_word rfl rfl (by
    simp [Decode.conductor, Decode.alu, Decode.whenZero, Laws.reg_val])
theorem popc (d : Reg) (a : Reg) : Statement (.popc d a) := of_word rfl rfl (by
    simp [Decode.conductor, Decode.alu, Decode.whenZero, Laws.reg_val])
theorem addw (d : Reg) (a : Reg) (b : Reg) : Statement (.addw d a b) := of_word rfl rfl (by
    simp [Decode.conductor, Decode.alu, Laws.reg_val])
theorem subw (d : Reg) (a : Reg) (b : Reg) : Statement (.subw d a b) := of_word rfl rfl (by
    simp [Decode.conductor, Decode.alu, Laws.reg_val])
theorem selnz (d : Reg) (a : Reg) (b : Reg) : Statement (.selnz d a b) := of_word rfl rfl (by
    simp [Decode.conductor, Decode.alu, Laws.reg_val])
theorem addi (d : Reg) (a : Reg) (imm : BitVec 16) : Statement (.addi d a imm) := of_word rfl rfl (by
    simp [Decode.conductor, Laws.reg_val])
theorem andi (d : Reg) (a : Reg) (imm : BitVec 16) : Statement (.andi d a imm) := of_word rfl rfl (by
    simp [Decode.conductor, Laws.reg_val])
theorem ori (d : Reg) (a : Reg) (imm : BitVec 16) : Statement (.ori d a imm) := of_word rfl rfl (by
    simp [Decode.conductor, Laws.reg_val])
theorem xori (d : Reg) (a : Reg) (imm : BitVec 16) : Statement (.xori d a imm) := of_word rfl rfl (by
    simp [Decode.conductor, Laws.reg_val])
theorem shi (d : Reg) (a : Reg) (k : ShiftKind) (n : BitVec 6) : Statement (.shi d a k n) := by
  refine of_word rfl rfl ?_
  have h0 := amount_eq n 0 (by omega); have h1 := amount_eq n 1 (by omega); have h2 := amount_eq n 2 (by omega)
  cases k
  · simp only [Decode.conductor, op_formI, d_formI, a_formI, imm_formI, Decode.shiftKindCode, BitVec.toNat_ofNat, Nat.reducePow,
      h0, Decode.whenZero, Laws.reg_val]
    rfl
  · simp only [Decode.conductor, op_formI, d_formI, a_formI, imm_formI, Decode.shiftKindCode, BitVec.toNat_ofNat, Nat.reducePow,
      h1, Decode.whenZero, Laws.reg_val]
    rfl
  · simp only [Decode.conductor, op_formI, d_formI, a_formI, imm_formI, Decode.shiftKindCode, BitVec.toNat_ofNat, Nat.reducePow,
      h2, Decode.whenZero, Laws.reg_val]
    rfl
theorem slti (d : Reg) (a : Reg) (imm : BitVec 16) : Statement (.slti d a imm) := of_word rfl rfl (by
    simp [Decode.conductor, Laws.reg_val])
theorem sltiz (d : Reg) (a : Reg) (imm : BitVec 16) : Statement (.sltiz d a imm) := of_word rfl rfl (by
    simp [Decode.conductor, Laws.reg_val])
theorem lui (d : Reg) (imm : BitVec 16) : Statement (.lui d imm) := of_word rfl rfl (by
    simp [Decode.conductor, Decode.whenZero, Laws.reg_val])
theorem ins16 (d : Reg) (a : Reg) (imm : BitVec 16) : Statement (.ins16 d a imm) := of_word rfl rfl (by
    simp [Decode.conductor, Laws.reg_val])
theorem addpc (d : Reg) (imm : BitVec 16) : Statement (.addpc d imm) := of_word rfl rfl (by
    simp [Decode.conductor, Decode.whenZero, Laws.reg_val])
theorem beq (a : Reg) (b : Reg) (disp : BitVec 16) : Statement (.beq a b disp) := of_word rfl rfl (by
    simp [Decode.conductor, Laws.reg_val])
theorem bne (a : Reg) (b : Reg) (disp : BitVec 16) : Statement (.bne a b disp) := of_word rfl rfl (by
    simp [Decode.conductor, Laws.reg_val])
theorem blts (a : Reg) (b : Reg) (disp : BitVec 16) : Statement (.blts a b disp) := of_word rfl rfl (by
    simp [Decode.conductor, Laws.reg_val])
theorem bges (a : Reg) (b : Reg) (disp : BitVec 16) : Statement (.bges a b disp) := of_word rfl rfl (by
    simp [Decode.conductor, Laws.reg_val])
theorem blo (a : Reg) (b : Reg) (disp : BitVec 16) : Statement (.blo a b disp) := of_word rfl rfl (by
    simp [Decode.conductor, Laws.reg_val])
theorem bhs (a : Reg) (b : Reg) (disp : BitVec 16) : Statement (.bhs a b disp) := of_word rfl rfl (by
    simp [Decode.conductor, Laws.reg_val])
theorem j (disp : BitVec 26) : Statement (.j disp) := of_word rfl rfl (by
    simp [Decode.conductor])
theorem jal (disp : BitVec 26) : Statement (.jal disp) := of_word rfl rfl (by
    simp [Decode.conductor])
theorem jalr (d : Reg) (a : Reg) (imm : BitVec 16) : Statement (.jalr d a imm) := of_word rfl rfl (by
    simp [Decode.conductor, Laws.reg_val])
theorem ldb (d : Reg) (a : Reg) (imm : BitVec 16) : Statement (.ldb d a imm) := of_word rfl rfl (by
    simp [Decode.conductor, Laws.reg_val])
theorem ldh (d : Reg) (a : Reg) (imm : BitVec 16) : Statement (.ldh d a imm) := of_word rfl rfl (by
    simp [Decode.conductor, Laws.reg_val])
theorem ldw (d : Reg) (a : Reg) (imm : BitVec 16) : Statement (.ldw d a imm) := of_word rfl rfl (by
    simp [Decode.conductor, Laws.reg_val])
theorem ldd (d : Reg) (a : Reg) (imm : BitVec 16) : Statement (.ldd d a imm) := of_word rfl rfl (by
    simp [Decode.conductor, Laws.reg_val])
theorem ldbz (d : Reg) (a : Reg) (imm : BitVec 16) : Statement (.ldbz d a imm) := of_word rfl rfl (by
    simp [Decode.conductor, Laws.reg_val])
theorem ldhz (d : Reg) (a : Reg) (imm : BitVec 16) : Statement (.ldhz d a imm) := of_word rfl rfl (by
    simp [Decode.conductor, Laws.reg_val])
theorem ldwz (d : Reg) (a : Reg) (imm : BitVec 16) : Statement (.ldwz d a imm) := of_word rfl rfl (by
    simp [Decode.conductor, Laws.reg_val])
theorem stb (d : Reg) (a : Reg) (imm : BitVec 16) : Statement (.stb d a imm) := of_word rfl rfl (by
    simp [Decode.conductor, Laws.reg_val])
theorem sth (d : Reg) (a : Reg) (imm : BitVec 16) : Statement (.sth d a imm) := of_word rfl rfl (by
    simp [Decode.conductor, Laws.reg_val])
theorem stw (d : Reg) (a : Reg) (imm : BitVec 16) : Statement (.stw d a imm) := of_word rfl rfl (by
    simp [Decode.conductor, Laws.reg_val])
theorem std (d : Reg) (a : Reg) (imm : BitVec 16) : Statement (.std d a imm) := of_word rfl rfl (by
    simp [Decode.conductor, Laws.reg_val])
theorem amoAdd (d : Reg) (a : Reg) (b : Reg) (wide : Bool) (lvl : Level) : Statement (.amoAdd d a b wide lvl) := of_word rfl rfl (by
    cases wide <;> fin_cases lvl <;> simp [Decode.conductor, Decode.amo, Decode.whenZero, Decode.level, Encode.amoFn, Laws.reg_val])
theorem amoAnd (d : Reg) (a : Reg) (b : Reg) (wide : Bool) (lvl : Level) : Statement (.amoAnd d a b wide lvl) := of_word rfl rfl (by
    cases wide <;> fin_cases lvl <;> simp [Decode.conductor, Decode.amo, Decode.whenZero, Decode.level, Encode.amoFn, Laws.reg_val])
theorem amoOr (d : Reg) (a : Reg) (b : Reg) (wide : Bool) (lvl : Level) : Statement (.amoOr d a b wide lvl) := of_word rfl rfl (by
    cases wide <;> fin_cases lvl <;> simp [Decode.conductor, Decode.amo, Decode.whenZero, Decode.level, Encode.amoFn, Laws.reg_val])
theorem amoXor (d : Reg) (a : Reg) (b : Reg) (wide : Bool) (lvl : Level) : Statement (.amoXor d a b wide lvl) := of_word rfl rfl (by
    cases wide <;> fin_cases lvl <;> simp [Decode.conductor, Decode.amo, Decode.whenZero, Decode.level, Encode.amoFn, Laws.reg_val])
theorem amoMins (d : Reg) (a : Reg) (b : Reg) (wide : Bool) (lvl : Level) : Statement (.amoMins d a b wide lvl) := of_word rfl rfl (by
    cases wide <;> fin_cases lvl <;> simp [Decode.conductor, Decode.amo, Decode.whenZero, Decode.level, Encode.amoFn, Laws.reg_val])
theorem amoMaxs (d : Reg) (a : Reg) (b : Reg) (wide : Bool) (lvl : Level) : Statement (.amoMaxs d a b wide lvl) := of_word rfl rfl (by
    cases wide <;> fin_cases lvl <;> simp [Decode.conductor, Decode.amo, Decode.whenZero, Decode.level, Encode.amoFn, Laws.reg_val])
theorem amoMinz (d : Reg) (a : Reg) (b : Reg) (wide : Bool) (lvl : Level) : Statement (.amoMinz d a b wide lvl) := of_word rfl rfl (by
    cases wide <;> fin_cases lvl <;> simp [Decode.conductor, Decode.amo, Decode.whenZero, Decode.level, Encode.amoFn, Laws.reg_val])
theorem amoMaxz (d : Reg) (a : Reg) (b : Reg) (wide : Bool) (lvl : Level) : Statement (.amoMaxz d a b wide lvl) := of_word rfl rfl (by
    cases wide <;> fin_cases lvl <;> simp [Decode.conductor, Decode.amo, Decode.whenZero, Decode.level, Encode.amoFn, Laws.reg_val])
theorem amoXchg (d : Reg) (a : Reg) (b : Reg) (wide : Bool) (lvl : Level) : Statement (.amoXchg d a b wide lvl) := of_word rfl rfl (by
    cases wide <;> fin_cases lvl <;> simp [Decode.conductor, Decode.amo, Decode.whenZero, Decode.level, Encode.amoFn, Laws.reg_val])
theorem amoCas (d : Reg) (a : Reg) (b : Reg) (wide : Bool) (lvl : Level) : Statement (.amoCas d a b wide lvl) := of_word rfl rfl (by
    cases wide <;> fin_cases lvl <;> simp [Decode.conductor, Decode.amo, Decode.whenZero, Decode.level, Encode.amoFn, Laws.reg_val])
theorem amoFadd (d : Reg) (a : Reg) (b : Reg) (lvl : Level) : Statement (.amoFadd d a b lvl) := of_word rfl rfl (by
    fin_cases lvl <;> simp [Decode.conductor, Decode.amo, Decode.whenZero, Decode.level, Encode.amoFn, Laws.reg_val])
theorem fenceFull (lvl : Level) : Statement (.fenceFull lvl) := of_word rfl rfl (by
    fin_cases lvl <;> simp [Decode.conductor, Decode.fence, Decode.whenZero, Decode.level])
theorem fenceAcq (lvl : Level) : Statement (.fenceAcq lvl) := of_word rfl rfl (by
    fin_cases lvl <;> simp [Decode.conductor, Decode.fence, Decode.whenZero, Decode.level])
theorem fenceRel (lvl : Level) : Statement (.fenceRel lvl) := of_word rfl rfl (by
    fin_cases lvl <;> simp [Decode.conductor, Decode.fence, Decode.whenZero, Decode.level])
theorem fenceTinv (a : Reg) (b : Reg) : Statement (.fenceTinv a b) := of_word rfl rfl (by
    simp [Decode.conductor, Decode.fence, Decode.whenZero, Decode.level, Laws.reg_val])
theorem l2ctlSetrb (a : Reg) (b : Reg) (n : Fin 16) : Statement (.l2ctlSetrb a b n) := of_word rfl rfl (by
    fin_cases n <;> simp [Decode.conductor, Decode.l2ctl, Decode.whenZero, Laws.reg_val]; rfl)
theorem l2ctlSetrl (a : Reg) (b : Reg) (n : Fin 16) : Statement (.l2ctlSetrl a b n) := of_word rfl rfl (by
    fin_cases n <;> simp [Decode.conductor, Decode.l2ctl, Decode.whenZero, Laws.reg_val]; rfl)
theorem l2ctlUnpin (a : Reg) (b : Reg) (n : Fin 16) : Statement (.l2ctlUnpin a b n) := of_word rfl rfl (by
    fin_cases n <;> simp [Decode.conductor, Decode.l2ctl, Decode.whenZero, Laws.reg_val]; rfl)
theorem l2ctlWbinv (a : Reg) (b : Reg) : Statement (.l2ctlWbinv a b) := of_word rfl rfl (by
    simp [Decode.conductor, Decode.l2ctl, Decode.whenZero, Laws.reg_val])
theorem waith (d : Reg) (a : Reg) (b : Reg) (st : SlotState) : Statement (.waith d a b st) := of_word rfl rfl (by
    cases st <;> simp [Decode.conductor, Decode.whenZero, Decode.slotState, Decode.slotStateCode, Laws.reg_val])
theorem mfs (d : Reg) (n : BitVec 16) : Statement (.mfs d n) := of_word rfl rfl (by
    simp [Decode.conductor, Decode.whenZero, Laws.reg_val])
theorem mts (a : Reg) (n : BitVec 16) : Statement (.mts a n) := of_word rfl rfl (by
    simp [Decode.conductor, Decode.whenZero, Laws.reg_val])
theorem tokin (d : Reg) (a : Reg) : Statement (.tokin d a) := of_word rfl rfl (by
    simp [Decode.conductor, Decode.whenZero, Laws.reg_val])
theorem tokout (a : Reg) (b : Reg) : Statement (.tokout a b) := of_word rfl rfl (by
    simp [Decode.conductor, Decode.whenZero, Laws.reg_val])
theorem toktry (d : Reg) (a : Reg) : Statement (.toktry d a) := of_word rfl rfl (by
    simp [Decode.conductor, Decode.whenZero, Laws.reg_val])
theorem cfgld (d : Reg) (a : Reg) (b : Reg) : Statement (.cfgld d a b) := of_word rfl rfl (by
    simp [Decode.conductor, Decode.whenZero, Laws.reg_val])
theorem cfggo (d : Reg) (a : Reg) : Statement (.cfggo d a) := of_word rfl rfl (by
    simp [Decode.conductor, Decode.whenZero, Laws.reg_val])
theorem switch (d : Reg) (a : Reg) : Statement (.switch d a) := of_word rfl rfl (by
    simp [Decode.conductor, Decode.whenZero, Laws.reg_val])
theorem rewireHint (d : Reg) (a : Reg) (b : Reg) : Statement (.rewireHint d a b) := of_word rfl rfl (by
    simp [Decode.conductor, Decode.rewire, Decode.whenZero, Laws.reg_val])
theorem rewireLock (d : Reg) (a : Reg) (b : Reg) : Statement (.rewireLock d a b) := of_word rfl rfl (by
    simp [Decode.conductor, Decode.rewire, Decode.whenZero, Laws.reg_val])
theorem rewireUnlock (d : Reg) (a : Reg) (b : Reg) : Statement (.rewireUnlock d a b) := of_word rfl rfl (by
    simp [Decode.conductor, Decode.rewire, Decode.whenZero, Laws.reg_val])
theorem rewirePin (d : Reg) (a : Reg) (b : Reg) : Statement (.rewirePin d a b) := of_word rfl rfl (by
    simp [Decode.conductor, Decode.rewire, Decode.whenZero, Laws.reg_val])
theorem rewireUnpin (d : Reg) (a : Reg) (b : Reg) : Statement (.rewireUnpin d a b) := of_word rfl rfl (by
    simp [Decode.conductor, Decode.rewire, Decode.whenZero, Laws.reg_val])
theorem layver (d : Reg) : Statement (.layver d) := of_word rfl rfl (by
    simp [Decode.conductor, Decode.whenZero, Laws.reg_val])
theorem layq (d : Reg) (a : Reg) : Statement (.layq d a) := of_word rfl rfl (by
    simp [Decode.conductor, Decode.whenZero, Laws.reg_val])
theorem rate (d : Reg) (a : Reg) (b : Reg) : Statement (.rate d a b) := of_word rfl rfl (by
    simp [Decode.conductor, Decode.whenZero, Laws.reg_val])
theorem strm (d : Reg) (a : Reg) (b : Reg) : Statement (.strm d a b) := of_word rfl rfl (by
    simp [Decode.conductor, Decode.whenZero, Laws.reg_val])
theorem strmst (d : Reg) (a : Reg) (b : Reg) : Statement (.strmst d a b) := of_word rfl rfl (by
    simp [Decode.conductor, Decode.whenZero, Laws.reg_val])
theorem tdset (d : Reg) (a : Reg) (b : Reg) : Statement (.tdset d a b) := of_word rfl rfl (by
    simp [Decode.conductor, Decode.whenZero, Laws.reg_val])
theorem prset (d : Reg) (a : Reg) (b : Reg) : Statement (.prset d a b) := of_word rfl rfl (by
    simp [Decode.conductor, Decode.whenZero, Laws.reg_val])
theorem chord (d : Reg) (a : Reg) (b : Reg) : Statement (.chord d a b) := of_word rfl rfl (by
    simp [Decode.conductor, Decode.whenZero, Laws.reg_val])
theorem lzctlReserve (d : Reg) (a : Reg) (b : Reg) : Statement (.lzctlReserve d a b) := of_word rfl rfl (by
    simp [Decode.conductor, Decode.lzctl, Decode.whenZero, Laws.reg_val])
theorem lzctlRelease (d : Reg) (a : Reg) (b : Reg) : Statement (.lzctlRelease d a b) := of_word rfl rfl (by
    simp [Decode.conductor, Decode.lzctl, Decode.whenZero, Laws.reg_val])
theorem lzctlStatus (d : Reg) (a : Reg) (b : Reg) : Statement (.lzctlStatus d a b) := of_word rfl rfl (by
    simp [Decode.conductor, Decode.lzctl, Decode.whenZero, Laws.reg_val])
theorem lzctlResume (d : Reg) (a : Reg) (b : Reg) : Statement (.lzctlResume d a b) := of_word rfl rfl (by
    simp [Decode.conductor, Decode.lzctl, Decode.whenZero, Laws.reg_val])
theorem lzctlClear (d : Reg) (a : Reg) (b : Reg) : Statement (.lzctlClear d a b) := of_word rfl rfl (by
    simp [Decode.conductor, Decode.lzctl, Decode.whenZero, Laws.reg_val])
theorem launch (d : Reg) (a : Reg) (b : Reg) : Statement (.launch d a b) := of_word rfl rfl (by
    simp [Decode.conductor, Decode.whenZero, Laws.reg_val])
theorem sysTrap (code : BitVec 6) : Statement (.sysTrap code) := of_word rfl rfl (by
    have hk : (32 * code.toNat + 0) % 2048 % 32 = 0 := by have := code.isLt; omega
    simp [Decode.conductor, Decode.sys, Decode.whenZero]; exact code_eq code 0 _ (by omega) (by omega))
theorem eret : Statement (.eret) := of_word rfl rfl (by
    simp [Decode.conductor, Decode.sys, Decode.whenZero])
theorem wfi : Statement (.wfi) := of_word rfl rfl (by
    simp [Decode.conductor, Decode.sys, Decode.whenZero])
theorem sysBrk (code : BitVec 6) : Statement (.sysBrk code) := of_word rfl rfl (by
    have hk : (32 * code.toNat + 3) % 2048 % 32 = 3 := by have := code.isLt; omega
    simp [Decode.conductor, Decode.sys, Decode.whenZero]; exact code_eq code 3 _ (by omega) (by omega))
theorem icinv (a : Reg) (b : Reg) : Statement (.icinv a b) := of_word rfl rfl (by
    simp [Decode.conductor, Decode.sys, Decode.whenZero, Laws.reg_val])
theorem sysBeat (code : BitVec 6) : Statement (.sysBeat code) := of_word rfl rfl (by
    have hk : (32 * code.toNat + 5) % 2048 % 32 = 5 := by have := code.isLt; omega
    simp [Decode.conductor, Decode.sys, Decode.whenZero]; exact code_eq code 5 _ (by omega) (by omega))
theorem sysCease (code : BitVec 6) : Statement (.sysCease code) := of_word rfl rfl (by
    have hk : (32 * code.toNat + 6) % 2048 % 32 = 6 := by have := code.isLt; omega
    simp [Decode.conductor, Decode.sys, Decode.whenZero]; exact code_eq code 6 _ (by omega) (by omega))
theorem sysHalt : Statement (.sysHalt) := of_word rfl rfl (by
    simp [Decode.conductor, Decode.sys, Decode.whenZero])
theorem illegal (r : Nat) : Statement (.illegal r) := of_none rfl rfl
theorem fetchFault (r : Nat) (cause : Cause) (addr : Word64) : Statement (.fetchFault r cause addr) := of_none rfl rfl
theorem breakpointMatch (r : Nat) : Statement (.breakpointMatch r) := of_none rfl rfl
theorem registerPartition (addr : Word64) : Statement (.registerPartition addr) := of_none rfl rfl
theorem registerContext (addr : Word64) : Statement (.registerContext addr) := of_none rfl rfl
theorem registerQueue (addr : Word64) (q : Nat) : Statement (.registerQueue addr q) := of_none rfl rfl
theorem rereadQuads (addr : Word64) : Statement (.rereadQuads addr) := of_none rfl rfl
theorem kill (ctx : BitVec 12) (cause : Cause) : Statement (.kill ctx cause) := of_none rfl rfl
theorem portEnable (k : PortKind) (p : Nat) : Statement (.portEnable k p) := of_none rfl rfl
theorem portDisable (k : PortKind) (p : Nat) : Statement (.portDisable k p) := of_none rfl rfl
theorem dbgslotSet (v : Word64) : Statement (.dbgslotSet v) := of_none rfl rfl
theorem dbgslotClear (v : Word64) : Statement (.dbgslotClear v) := of_none rfl rfl
theorem checkpointCollect (i : Nat) : Statement (.checkpointCollect i) := of_none rfl rfl
theorem checkpointCopy (i : Nat) : Statement (.checkpointCopy i) := of_none rfl rfl
theorem remoteRequest (f : Flit) (p : Nat) : Statement (.remoteRequest f p) := of_none rfl rfl
theorem remoteResponse (f : Flit) : Statement (.remoteResponse f) := of_none rfl rfl
theorem putPacket (f : Flit) (k : PortKind) (p : Nat) : Statement (.putPacket f k p) := of_none rfl rfl
theorem putack (f : Flit) : Statement (.putack f) := of_none rfl rfl
theorem reservationRequest (f : Flit) : Statement (.reservationRequest f) := of_none rfl rfl
theorem reservationAnswer (f : Flit) : Statement (.reservationAnswer f) := of_none rfl rfl
theorem releaseRequest (f : Flit) : Statement (.releaseRequest f) := of_none rfl rfl
theorem nodeFaultTrap (r : Nat) : Statement (.nodeFaultTrap r) := of_none rfl rfl
theorem breakResume (r : Nat) (rank : Nat) : Statement (.breakResume r rank) := of_none rfl rfl
theorem tokenAccept (inst : Nat) (arc : Nat) : Statement (.tokenAccept inst arc) := of_none rfl rfl
theorem facetNullHandling (r : Nat) (rank : Nat) : Statement (.facetNullHandling r rank) := of_none rfl rfl
theorem facetEndHandling (r : Nat) (rank : Nat) : Statement (.facetEndHandling r rank) := of_none rfl rfl
theorem islandNullHandling (r : Nat) (isl : Nat) : Statement (.islandNullHandling r isl) := of_none rfl rfl
theorem islandEndHandling (r : Nat) (isl : Nat) : Statement (.islandEndHandling r isl) := of_none rfl rfl
theorem engineNullHandling (inst : Nat) (node : Nat) : Statement (.engineNullHandling inst node) := of_none rfl rfl
theorem engineEndHandling (inst : Nat) (node : Nat) : Statement (.engineEndHandling inst node) := of_none rfl rfl
theorem steerMergeNull (r : Nat) (rank : Nat) : Statement (.steerMergeNull r rank) := of_none rfl rfl
theorem mergeuNullDiscard (r : Nat) (rank : Nat) : Statement (.mergeuNullDiscard r rank) := of_none rfl rfl
theorem steerMergeEnd (r : Nat) (rank : Nat) : Statement (.steerMergeEnd r rank) := of_none rfl rfl
theorem chainMemberFiring (r : Nat) (rank : Nat) : Statement (.chainMemberFiring r rank) := of_none rfl rfl
theorem spillRingEntry (inst : Nat) (arc : Nat) : Statement (.spillRingEntry inst arc) := of_none rfl rfl
theorem spillRingDelivery (inst : Nat) (arc : Nat) : Statement (.spillRingDelivery inst arc) := of_none rfl rfl
theorem complete (inst : Nat) : Statement (.complete inst) := of_none rfl rfl
theorem deadlock (inst : Nat) : Statement (.deadlock inst) := of_none rfl rfl
theorem tableWalk (die : Nat) : Statement (.tableWalk die) := of_none rfl rfl
theorem trackedEntryExpire (r : Nat) : Statement (.trackedEntryExpire r) := of_none rfl rfl
theorem multicastRequest (r : Nat) (st : Nat) : Statement (.multicastRequest r st) := of_none rfl rfl
theorem multicastResponse (slice : Nat) (i : Nat) : Statement (.multicastResponse slice i) := of_none rfl rfl
theorem mergeRecordExpire (slice : Nat) (i : Nat) : Statement (.mergeRecordExpire slice i) := of_none rfl rfl
theorem chaseLinkReturn (r : Nat) (st : Nat) : Statement (.chaseLinkReturn r st) := of_none rfl rfl
theorem streamUnit (r : Nat) (st : Nat) : Statement (.streamUnit r st) := of_none rfl rfl
theorem arrivalToken (r : Nat) (h : Nat) : Statement (.arrivalToken r h) := of_none rfl rfl
theorem streamNodeCommand (inst : Nat) (node : Nat) : Statement (.streamNodeCommand inst node) := of_none rfl rfl
theorem chordNodePut (inst : Nat) (node : Nat) : Statement (.chordNodePut inst node) := of_none rfl rfl
theorem islandFiring (r : Nat) (isl : Nat) : Statement (.islandFiring r isl) := of_none rfl rfl
theorem diagonalEnd (r : Nat) (isl : Nat) : Statement (.diagonalEnd r isl) := of_none rfl rfl
theorem skippedFiring (r : Nat) (isl : Nat) : Statement (.skippedFiring r isl) := of_none rfl rfl
theorem weightReload (r : Nat) (isl : Nat) : Statement (.weightReload r isl) := of_none rfl rfl
theorem weightReloadDone (r : Nat) (isl : Nat) : Statement (.weightReloadDone r isl) := of_none rfl rfl
theorem publication (r : Nat) (isl : Nat) (t : Nat) : Statement (.publication r isl t) := of_none rfl rfl
theorem drainRow (r : Nat) (isl : Nat) (t : Nat) : Statement (.drainRow r isl t) := of_none rfl rfl
theorem versionToken (r : Nat) (isl : Nat) (t : Nat) : Statement (.versionToken r isl t) := of_none rfl rfl
theorem finalRepeatToken (r : Nat) (isl : Nat) (t : Nat) : Statement (.finalRepeatToken r isl t) := of_none rfl rfl
theorem ceaseAtIsland (i : Nat) : Statement (.ceaseAtIsland i) := of_none rfl rfl
theorem ceaseAtFacet (i : Nat) : Statement (.ceaseAtFacet i) := of_none rfl rfl
theorem ceaseDiscard (i : Nat) : Statement (.ceaseDiscard i) := of_none rfl rfl
theorem settled (inst : Nat) (level : Nat) : Statement (.settled inst level) := of_none rfl rfl
theorem islandSwitch (r : Nat) (isl : Nat) : Statement (.islandSwitch r isl) := of_none rfl rfl
theorem reservationTimeout (tx : Nat) : Statement (.reservationTimeout tx) := of_none rfl rfl
theorem putPacketSend (eng : Nat) : Statement (.putPacketSend eng) := of_none rfl rfl
theorem quietPeriodEnd (eng : Nat) (id : Nat) : Statement (.quietPeriodEnd eng id) := of_none rfl rfl
theorem linkFail (eng : Nat) (id : Nat) : Statement (.linkFail eng id) := of_none rfl rfl
theorem failureSeen (r : Nat) (h : Nat) (sl : Nat) : Statement (.failureSeen r h sl) := of_none rfl rfl
theorem slotAbort (r : Nat) (h : Nat) (sl : Nat) : Statement (.slotAbort r h sl) := of_none rfl rfl
theorem keep (eng : Nat) (id : Nat) : Statement (.keep eng id) := of_none rfl rfl
theorem trainingSuccess (k : PortKind) (p : Nat) (lanes : Nat) (peer : BitVec 8) : Statement (.trainingSuccess k p lanes peer) := of_none rfl rfl
theorem trainingTimeout (k : PortKind) (p : Nat) : Statement (.trainingTimeout k p) := of_none rfl rfl
theorem laneFailure (k : PortKind) (p : Nat) (lane : Nat) : Statement (.laneFailure k p lane) := of_none rfl rfl
theorem receiveTimeout (k : PortKind) (p : Nat) : Statement (.receiveTimeout k p) := of_none rfl rfl
theorem replayLimit (k : PortKind) (p : Nat) : Statement (.replayLimit k p) := of_none rfl rfl
theorem downRetry (k : PortKind) (p : Nat) : Statement (.downRetry k p) := of_none rfl rfl
theorem flitReceive (p : Nat) (raw : List Byte) : Statement (.flitReceive p raw) := of_none rfl rfl
theorem frameReceive (p : Nat) (peer : Nat) (raw : List Byte) : Statement (.frameReceive p peer raw) := of_none rfl rfl
theorem frameResend (peer : Nat) (pseq : Nat) : Statement (.frameResend peer pseq) := of_none rfl rfl
theorem remoteFailover (dst : Nat) : Statement (.remoteFailover dst) := of_none rfl rfl
theorem remoteTimeout (tx : Nat) : Statement (.remoteTimeout tx) := of_none rfl rfl
theorem killComplete (ctx : BitVec 12) : Statement (.killComplete ctx) := of_none rfl rfl
theorem packetLaunch (q : Nat) (regions : List Nat) : Statement (.packetLaunch q regions) := of_none rfl rfl
theorem packetCopy (q : Nat) : Statement (.packetCopy q) := of_none rfl rfl
theorem copyDone (q : Nat) : Statement (.copyDone q) := of_none rfl rfl
theorem packetEvent (q : Nat) : Statement (.packetEvent q) := of_none rfl rfl
theorem packetNop (q : Nat) : Statement (.packetNop q) := of_none rfl rfl
theorem poolDispatch (q : Nat) (regions : List Nat) : Statement (.poolDispatch q regions) := of_none rfl rfl
theorem preempt (part : Nat) : Statement (.preempt part) := of_none rfl rfl
theorem deficitExpiry (part : Nat) : Statement (.deficitExpiry part) := of_none rfl rfl
theorem freeze (inst : Nat) : Statement (.freeze inst) := of_none rfl rfl
theorem saveDone (inst : Nat) : Statement (.saveDone inst) := of_none rfl rfl
theorem resume (inst : Nat) (regions : List Nat) : Statement (.resume inst regions) := of_none rfl rfl
theorem retire (inst : Nat) : Statement (.retire inst) := of_none rfl rfl
theorem faultDomainAction (r : Nat) : Statement (.faultDomainAction r) := of_none rfl rfl
theorem watchdog (q : Nat) : Statement (.watchdog q) := of_none rfl rfl
theorem queueUnpause (q : Nat) : Statement (.queueUnpause q) := of_none rfl rfl
theorem windowBoundary (inst : Nat) : Statement (.windowBoundary inst) := of_none rfl rfl
theorem rewireStart (inst : Nat) : Statement (.rewireStart inst) := of_none rfl rfl
theorem nodeSwitch (inst : Nat) (node : Nat) : Statement (.nodeSwitch inst node) := of_none rfl rfl
theorem switchOrphan (r : Nat) (rank : Nat) : Statement (.switchOrphan r rank) := of_none rfl rfl
theorem splitterDeal (inst : Nat) (arc : Nat) : Statement (.splitterDeal inst arc) := of_none rfl rfl
theorem reorderMergeEmit (inst : Nat) (node : Nat) (port : Nat) : Statement (.reorderMergeEmit inst node port) := of_none rfl rfl
theorem containmentReplay (r : Nat) (rank : Nat) (agree : Bool) : Statement (.containmentReplay r rank agree) := of_none rfl rfl
theorem spareMove (r : Nat) (rank : Nat) : Statement (.spareMove r rank) := of_none rfl rfl
theorem islandRerun (r : Nat) (isl : Nat) (agree : Bool) : Statement (.islandRerun r isl agree) := of_none rfl rfl
theorem l2Scrub (slice : Nat) (set : Nat) (way : Nat) (found : Finding) : Statement (.l2Scrub slice set way found) := of_none rfl rfl
theorem hbmScrub (addr : Nat) (found : Finding) : Statement (.hbmScrub addr found) := of_none rfl rfl
theorem checkpointPhaseEnd (i : Nat) : Statement (.checkpointPhaseEnd i) := of_none rfl rfl
theorem hostWindowAccess (off : Nat) (acc : HostAccess) : Statement (.hostWindowAccess off acc) := of_none rfl rfl
theorem vfWindowAccess (vf : Nat) (off : Nat) (acc : HostAccess) : Statement (.vfWindowAccess vf off acc) := of_none rfl rfl
theorem registerWrite (off : Nat) (v : Word64) : Statement (.registerWrite off v) := of_none rfl rfl
theorem keySlotFill (slot : Nat) (vf : Nat) (key : BitVec 512) : Statement (.keySlotFill slot vf key) := of_none rfl rfl
theorem tdiExit (vf : Nat) : Statement (.tdiExit vf) := of_none rfl rfl
theorem getMeasurements (fn : Nat) : Statement (.getMeasurements fn) := of_none rfl rfl
theorem firmwareStage (img : StagedImage) : Statement (.firmwareStage img) := of_none rfl rfl
theorem perstRelease (b : BootRun) : Statement (.perstRelease b) := of_none rfl rfl
theorem shdn : Statement (.shdn) := of_none rfl rfl
theorem thermtrip (tmax : BitVec 8) : Statement (.thermtrip tmax) := of_none rfl rfl
theorem energyRefill (tmax : BitVec 8) (watts : BitVec 16) : Statement (.energyRefill tmax watts) := of_none rfl rfl
theorem wfiComplete (r : Nat) : Statement (.wfiComplete r) := of_none rfl rfl
theorem perstAssert : Statement (.perstAssert) := of_none rfl rfl
theorem pwrgd (up : Bool) : Statement (.pwrgd up) := of_none rfl rfl

end Sys2Proof.Laws.RoundTrip
end

