-- ==== Sys2Proof/Tests/Slice0.lean ====
section
/-!
SUPPORT. Tests: ill-formed terms are refused, words written out from the spec's encodings decode to their instructions, single steps
give what the rules say, and each statement's hypotheses are met together by a concrete state and operands.
-/

namespace Sys2Proof.Tests
open Sys2Proof.Machine Sys2Proof.Claims

set_option Elab.async false

/-! ### Ill-formed terms -/

/-- A facet word with neutral fields: no predicate match, no tag gate, no predicate update, NONE in D, A, B and C (R141). -/
def plainWord : FWord := ⟨0, 0, false, 0, 0, .none, .none, .none, .none, 0, 0, 0, false, false⟩

/-- R141: with TG.EN = 0 the tag gate is zero; with PU.ACT = 0 the predicate update is zero. -/
theorem test_wf_neutral : (Instr.nop plainWord).wf = true ∧ (Instr.nop { plainWord with tgCh := 1 }).wf = false ∧
    (Instr.nop { plainWord with tgTag := 1 }).wf = false ∧ (Instr.nop { plainWord with puIdx := 3 }).wf = false := by decide

/-- R138, R141: D of an instruction that writes nothing, of one that may write any destination, and of one that sends. -/
theorem test_wf_destination : (Instr.nop { plainWord with d := .reg 0 }).wf = false ∧
    (Instr.mov { plainWord with a := .reg 0, d := .reg 3 }).wf = true ∧ (Instr.mov { plainWord with a := .reg 0, d := .konst }).wf = false ∧
    (Instr.emitn { plainWord with d := .out 2 }).wf = true ∧ (Instr.emitn { plainWord with d := .reg 2 }).wf = false := by decide

/-- R138, R140: sources that an instruction does not take. -/
theorem test_wf_sources : (Instr.nop { plainWord with a := .zero }).wf = false ∧ (Instr.mov plainWord).wf = false ∧
    (Instr.mov { plainWord with a := .out 0 }).wf = false ∧ (Instr.drop { plainWord with a := .zero, b := .out 1 }).wf = false ∧
    (Instr.emitn { plainWord with d := .out 0, a := .peek 0 }).wf = false ∧ (Instr.vers { plainWord with a := .reg 0 }).wf = false ∧
    (Instr.rdcnt { plainWord with b := .imm 27 }).wf = false ∧ (Instr.steer { plainWord with d := .out 0, a := .zero, c := .reg 2 }).wf = false ∧
    (Instr.merge { plainWord with a := .peek 0, b := .pop 1, c := .reg 0 }).wf = false := by decide

/-- R141, R267, R271, R272: H where no rounding is named, and S.V where the row keeps it 0. -/
theorem test_wf_side_fields : (Instr.nop { plainWord with h := 1 }).wf = false ∧
    (Instr.fadd .f32 { plainWord with a := .zero, b := .zero, h := 3 }).wf = true ∧
    (Instr.cease { plainWord with a := .pop 0, sv := true }).wf = false ∧
    (Instr.vfin { plainWord with d := .out 0, a := .zero, sv := true }).wf = false ∧
    (Instr.accrd { plainWord with b := .zero, sv := true }).wf = false := by decide

/-- R174, R175: MERGE and MERGEU take two different channels. -/
theorem test_wf_two_channels : (Instr.merge { plainWord with a := .pop 1, b := .pop 1, c := .reg 0 }).wf = false ∧
    (Instr.merge { plainWord with a := .pop 1, b := .pop 2, c := .reg 0 }).wf = true ∧
    (Instr.mergeu { plainWord with a := .pop 2, b := .pop 2, c := .reg 1 }).wf = false := by decide

/-! ### Words written out from the spec's encodings -/

/-- R137 (spec/12_encoding_notes.md, the worked facet words): NOP; ADD.W v0, v1, v2; `when p0 = 0: MUL.W o0, i0, i0 -> p0 = 1`. -/
theorem test_decode_facet_words :
    Decode.facet 0x00000003EFBEF800 = .ok (.nop plainWord) ∧
    Decode.facet 0x000000900084F800 = .ok (.facetAdd .W { plainWord with d := .reg 0, a := .reg 1, b := .reg 2 }) ∧
    Decode.facet 0x010001530820F880 = .ok (.facetMul .W
      { plainWord with pm := 1, d := .out 0, a := .pop 0, b := .pop 0, puAct := 2 }) := ⟨rfl, rfl, rfl⟩

/-- R213, R214, R215 (spec/12_encoding_notes.md, the worked program): ADDI x2, x0, 8; ADD x3, x3, x2; SUB x2, x2, x4; BNE x2, x0, -3. -/
theorem test_decode_program : Decode.conductor 0x08400008 = .ok (.addi 2 0 8) ∧ Decode.conductor 0x04631000 = .ok (.add 3 3 2) ∧
    Decode.conductor 0x04422001 = .ok (.sub 2 2 4) ∧ Decode.conductor 0x4440FFFD = .ok (.bne 2 0 0xFFFD) ∧
    Decode.conductor 0xFC000007 = .ok .sysHalt := ⟨rfl, rfl, rfl, rfl, rfl⟩

/-- R214 to R217: SHI x13, x13, SHRZ by 5 (OP 6, D 13, A 13, mode 1 in bits 7:6, count 5); LUI x15, 0x80; JALR x0, x31, 0;
JAL 15; LDD and STD x5, 8(x6) (OP 0x1C and 0x23). -/
theorem test_decode_immediates : Decode.conductor 0x19AD0045 = .ok (.shi 13 13 .shrz 5) ∧
    Decode.conductor 0x25E00080 = .ok (.lui 15 0x80) ∧ Decode.conductor 0x601F0000 = .ok (.jalr 0 31 0) ∧
    Decode.conductor 0x5C00000F = .ok (.jal 15) ∧ Decode.conductor 0x70A60008 = .ok (.ldd 5 6 8) ∧
    Decode.conductor 0x8CA60008 = .ok (.std 5 6 8) := ⟨rfl, rfl, rfl, rfl, rfl, rfl⟩

/-- R219 to R240: AMO.ADD.D x0, x20, x19 at level 1; FENCE.REL 1; MFS x3, REGION; TOKOUT x12, x10; WAITH.FULL x0, x10, x0;
TDSET x0, x0, x8; LZCTL.RESERVE x17, x16, x14; LAUNCH x5, x6, x7. -/
theorem test_decode_system : Decode.conductor 0x90149848 = .ok (.amoAdd 0 20 19 true 1) ∧
    Decode.conductor 0x94000006 = .ok (.fenceRel 1) ∧ Decode.conductor 0xA0600010 = .ok (.mfs 3 0x10) ∧
    Decode.conductor 0xAC0C5000 = .ok (.tokout 12 10) ∧ Decode.conductor 0x9C0A0003 = .ok (.waith 0 10 0 .full) ∧
    Decode.conductor 0xE8004000 = .ok (.tdset 0 0 8) ∧ Decode.conductor 0xF6307000 = .ok (.lzctlReserve 17 16 14) ∧
    Decode.conductor 0xF8A63800 = .ok (.launch 5 6 7) := ⟨rfl, rfl, rfl, rfl, rfl, rfl, rfl, rfl⟩

/-- R142 to R144, R147: words that decode to no instruction, each with its reason. -/
theorem test_decode_refuses : Decode.conductor 0 = .error .invalid ∧ Decode.conductor 0x30000000 = .error .experimental ∧
    Decode.conductor 0xDC000000 = .error .reserved ∧ Decode.conductor 0x25E10080 = .error .unusedField := ⟨rfl, rfl, rfl, rfl⟩

/-- R147, R142 through the table's numbering: the step after reset runs the instruction that `withFetchWord` places. -/
theorem test_table_word_runs : decodeTableWord 32 0x08400008 = some (.addi 2 0 8) ∧
    (∃ t c, step (State.reset.withFetchWord 32 0x08400008) = .next t ∧ t.cond? 0 = some c ∧ c.get 2 = 8) := by
  refine ⟨rfl, ?_⟩
  have h : (match step (State.reset.withFetchWord 32 0x08400008) with
      | .next t => (t.cond? 0).map (fun c => c.get 2)
      | _ => none) = some 8 := by decide +kernel
  revert h
  cases step (State.reset.withFetchWord 32 0x08400008) with
  | next t => simp only [Option.map_eq_some_iff]; rintro ⟨c, h1, h2⟩; exact ⟨t, c, rfl, h1, h2⟩
  | _ => simp

/-- A facet word by its fields (R137), bit for bit: OP in bits 42:35, D in 34:29, A in 28:23, B in 22:17, C in 16:11, and the low eleven
bits, with no predicate match and no tag gate. -/
def slotWord (op d a b c low : Nat) : BitVec 64 :=
  BitVec.ofNat 64 (op * 2 ^ 35 + d * 2 ^ 29 + a * 2 ^ 23 + b * 2 ^ 17 + c * 2 ^ 11 + low)

/-- R146, rows 0x0_: STEER o2, i1, c1; CTL p3 on k1; MOVI v4, 0x123 (B:C); VERS v1, i0 peeked. -/
theorem test_decode_row_0 :
    Decode.facet (slotWord 0x06 26 17 31 1 0) = .ok (.steer { plainWord with d := .out 2, a := .pop 1, c := .reg 1 }) ∧
    Decode.facet (slotWord 0x0B 31 51 31 1 0) = .ok (.ctl { plainWord with a := .imm 19, c := .reg 1 }) ∧
    Decode.facet (slotWord 0x02 4 31 4 35 0) = .ok (.movi { plainWord with d := .reg 4, b := .reg 4, c := .imm 3 }) ∧
    Decode.facet (slotWord 0x0D 1 20 31 31 0) = .ok (.vers { plainWord with d := .reg 1, a := .peek 0 }) := ⟨rfl, rfl, rfl, rfl⟩

/-- R146, rows 0x1_ to 0x4_: ADDSZ.H v0, v1, #-16; MULHS.D; MINZ.W; MAC.B v3, v4, laneid, konst. -/
theorem test_decode_rows_1_to_4 :
    Decode.facet (slotWord 0x1D 0 1 32 31 0) = .ok (.addsz .H { plainWord with d := .reg 0, a := .reg 1, b := .imm 0 }) ∧
    Decode.facet (slotWord 0x2F 0 1 2 31 0) = .ok (.facetMulhs .D { plainWord with d := .reg 0, a := .reg 1, b := .reg 2 }) ∧
    Decode.facet (slotWord 0x3A 0 1 2 31 0) = .ok (.facetMinz .W { plainWord with d := .reg 0, a := .reg 1, b := .reg 2 }) ∧
    Decode.facet (slotWord 0x48 3 4 29 30 0) = .ok (.mac .B { plainWord with d := .reg 3, a := .reg 4, b := .laneid, c := .konst }) :=
  ⟨rfl, rfl, rfl, rfl⟩

/-- R146, rows 0x5_ and 0x6_: ANDN, SHRS.W, CMPLTS.B setting p5 to the condition (PU.IDX 5, PU.ACT 1), TEST.D. -/
theorem test_decode_rows_5_and_6 :
    Decode.facet (slotWord 0x53 0 1 28 31 0) = .ok (.facetAndn { plainWord with d := .reg 0, a := .reg 1, b := .zero }) ∧
    Decode.facet (slotWord 0x5E 0 1 2 31 0) = .ok (.facetShrs .W { plainWord with d := .reg 0, a := .reg 1, b := .reg 2 }) ∧
    Decode.facet (slotWord 0x64 31 1 2 31 0x540) = .ok (.cmplts .B { plainWord with a := .reg 1, b := .reg 2, puIdx := 5, puAct := 1 }) ∧
    Decode.facet (slotWord 0x6F 31 1 2 31 0) = .ok (.test .D { plainWord with a := .reg 1, b := .reg 2 }) := ⟨rfl, rfl, rfl, rfl⟩

/-- R146, rows 0x7_ to 0xA_: FADD.F32 toward zero (H 1); FSCALE.F16; FCMPLE.BF16; CVTW.TF8 of half 1; SHUF; BCAST of lane 3. -/
theorem test_decode_rows_7_to_A :
    Decode.facet (slotWord 0x70 3 1 2 31 0x10) = .ok (.fadd .f32 { plainWord with d := .reg 3, a := .reg 1, b := .reg 2, h := 1 }) ∧
    Decode.facet (slotWord 0x8F 3 1 2 31 0) = .ok (.fscale .f16 { plainWord with d := .reg 3, a := .reg 1, b := .reg 2 }) ∧
    Decode.facet (slotWord 0x9A 3 1 2 31 0) = .ok (.fcmple .bf16 { plainWord with d := .reg 3, a := .reg 1, b := .reg 2 }) ∧
    Decode.facet (slotWord 0xA6 3 1 49 31 0) = .ok (.cvtw .tf8 { plainWord with d := .reg 3, a := .reg 1, b := .imm 17 }) ∧
    Decode.facet (slotWord 0xAA 3 1 2 4 0) = .ok (.shuf { plainWord with d := .reg 3, a := .reg 1, b := .reg 2, c := .reg 4 }) ∧
    Decode.facet (slotWord 0xAB 3 1 51 31 0) = .ok (.bcast { plainWord with d := .reg 3, a := .reg 1, b := .imm 19 }) :=
  ⟨rfl, rfl, rfl, rfl, rfl, rfl⟩

/-- R146, rows 0xB_ to 0xE_: STG with hint 3 and offset -16; ATOMS; REL of level 4; HTAKE of h2 (A raw); LZRESET; RDST 2; SEQ of o3;
SORT4.W. -/
theorem test_decode_rows_B_to_E :
    Decode.facet (slotWord 0xB6 31 1 2 63 0x30) = .ok (.stg { plainWord with a := .reg 1, b := .reg 2, c := .imm 31, h := 3 }) ∧
    Decode.facet (slotWord 0xB8 5 1 2 0 0) = .ok (.atoms { plainWord with d := .reg 5, a := .reg 1, b := .reg 2, c := .reg 0 }) ∧
    Decode.facet (slotWord 0xBE 31 52 31 31 0) = .ok (.rel { plainWord with a := .imm 20 }) ∧
    Decode.facet (slotWord 0xC1 3 2 48 31 0) = .ok (.htake { plainWord with d := .reg 3, a := .reg 2, b := .imm 16 }) ∧
    Decode.facet (slotWord 0xCB 31 2 0 31 0) = .ok (.lzreset { plainWord with a := .reg 2, b := .reg 0 }) ∧
    Decode.facet (slotWord 0xD3 3 31 50 31 0) = .ok (.rdst { plainWord with d := .reg 3, b := .imm 18 }) ∧
    Decode.facet (slotWord 0xD8 31 51 0 31 0) = .ok (.seq { plainWord with a := .imm 19, b := .reg 0 }) ∧
    Decode.facet (slotWord 0xE1 3 1 31 31 0) = .ok (.sort4W { plainWord with d := .reg 3, a := .reg 1 }) :=
  ⟨rfl, rfl, rfl, rfl, rfl, rfl, rfl, rfl⟩

/-- R137, R141, R146, R148: facet words that decode to none: an invalid opcode, a reserved one, a reserved bit, and a field that
the opcode leaves unused. -/
theorem test_decode_facet_refuses :
    (∀ i, Decode.facet (slotWord 0xF0 31 31 31 31 0) ≠ .ok i) ∧ (∀ i, Decode.facet (slotWord 0xCC 31 31 31 31 0) ≠ .ok i) ∧
    (∀ i, Decode.facet (slotWord 0x00 31 31 31 31 1) ≠ .ok i) ∧ ∀ i, Decode.facet (slotWord 0x01 3 1 2 31 0) ≠ .ok i := by
  refine ⟨?_, ?_, ?_, ?_⟩ <;> (intro i h; cases h)

/-! ### Conductors -/

/-- What `f` reads in the state after an instruction. -/
def after {α : Type} (i : Instr) (s : State) (f : State → α) : Option α :=
  match exec i s with
  | .next t => some (f t)
  | _ => none

/-- Conductor 0 at pc 0x100 of graph level, with 7, -2, 0x20 and 2^63 in x1 to x4. -/
def lead : Conductor := { pc := 0x100, pl := false, tvec := 0x8000, x := [0, 7, -2, 0x20, 0x8000000000000000] ++ List.replicate 27 0 }

/-- The device after reset with conductor 0 as given, and a page of memory at addresses 0 to 0xFFFF mapped to 0x100000. -/
def withConductor (c : Conductor) : State :=
  { State.reset with
    conds := c :: List.replicate 191 {}
    tlb := [{ region := 0, ctx := 0, va := 0, size := 65536, leaf := 0x10007B },
      { region := 0, ctx := 0, va := 65536, size := 65536, leaf := 0xF000000006B }] }

/-- The device with `lead` in conductor 0. -/
def dev : State := withConductor lead

/-- Register `d` of conductor 0 after an instruction. -/
def regAfter (i : Instr) (s : State) (d : Reg) : Option (Option Word64) := after i s fun t => (t.cond? 0).map fun c => c.get d

/-- R213: 7 - 2; a shift count is taken modulo 64; -2 shifted right by 1 keeps its sign. -/
theorem test_alu : regAfter (.add 5 1 2) dev 5 = some (some 5) ∧ regAfter (.sub 5 0 1) dev 5 = some (some (-7)) ∧
    regAfter (.shl 5 1 3) dev 5 = some (some 0x700000000) ∧ regAfter (.mulhs 5 2 2) dev 5 = some (some 0) ∧
    regAfter (.mulhz 5 2 2) dev 5 = some (some 0xFFFFFFFFFFFFFFFC) := by decide +kernel

/-- R213: a division by 0 gives all ones and a remainder by 0 its dividend; -2^63 divided by -1 wraps; SUBW sign-extends. -/
theorem test_alu_corners : regAfter (.divs 5 1 0) dev 5 = some (some (-1)) ∧ regAfter (.remz 5 1 0) dev 5 = some (some 7) ∧
    regAfter (.divs 5 4 2) dev 5 = some (some 0x4000000000000000) ∧ regAfter (.subw 5 0 1) dev 5 = some (some (-7)) ∧
    regAfter (.clz 5 0) dev 5 = some (some 64) ∧ regAfter (.selnz 1 2 0) dev 1 = some (some 7) := by decide +kernel

/-- R142, R214: x0 discards a write; ANDI zero-extends its immediate and ADDI sign-extends it; LUI sign-extends from bit 31. -/
theorem test_immediates : regAfter (.addi 0 1 1) dev 0 = some (some 0) ∧ regAfter (.addi 5 1 0xFFFF) dev 5 = some (some 6) ∧
    regAfter (.andi 5 2 0xFFFF) dev 5 = some (some 0xFFFE) ∧ regAfter (.lui 5 0x8000) dev 5 = some (some 0xFFFFFFFF80000000) ∧
    regAfter (.addpc 5 0xFFFF) dev 5 = some (some 0x100) := by decide +kernel

/-- R215, R216: a taken branch counts from pc + 4; JALR through x31 onto itself reads before it writes; a target that is not a
multiple of 4 raises MISALIGN, with EPC the jump. -/
theorem test_branches : after (.bne 1 0 0xFFFD) dev (fun t => (t.cond? 0).map Conductor.pc) = some (some 0xF8) ∧
    after (.beq 1 0 0xFFFD) dev (fun t => (t.cond? 0).map Conductor.pc) = some (some 0x104) ∧
    after (.jalr 3 3 4) dev (fun t => (t.cond? 0).map fun c => (c.pc, c.get 3)) = some (some (0x24, 0x104)) ∧
    after (.jalr 5 1 0) dev (fun t => (t.cond? 0).map fun c => (c.pc, c.epc, c.cause, c.get 5)) =
      some (some (0x8000, 0x100, BitVec.ofNat 64 (causeCode .misalign), 0)) := by decide +kernel

theorem witness_RegisterInstructionWritesItsResult : dev.executes lead ∧ (∃ f, aluRows[0]? = some f) ∧ (∃ f, aluRows[26]? = some f) ∧
    regResult (.add 5 1 2) lead = some (5, 5) ∧ regResult (.subw 0 1 2) lead = some (0, 9) ∧ regResult (.clz 31 0) lead = some (31, 64) :=
  ⟨rfl, ⟨_, rfl⟩, ⟨_, rfl⟩, by decide, by decide, by decide⟩

theorem witness_ImmediateInstructionWritesItsResult : dev.executes lead ∧ immResult (.addi 5 1 0xFFFF) lead = some (5, 6) ∧
    immResult (.addpc 0 0) lead = some (0, 0x104) := ⟨rfl, by decide, by decide⟩

theorem witness_BranchGoesToItsTarget : dev.executes lead ∧ (∃ f, branchRows[5]? = some f) ∧ branchOf (.bne 1 0 0x7FFF) lead = some (true, 0x7FFF) ∧
    branchOf (.beq 1 0 0x8000) lead = some (false, 0x8000) ∧ branchOf (.bges 1 2 0) lead = some (true, 0) :=
  ⟨rfl, ⟨_, rfl⟩, by decide, by decide, by decide⟩

theorem witness_JumpsLinkAndRegistersReadBack : dev.executes lead ∧ jumpOf (.j 0x3FFFFFF) lead = some (none, 0x100) ∧
    jumpOf (.jal 0) lead = some (some 31, 0x104) ∧ jumpOf (.jalr 0 1 0) lead = some (some 0, 7) ∧ lead.x.length = 32 :=
  ⟨rfl, by decide, by decide, by decide, by decide⟩

theorem witness_PlainInstructionFrame : dev.executes lead ∧ plain (.selnz 1 2 0) = true ∧ plain (.beq 1 0 2) = true ∧ plain (.jal 0) = true ∧
    (∃ t, exec (.selnz 1 2 0) dev = .next t) ∧ (∃ t, exec (.beq 1 0 2) dev = .next t) ∧ lead.ss = false :=
  ⟨rfl, by decide, by decide, by decide, ⟨_, rfl⟩, ⟨_, rfl⟩, rfl⟩

/-- A state whose memory holds 0x80 at 0x100008, 0x7F at 0x100009, and whose scratchpad holds 5 at rank 0, offset 16. -/
def full : State := { dev with mem := [(0x100008, 0x80), (0x100009, 0x7F)], spad := [(16, 5)] }

/-- R217, R88: LDB sign-extends and LDBZ does not; a load of two bytes is little-endian. R218: a store writes its low bytes. -/
theorem test_loads_and_stores : regAfter (.ldb 5 0 8) full 5 = some (some 0xFFFFFFFFFFFFFF80) ∧
    regAfter (.ldhz 5 0 8) full 5 = some (some 0x7F80) ∧ regAfter (.ldbz 5 0 8) full 5 = some (some 0x80) ∧
    after (.sth 2 0 8) full (fun t => t.mem) = some [(0x100008, 0xFE), (0x100009, 0xFF)] := by decide +kernel

/-- An access of the first page that reaches memory. -/
theorem full_reads : full.reaches lead 8 1 false none 0x100008 :=
  ⟨by decide, by decide, 0x100008, by decide +kernel, by decide +kernel, by decide +kernel⟩

theorem full_reads_last : full.reaches lead 0xFFF8 8 false none 0x10FFF8 :=
  ⟨by decide, by decide, 0x10FFF8, by decide +kernel, by decide +kernel, by decide +kernel⟩

theorem full_writes : full.reaches lead 0x20 8 true none 0x100020 :=
  ⟨by decide, by decide, 0x100020, by decide +kernel, by decide +kernel, by decide +kernel⟩

/-- `full` with a copy of line 0x100000 in the conductor's L1. -/
def cached : State := { full with conds := { lead with l1 := [{ addr := 0x100000, bytes := List.replicate 128 3 }] } :: List.replicate 191 {} }

/-- An access of `n` bytes by a scratchpad address of region 0. -/
def spadAccess (va : Word64) (n : Nat) (w : Bool) : Access :=
  { space := 1, addr := spadKey 0 (Word.field va 23 18) (Word.field va 17 0), len := n, isWrite := w }

theorem witness_LoadsReadTheirBytes :
    (full.executes lead ∧ lead.x.length = 32 ∧ (∃ e, loadOf (.ldb 5 0 8) = some (1, e, 5, 0, 8)) ∧
      full.reaches lead (lead.get 0 + (8 : BitVec 16).signExtend 64) 1 false none 0x100008 ∧
      lead.l1.find? (fun l => l.addr == 0x100008 / 128 * 128) = none ∧ full.poisoned 0x100008 1 = false ∧ lead.ss = false) ∧
    (∃ c, cached.executes c ∧ c.x.length = 32 ∧ cached.reaches c 0x20 8 false none 0x100020 ∧
      (c.l1.find? fun l => l.addr == 0x100020 / 128 * 128).isSome = true) ∧
    (∃ c, (withConductor c).executes c ∧ c.x.length = 32 ∧ c.ss = false ∧ let va := c.get 1 + (0 : BitVec 16).signExtend 64
      Word.field va 63 56 = 1 ∧ Word.field va 55 24 = 0 ∧ va.toNat % 8 = 0 ∧
      Word.field va 17 0 + 8 = (withConductor c).spadSize 0 (Word.field va 23 18) ∧
      (withConductor c).clear 0 (.conductor 0) (withConductor c).nextTx (spadAccess va 8 false) ∧
      (withConductor c).spadPoisoned (spadKey 0 (Word.field va 23 18) (Word.field va 17 0)) 8 = false) ∧
    (∃ c, (withConductor c).executes c ∧ c.pl = false ∧ c.ss = true ∧ (withConductor c).reaches c 8 1 false none 0x100008) := by
  refine ⟨⟨rfl, rfl, ⟨_, rfl⟩, full_reads, rfl, by decide +kernel, rfl⟩, ⟨_, rfl, rfl, ?_, by decide⟩, ?_, { lead with ss := true }, rfl, rfl, rfl,
    ⟨by decide, by decide, 0x100008, by decide +kernel, by decide +kernel, by decide +kernel⟩⟩
  · exact ⟨by decide, by decide, 0x100020, by decide +kernel, by decide +kernel, by decide +kernel⟩
  · exact ⟨{ lead with x := [0, 0x010000000003FFF8] ++ List.replicate 30 0 }, rfl, by decide, rfl, by decide +kernel⟩

theorem witness_StoresWriteTheirBytes :
    (full.executes lead ∧ storeOf (.std 5 3 0) = some (8, 5, 3, 0) ∧
      full.reaches lead (lead.get 3 + (0 : BitVec 16).signExtend 64) 8 true none 0x100020 ∧ lead.ss = false) ∧
    (∃ c, (withConductor c).executes c ∧ storeOf (.std 5 1 0) = some (8, 5, 1, 0) ∧ c.ss = false ∧
      let va := c.get 1 + (0 : BitVec 16).signExtend 64
      Word.field va 63 56 = 1 ∧ Word.field va 55 24 = 0 ∧ va.toNat % 8 = 0 ∧
      Word.field va 17 0 + 8 = (withConductor c).spadSize 0 (Word.field va 23 18) ∧
      (withConductor c).clear 0 (.conductor 0) (withConductor c).nextTx (spadAccess va 8 true)) := by
  refine ⟨⟨rfl, rfl, full_writes, rfl⟩, { lead with x := [0, 0x010000000003FFF8] ++ List.replicate 30 0 }, rfl, rfl, rfl, ?_⟩
  decide +kernel

/-- A device whose rank 0 holds a facet that keeps 16 KiB of its SRAM as an L1. -/
def withL1 (c : Conductor) : State := { withConductor c with facets := [{ inst := 1, node := 0, misc := 2 }] }

/-- A device whose page at address 0 lies where `leaf` says, its first CXL.mem slice enabled. -/
def leafed (leaf : Word64) : State :=
  { withConductor { lead with x := List.replicate 32 0 } with
    tlb := [{ region := 0, ctx := 0, va := 0, size := 65536, leaf := leaf }], regs := { cxlwin := 1 :: List.replicate 7 0 } }

theorem witness_AtomicOutsideMemoryTraps :
    let c : Conductor := { lead with x := List.replicate 32 0 }
    (∃ m, amoOf (.amoAdd 5 1 2 true 0) = some m ∧ Word.field (c.get m.a) 63 56 = 0 ∧ (c.get m.a).toNat % m.n = 0) ∧
    let at' := fun (leaf pa : Nat) (p : Place) => (leafed (BitVec.ofNat 64 leaf)).executes c ∧
      (leafed (BitVec.ofNat 64 leaf)).translate 0 ((leafed (BitVec.ofNat 64 leaf)).ctxOf 0) 0 { write := true, sys := c.pl } = .ok pa ∧
      (leafed (BitVec.ofNat 64 leaf)).place pa = some p
    at' 0x1000000007B 0x10000000000 (.host 0x10000000000) ∧ at' 0x2000000007B 0x20000000000 (.cxl 0x20000000000) ∧
      at' 0xF000000007B 0xF0000000000 (.reg 0) := by
  refine ⟨⟨_, rfl, by decide, by decide⟩, ?_⟩
  and_intros <;> rfl

theorem witness_AmoOnScratchpad :
    let c := { lead with x := [0, 0x0100000000000010, 3] ++ List.replicate 29 0 }
    (∃ m, amoOf (.amoAdd 5 1 2 true 0) = some m ∧ m.n = 8 ∧ (withConductor c).executes c ∧ c.x.length = 32 ∧
      (withConductor c).reachesSpad (c.get m.a) m.n true 16 (some ((withConductor c).condScope 0 m.lvl.val)) ∧
      (withConductor c).spadPoisoned 16 m.n = false) ∧
    ∃ m, amoOf (.amoFadd 5 1 2 0) = some m ∧ m.n = 4 ∧
      (withConductor c).reachesSpad (c.get m.a) m.n true 16 (some ((withConductor c).condScope 0 m.lvl.val)) := by
  refine ⟨⟨_, rfl, rfl, rfl, rfl, ⟨by decide, by decide, by decide, by decide +kernel, rfl, Or.inr ?_⟩, by decide +kernel⟩,
    _, rfl, rfl, ⟨by decide, by decide, by decide, by decide +kernel, rfl, Or.inr ?_⟩⟩ <;> decide +kernel

theorem witness_BadAddressTraps :
    (addressed (.amoAdd 5 1 2 false 0) lead = some (7, 4) ∧ (7 : Word64).toNat % 4 ≠ 0) ∧
    (let on := fun (va : Word64) (p : Conductor → Prop) => ∃ c, (withL1 c).executes c ∧ addressed (.ldd 5 1 0) c = some (va, 8) ∧
        Word.field va 63 56 = 1 ∧ p c;
      on 0x0100000001000000 (fun _ => Word.field (0x0100000001000000 : Word64) 55 24 ≠ 0) ∧
      on 0x0100000000000004 (fun _ => Word.field (0x0100000000000004 : Word64) 55 24 = 0 ∧ (0x0100000000000004 : Word64).toNat % 8 ≠ 0) ∧
      on 0x010000000003FFF8 fun c => (0x010000000003FFF8 : Word64).toNat % 8 = 0 ∧
        (withL1 c).spadSize 0 (Word.field (0x010000000003FFF8 : Word64) 23 18) < Word.field (0x010000000003FFF8 : Word64) 17 0 + 8) ∧
    (dev.executes lead ∧ (∃ e, loadOf (.ldd 5 4 0) = some (8, e, 5, 4, 0)) ∧ 1 < Word.field (lead.get 4 + (0 : BitVec 16).signExtend 64) 63 56) ∧
    storeOf (.std 5 1 0) = some (8, 5, 1, 0) ∧ Word.field (lead.get 1 + (0 : BitVec 16).signExtend 64) 63 56 = 0 ∧
      (lead.get 1 + (0 : BitVec 16).signExtend 64).toNat % 8 ≠ 0 :=
  ⟨⟨by decide, by decide⟩, ⟨⟨{ lead with x := List.replicate 32 0x0100000001000000 }, rfl, rfl, by decide, by decide⟩,
      ⟨{ lead with x := List.replicate 32 0x0100000000000004 }, rfl, rfl, by decide, by decide⟩,
      { lead with x := List.replicate 32 0x010000000003FFF8 }, rfl, rfl, by decide, by decide, by decide +kernel⟩,
    ⟨rfl, ⟨_, rfl⟩, by decide⟩, rfl, by decide, by decide⟩

/-- R219: AMO.ADD.W of 7 to bytes 80 7F 00 00 gives the sum, and xd the old value; AMO.CAS that finds another value leaves it. -/
theorem test_atomics :
    after (.amoAdd 5 3 1 false 0) { full with mem := [(0x100020, 0x80)] } (fun t => (t.mem, (t.cond? 0).map fun c => c.get 5)) =
      some ([(0x100020, 0x87)], some 0x80) ∧
    after (.amoCas 5 3 1 true 0) { full with mem := [(0x100020, 0x80)] } (fun t => (t.mem, (t.cond? 0).map fun c => c.get 5)) =
      some ([(0x100020, 0x80)], some 0x80) := by decide +kernel

theorem witness_AmoReadsOldAndWritesNew : full.executes lead ∧ lead.x.length = 32 ∧
    (∃ m, amoOf (.amoCas 5 3 1 true 4) = some m ∧
      full.reaches lead (lead.get m.a) m.n true (some (full.condScope full.cur.region m.lvl.val)) 0x100020 ∧ full.poisoned 0x100020 m.n = false) ∧
    (∃ m, amoOf (.amoFadd 5 3 1 0) = some m ∧ m.n = 4) ∧ lead.ss = false :=
  ⟨rfl, rfl, ⟨_, rfl, ⟨by decide, by decide, 0x100020, by decide +kernel, by decide +kernel, by decide +kernel⟩, by decide +kernel⟩,
    ⟨_, rfl, rfl⟩, rfl⟩

/-! ### Traps, levels and system instructions -/

/-- R206, R208: TRAP saves pc and level, writes CAUSE with INFO in bits 31:16 and goes to TVEC; ERET goes back. -/
theorem test_trap_and_eret :
    after (.sysTrap 9) dev (fun t => (t.cond? 0).map fun c => (c.pc, c.epc, c.pl, c.ppl, c.cause)) =
      some (some (0x8000, 0x100, true, false, BitVec.ofNat 64 (9 * 65536 + causeCode .trapInsn))) ∧
    after .eret (withConductor { lead with pl := true, epc := 0x44 }) (fun t => (t.cond? 0).map fun c => (c.pc, c.pl)) =
      some (some (0x44, false)) := by decide +kernel

theorem witness_TrapsAndCompletionAreTaken : dev.cond? 0 = some lead ∧ dev.executes lead ∧ lead.pl = false ∧ lead.ss = false ∧
    (∃ c, (withConductor c).executes c ∧ c.pl = false ∧ c.ss = true) ∧ ∃ c, (withConductor c).executes c ∧ c.pl = true :=
  ⟨rfl, rfl, rfl, rfl, ⟨{ lead with ss := true }, rfl, rfl, rfl⟩, ⟨{}, rfl, rfl⟩⟩

theorem witness_EretReturnsAndTakesPendingFaults :
    (∃ c, (withConductor c).executes c ∧ c.pl = true ∧ c.handling = none ∧ c.pend = []) ∧
    (∃ c, (withConductor c).executes c ∧ c.pl = true ∧ c.handling = none ∧ c.ppl = true ∧ c.pend ≠ []) ∧
    ∀ h, ∃ c f fs, (withConductor c).executes c ∧ c.pl = true ∧ c.halted = h ∧ c.ppl = false ∧ c.pend = f :: fs :=
  ⟨⟨{}, rfl, rfl, rfl, rfl⟩, ⟨{ lead with pl := true, ppl := true, pend := [{ cause := .deadlock }] }, rfl, rfl, rfl, rfl, by decide⟩,
    fun h => ⟨{ lead with pl := true, pend := [{ cause := .deadlock }], halted := h }, _, _, rfl, rfl, rfl, rfl, rfl⟩⟩

theorem witness_SystemOnlyInstructionsTrapAtGraphLevel : dev.executes lead ∧ lead.pl = false ∧
    (∃ e, loadOf (.ldd 5 6 0) = some (8, e, 5, 6, 0)) ∧
    (∃ c, (withConductor c).executes c ∧ c.pl = false ∧ let va := c.get 6 + (0 : BitVec 16).signExtend 64
      Word.field va 63 56 = 0 ∧ va.toNat % 8 = 0 ∧
      (withConductor c).translate 0 ((withConductor c).ctxOf 0) va.toNat { write := false, sys := false } = .ok 0xF0000000000 ∧
      (withConductor c).place 0xF0000000000 = some (.reg 0)) ∧
    ∃ c, (withConductor c).executes c ∧ c.pl = true :=
  ⟨rfl, rfl, ⟨_, rfl⟩, ⟨{ lead with x := List.replicate 32 65536 }, rfl, rfl, by decide +kernel⟩, ⟨{}, rfl, rfl⟩⟩

/-- `lead` with an unmasked breakpoint at its pc, an instance-wide fault pending and a WFI waiting. -/
theorem witness_ConductorStepsOfTheDevice :
    (∃ c, (withConductor c).cond? 0 = some c ∧ c.pl = false ∧ c.bskip = false ∧ (withConductor c).matched 0 c = true) ∧
    (∀ h, ∃ c f fs, (withConductor c).cond? 0 = some c ∧ c.pl = false ∧ c.halted = h ∧ (withConductor c).accessBegun 0 c = false ∧
      c.pend = f :: fs) ∧
    (∃ c, (withConductor c).cond? 0 = some c ∧ c.pl = false ∧ (withConductor c).accessBegun 0 c = true) ∧
    ∃ c, (withConductor c).cond? 0 = some c ∧ c.wfi.isSome = true :=
  ⟨⟨{ lead with bkpta := 0x101 :: List.replicate 7 0 }, rfl, rfl, rfl, by decide +kernel⟩,
    fun h => ⟨{ lead with pend := [{ cause := .deadlock }], halted := h }, _, _, rfl, rfl, rfl, rfl, rfl⟩,
    ⟨{ lead with arrived := [default] }, rfl, rfl, rfl⟩, ⟨{ lead with wfi := some true }, rfl, rfl⟩⟩

/-- A remote access that conductor 0 has not had acknowledged. -/
def waiting : Txn := { tx := 1, issuer := .conductor 0, inst := 1, ctx := 0, flit := default, port := none, issued := 0, returns := false }

/-- A table walk of context 0 at die 3. -/
def walk0 : Walk := { die := 3, region := 144, ctx := 0, va := 0, need := { write := false } }

/-- Page tables in which context 0 sees all of the first gigabyte where it stands: a root at 0x200000 and one leaf at 0x300000. -/
def tables : List Host.Cell := [(0x200000, 1), (0x200002, 0x30), (0x300000, 0x7B)]

/-- A device with those tables, and an L2 that holds lines 1 and 5. -/
def mapped (c : Conductor) : State :=
  { withConductor c with
    mem := tables, ctxs := [{ id := 0, root := 0x200000 }]
    l2 := [⟨0, 0, 0, 1, 0xFF, 0, 0, false, 0, false⟩, ⟨0, 0, 1, 5, 0xFF, 0, 0, false, 0, false⟩] }

/-- That device, where the TLB of region 0 holds one page of a gigabyte with leaf `leaf`. -/
def pagedBy (leaf : Word64) (c : Conductor) : State := { mapped c with tlb := [{ region := 0, ctx := 0, va := 0, size := 2 ^ 30, leaf := leaf }] }

/-- The registers of retention range 15. -/
def ranged (rb rl : Word64) : State :=
  let s := withConductor { x := [0, 0x8000000000001000, 0x9000000000000000] ++ List.replicate 29 0 }
  { s with regs := { s.regs with l2rb := s.regs.l2rb.set 15 rb, l2rl := s.regs.l2rl.set 15 rl } }

theorem witness_FencesAndL2Controls :
    (dev.executes lead ∧ dev.unacked (Issuer.isConductor 0) = false) ∧
    ({ dev with txns := [waiting] } : State).unacked (Issuer.isConductor 0) = true ∧
    (∃ c, (withConductor c).executes c ∧ c.pl = true ∧ Word.field (c.get 1) 63 45 = 0 ∧ (withConductor c).txns = [] ∧
      (withConductor c).unacked (Issuer.isConductor 0) = false ∧ ∀ d < 4, (withConductor c).walksAt d = []) ∧
    (waiting.ctx.toNat = Word.field (0 : Word64) 43 32 ∧ (∃ w ∈ ({ dev with walksWaiting := [walk0] } : State).walksAt 3,
      w.ctx.toNat = Word.field (0 : Word64) 43 32)) ∧
    (let range := fun (rb rl : Word64) => ∃ c, (ranged rb rl).executes c ∧
        c.pl = true ∧ c.get 0 = 0 ∧ (ranged rb rl).regs.l2rb.length = 16 ∧ (ranged rb rl).regs.l2rl.length = 16 ∧
        (ranged rb rl).regs.l2rb.getD 15 0 = rb ∧ (ranged rb rl).regs.l2rl.getD 15 0 = rl ∧ Word.bit (c.get 1) 63 = true ∧
        Word.field (c.get 1) 62 60 = 0 ∧ Word.field (c.get 1) 43 40 = 0 ∧ Word.field (c.get 1) 39 12 = 1 ∧ Word.field (c.get 2) 62 60 ≠ 0 ∧
        (ranged rb rl).waysTotal ≤ 5;
      range 0 0 ∧ range 0 0x0000030000004000 ∧ range 0x8001000000000000 0) ∧
    let page := fun (leaf : Word64) => ∃ c, (pagedBy leaf c).executes c ∧ (c.get 2).toNat ≠ 0 ∧ (c.get 0).toNat = 0 ∧
      (c.get 1).toNat % 65536 + (c.get 2).toNat ≤ 65536 ∧ (c.get 1).toNat < 2 ^ 56 ∧
      (pagedBy leaf c).tlbLeaf 0 ((pagedBy leaf c).ctxOf 0) (c.get 1).toNat = some (leaf, 0) ∧
      ({ pagedBy leaf c with tlb := [] } : State).tlbLeaf 0 ((pagedBy leaf c).ctxOf 0) (c.get 1).toNat = none ∧
      pteV leaf.toNat = (leaf != 0) ∧ forbids leaf.toNat { write := true, sys := c.pl } = (leaf != 0x7B) ∧
      (pagedBy leaf c).place (pteAddr leaf.toNat + (c.get 1).toNat) = some (.hbm 1024)
    page 0 ∧ page 0x7B ∧ page 0x73 := by
  refine ⟨⟨rfl, rfl⟩, by decide +kernel, ⟨{}, rfl, rfl, by decide, rfl, rfl, by decide +kernel⟩, by decide +kernel, ⟨?_, ?_, ?_⟩, ?_, ?_, ?_⟩
  iterate 3
    · refine ⟨{ x := [0, 0x8000000000001000, 0x9000000000000000] ++ List.replicate 29 0 }, rfl, rfl, rfl, ?_⟩
      decide +kernel
  iterate 3
    · refine ⟨{ lead with x := [0, 1024, 64512] ++ List.replicate 29 0 }, rfl, ?_⟩
      decide +kernel

/-- R220: FENCE.REL of a conductor with a store unacknowledged waits; R223: WBINV over line 1 leaves line 5. R222: SETRB with WAYS = 3 takes
the ways 11 to 9, with FIRSTWAY 11. -/
theorem test_fence_waits : after (.fenceRel 0) { dev with txns := [waiting] } (fun t => (t.cond? 0).map Conductor.pc) = some (some 0x100) ∧
    after (.l2ctlWbinv 1 2) (pagedBy 0x7B { lead with x := [0, 1024, 1] ++ List.replicate 29 0 }) (fun t => t.l2.map L2Line.line) = some [5] ∧
    after (.l2ctlSetrb 1 0 15) (ranged 0 0x0000030000004000) (fun t => t.regs.l2rb.getD 15 0) = some 0x8E00B00000001000 := by
  decide +kernel

theorem witness_SystemRegistersAreReadAndWritten :
    (dev.executes lead ∧ dev.sysReg 0 lead 0x44 = none ∧ (∃ v, dev.sysReg 0 lead 0x10 = some v) ∧ (∃ v, dev.sysReg 0 lead 0x43 = some v)) ∧
    ∃ c, (withConductor c).executes c ∧ c.pl = true ∧ c.bkpta.length = 8 ∧ c.bkptc.length = 8 ∧ (∃ v, (withConductor c).sysReg 0 c 0x5F = some v) ∧
      Word.field (c.get 0) 4 0 < 6 ∧ 16 < Word.field (c.get 1) 4 0 ∧ Word.field (c.get 0) 9 0 < 1 ∧ 1000 < Word.field (c.get 2) 9 0 := by
  refine ⟨⟨rfl, rfl, ⟨_, rfl⟩, ⟨_, rfl⟩⟩, { lead with pl := true, x := [0, 17, 1001] ++ List.replicate 29 0 }, rfl, rfl, rfl, rfl, ⟨_, rfl⟩, ?_⟩
  decide

/-- R226: a write of all ones to STATUS sets BSKIP and PPL and keeps PL; TVEC drops bits 1:0; MFS of an unknown number is ILLEGAL. -/
theorem test_system_registers :
    after (.mts 2 4) (withConductor { lead with pl := true, x := List.replicate 32 (-1) }) (fun t => (t.cond? 0).map Conductor.tvec) =
      some (some (-4)) ∧
    after (.mfs 5 0x7FF) dev (fun t => (t.cond? 0).map Conductor.cause) = some (some (BitVec.ofNat 64 (causeCode .illegal))) := by decide +kernel

/-- A DATA token of payload 9 with SEQ 4, and the same poisoned. -/
def tok : Token := { payload := 9, side := 0x40000 }
def badTok : Token := { tok with side := 0x40010 }

/-- A lead conductor of instance 1 with consumer port 7 (`ts` waiting) and producer port 7 (`n` entries held). -/
def porter (ts : List Token) (n : Nat) : Conductor :=
  { lead with
    inst := some 1, cports := [{ port := 7, toks := ts, lastSeq := some 3 }], pports := [{ port := 7, entries := List.replicate n ⟨tok, 1⟩ }] }

theorem witness_TokensOfTheLeadConductor :
    (∀ ts ∈ [[], [tok], [badTok]], ∀ n ∈ [0, 3, 4], let c := porter ts n
      (withConductor c).executes c ∧ c.x.length = 32 ∧ c.lead = true ∧ c.ss = false ∧ (c.get 1).toNat ≤ 4095 ∧
      c.cports.find? (fun q => q.port == (c.get 1).toNat) = some { port := 7, toks := ts, lastSeq := some 3 } ∧
      c.pports.find? (fun q => q.port == (c.get 1).toNat) = some { port := 7, entries := List.replicate n ⟨tok, 1⟩ }) ∧
    tok.psn = false ∧ badTok.psn = true := by
  refine ⟨fun ts _ n _ => ⟨rfl, rfl, rfl, rfl, show 7 ≤ 4095 by decide, rfl, rfl⟩, by decide, by decide⟩

/-- R228, R229: TOKIN gives the payload; TOKTRY of an empty port gives 0; TOKOUT emits under TOKOSB and raises its SEQ. -/
theorem test_tokens :
    after (.tokin 5 1) (withConductor (porter [tok] 0)) (fun t => (t.cond? 0).map fun c => (c.get 5, c.toksb)) = some (some (9, 0x40000)) ∧
    after (.tokout 1 3) (withConductor (porter [] 0)) (fun t => (t.cond? 0).map fun c =>
      (c.pports.map fun p => p.entries.map fun e => e.tok.payload, c.tokosb)) = some (some ([[0x20]], 0x10000)) := by decide +kernel

/-! ### Instances -/

/-- Instance 1 of context 0 on region 0, with an image of one facet node and a level table of one entry. -/
def inst1 : Inst :=
  { id := 1, ctx := 0, part := 0, queue := 0, packet := List.replicate 64 0, regions := [0]
    image := { nodes := [⟨0, 0, 0, List.replicate 512 0⟩], levels := [0] } }

/-- A device that runs `i` in region 0 with conductor 0 as given. -/
def withInst (c : Conductor) (i : Inst) : State :=
  { withConductor c with insts := [i], queues := [{ num := 0, timer := 5, state := 1 }], parts := [{ id := 0, quads := 1 }] }

/-- `lead` in instance 1. -/
def led : Conductor := { lead with inst := some 1 }

/-- A versioned arc from facet 0 to consumer port 7 of the lead conductor, and one without versions. -/
def versioned : ArcSt := { inst := 1, idx := 0, word := 0x10000400070000 }
def unversioned : ArcSt := { inst := 1, idx := 0, word := 0x10000000070000 }

theorem witness_SysInstructionsHaveTheirEffects :
    (∃ c, (withConductor c).executes c ∧ c.wfi = some true) ∧ (∃ c, (withConductor c).executes c ∧ c.wfi = some false) ∧
    (dev.executes lead ∧ (lead.get 1).toNat ≠ 0 ∧ dev.unacked (Issuer.isConductor 0) = false) ∧
    ((withInst led inst1).executes led ∧ (withInst led inst1).instOf 0 = some inst1) ∧
    (∀ a ∈ [versioned, unversioned], let c := porter [] 0
      let s := { withInst c inst1 with arcs := [a] }
      s.executes c ∧ c.lead = true ∧ c.cports.find? (fun q => q.port == (7 : BitVec 6).toNat) = some { port := 7, lastSeq := some 3 } ∧
      s.arcInto (c.inst.getD 0) true 7 0 = some a) ∧ versioned.vs = true ∧ unversioned.vs = false ∧
    (dev.executes lead ∧ lead.pl = false ∧ lead.ss = false ∧ lead.lead = false) ∧
    (∀ n ∈ [3, 4], (withConductor (porter [] n)).executes (porter [] n) ∧ (porter [] n).pl = false ∧ (porter [] n).ss = false ∧
      (porter [] n).lead = true ∧ (porter [] n).pports = [{ port := 7, entries := List.replicate n ⟨tok, 1⟩ }]) ∧
    (let c := { porter [] 3 with pports := [{ port := 7, entries := List.replicate 3 ⟨tok, 1⟩ }, { port := 9 }] };
      (c.pports.map PPort.port).Nodup ∧ ∀ q ∈ c.pports, q.entries.length < 4) ∧
    (let hit := fun (l : TextLine) => l.ctx = dev.ctxOf 0 ∧ l.va < (lead.get 1).toNat + (lead.get 3).toNat ∧ (lead.get 1).toNat < l.va + l.bytes.length;
      hit ⟨0, 0, List.replicate 128 0, false⟩ ∧ ¬hit ⟨1, 0, List.replicate 128 0, false⟩ ∧ ¬hit ⟨0, 128, List.replicate 128 0, false⟩) := by
  refine ⟨⟨{ lead with wfi := some true }, rfl, rfl⟩, ⟨{ lead with wfi := some false }, rfl, rfl⟩, ⟨rfl, by decide, rfl⟩, ⟨rfl, rfl⟩, ?_,
    by decide, by decide, ⟨rfl, rfl, rfl, rfl⟩, fun n _ => ⟨rfl, rfl, rfl, rfl, rfl⟩, by decide, by decide +kernel⟩
  intro a ha
  simp only [List.mem_cons, List.not_mem_nil, or_false] at ha
  rcases ha with rfl | rfl <;> exact ⟨rfl, rfl, rfl, by decide⟩

/-- R267: CEASE of the lead conductor sends its port's last SEQ; R242: BEAT restarts the timer of the queue. -/
theorem test_sys :
    after (.sysCease 7) { withInst (porter [] 0) inst1 with arcs := [versioned] } (fun t => t.ceases.map CeaseTok.seq) = some [3] ∧
    after (.sysBeat 0) (withInst led inst1) (fun t => t.queues.map Queue.timer) = some [0] ∧
    after (.layver 5) (withInst led inst1) (fun t => (t.cond? 0).map fun c => c.get 5) = some (some 1) := by decide +kernel

theorem witness_LayverReadsTheLayoutVersion : (withInst led inst1).executes led ∧ (withInst led inst1).instOf 0 = some inst1 := ⟨rfl, rfl⟩

/-! ### Configurations, layouts and launches -/

/-- What an operation ended with, from a check that can be evaluated. -/
theorem okWith {α : Type} {r : Acc α} {P : State → α → Prop} [∀ s x, Decidable (P s x)]
    (h : (match r with
      | .ok s x => decide (P s x)
      | _ => false) = true) : ∃ s x, r = .ok s x ∧ P s x := by
  cases r with
  | ok s x => exact ⟨s, x, rfl, of_decide_eq_true h⟩
  | _ => simp at h

/-- An image of one streamer node and no arcs (R149 to R151, R291), 0x100 bytes long. -/
def imageBytes : List Byte :=
  let le := Word.toBytes
  le 4 0x49475243 ++ le 2 1 ++ [2, 0xFF] ++ le 4 0x100 ++ le 2 1 ++ le 2 1 ++ le 4 0 ++ le 4 0x90 ++ le 4 0xA0 ++ le 4 0x80 ++
    le 4 0xA0 ++ le 4 0 ++ le 4 0 ++ le 4 0xA0 ++ le 4 0 ++ le 4 0 ++ List.replicate 72 0 ++
    List.replicate 16 0 ++ le 4 0xC0 ++ le 4 0x40 ++ [2] ++ List.replicate 7 0 ++ List.replicate 96 0

/-- A lead conductor with 0x1000 in x1, 1 in x2 and 3 in x3, at system level. -/
def loader : Conductor := { led with pl := true, x := [0, 0x1000, 1, 3] ++ List.replicate 28 0 }

/-- An instance whose stage 1 holds the image it runs, and stage 0 none. -/
def staged : Inst := { inst1 with image := {}, stages := [none, some ({}, 0), none, none] }

/-- A device with the image in memory, running `i`. -/
def withImage (i : Inst) : State := { withInst loader i with mem := Memory.writeN [] 0x101000 imageBytes }

/-- A streamer node of instance 1 that has not finished, which keeps its configuration active. -/
def node0 : EngineNode := { inst := 1, node := 0, isChord := false, region := 0, unit := 0 }

theorem witness_ConfigurationIsStagedAndStarted :
    ((withImage staged).executes loader ∧ loader.lead = true ∧ (withImage staged).instOf 0 = some staged) ∧
    (∃ i, (withImage i).executes loader ∧ (withImage i).instOf 0 = some i ∧ ∀ k, k < 4 → i.stages.getD k none ≠ none) ∧
    (∃ s' x, (withImage staged).readImage (readerOf ((withImage staged).condActor 0 loader)) 0 false 0x1000 = .ok s' x ∧
      (x.spillSize = 0 ∧ loader.get 0 = 0 ∧ x.codeSize = 0 ∧
        s'.refusedImage 0 (fun _ => (withImage staged).handles.filter fun h => h.inst == 1) [0] x 0 = none)) ∧
    ((withImage staged).slotKey 0 = none ∧ staged.stages.getD 0 none = none ∧ (loader.get 2).toNat < 4 ∧
      staged.stages.getD 1 none = some ({}, 0) ∧ (withImage staged).configActive 1 = false ∧
      (((withImage staged).modInst 1 fun i => { i with stages := i.stages.set 1 none }).startImage 1 (({} : Image).underLaunch {}) 0).isSome = true ∧
      ({} : Image).replaces {} = true) ∧
    (let big : Image := { nodes := List.replicate 65 ⟨0, 0, 0, List.replicate 512 0⟩, levels := [0] };
      let i := { staged with stages := [none, some (big, 0), none, none] };
      (withImage i).configActive 1 = false ∧
      ((withImage i).modInst 1 fun i => { i with stages := i.stages.set 1 none }).startImage 1 (big.underLaunch {}) 0 = none) ∧
    (let s := { withImage staged with engines := [node0] };
      s.instOf 0 = some staged ∧ s.configActive 1 = true ∧ staged.ctl.wave = none) := by
  refine ⟨⟨rfl, rfl, rfl⟩, ⟨{ staged with stages := List.replicate 4 (some ({}, 0)) }, rfl, rfl, by decide⟩, ?_, ?_, ?_, ?_⟩
  · exact okWith (by decide +kernel)
  · decide +kernel
  · decide +kernel
  · decide +kernel

/-- A facet node of instance 1, at region 0 and rank 0, whose every slot is a NOP. -/
def unit0 : FacetUnit := { inst := 1, node := 0 }

/-- A wavefront that node 0 is to be reached by, whose clone 0 stood, folded, at rank 3 of region 0. -/
def wave0 : Wave := { change := .clone 0 2, affected := [0], stood := [⟨0, 0, 0, 3, true⟩] }

theorem witness_LayoutIsSteeredAndRead :
    (∀ c ∈ [led, { led with x := List.replicate 32 9 }, { led with x := List.replicate 32 0x8000 }], (withInst c inst1).executes c ∧
      (withInst c inst1).instOf 0 = some inst1) ∧
    (Word.field ((0 : Word64)) 11 0 < inst1.image.nodes.length ∧ Word.field ((0 : Word64)) 11 0 < inst1.image.levels.length ∧
      Word.field ((8 : Word64)) 3 0 ≤ 8 ∧ 8 < Word.field ((9 : Word64)) 3 0 ∧ inst1.image.levels.length ≤ Word.field ((1 : Word64)) 11 0 ∧
      Word.field ((0x8000 : Word64)) 63 15 ≠ 0) ∧
    (let i := { inst1 with ctl := { wave := some wave0 } };
      (withInst led i).instOf 0 = some i ∧ i.ctl.wave = some wave0 ∧ wave0.stood.find? (fun x => x.node == 0 && x.clone == 0) = some ⟨0, 0, 0, 3, true⟩ ∧
      (withInst led i).whereIs i 0 0 = some (0, 3, true) ∧ (withInst led i).whereIs i 0 1 = none ∧ ∃ m ∈ wave0.affected, within i.image.levels 0 (i.sub m) = true) ∧
    (let i := { inst1 with image := { nodes := [⟨0, 0, 0, List.replicate 512 0⟩], levels := [0, 0] }, ctl := { wave := some wave0 } };
      (withInst led i).instOf 0 = some i ∧ 1 < i.image.levels.length ∧ ∀ m ∈ wave0.affected, within i.image.levels 1 (i.sub m) = false) ∧
    (let s := { withInst led inst1 with facets := [unit0] };
      s.facet? 1 0 0 0 = some unit0 ∧ inst1.image.kindOf 0 = some 0 ∧ s.clonesAt inst1 0 ≤ 8 ∧ inst1.winDone = 0 ∧ inst1.ctl.wave = none) ∧
    (let i := { inst1 with winDone := 1 };
      let s := { withInst led i with facets := [unit0] };
      s.instOf 0 = some i ∧ s.facet? 1 0 0 0 = some unit0 ∧ 0 < i.winDone) := by
  refine ⟨?_, by decide, ⟨rfl, rfl, by decide +kernel, by decide +kernel, by decide +kernel, 0, by decide, by decide⟩, by decide +kernel, by decide +kernel, by decide +kernel⟩
  intro c hc
  simp only [List.mem_cons, List.not_mem_nil, or_false] at hc
  rcases hc with rfl | rfl | rfl <;> exact ⟨rfl, rfl⟩

/-- R236, R238: REWIRE HINT of 2 clones is kept; LAYQ of node 0 gives version 1, no clones beyond one and bit 0 set. -/
theorem test_layout :
    after (.rewireHint 5 0 2) (withInst { led with x := [0, 0, 2] ++ List.replicate 29 0 } inst1) (fun t => t.insts.map fun i => i.ctl.hints) =
      some [[(0, 2)]] ∧
    after (.layq 5 0) { withInst led inst1 with facets := [unit0] } (fun t => (t.cond? 0).map fun c => c.get 5) =
      some (some 0x100000001) := by decide +kernel

/-- A LAUNCH packet (TYPE 1) at 0x1000. -/
def launchState (pool : List PoolEntry) (quota : Nat) : State :=
  { withInst { loader with pl := false } inst1 with
    mem := [(0x101000, 1)], ctxs := [{ id := 0, quota := quota }], pool := pool }

def entry0 : PoolEntry := { queue := 0, ctx := 0, packet := [] }

/-- What LAUNCH of the packet at 0x1000 to queue 0 needs. -/
def launchNeeds (s : State) (all mine quota : Nat) : Prop :=
  (∃ c q, s.executes c ∧ s.queue? (c.get 0).toNat = some q ∧ q.ctx = s.ctxOf 0 ∧ (c.get 1).toNat % 64 = 0 ∧
    ∃ s' bs, s.condLoad 0 c (c.get 1) 64 = .ok s' bs ∧ (fieldAt bs 0 1 = 1 ∧ s'.pool.length + s'.poolGone.length = all ∧
      (s'.pool.filter fun e => e.ctx == q.ctx).length + (s'.poolGone.filter fun x => x == q.ctx).length = mine ∧
      ((s'.context? q.ctx).map Context.quota).getD 0 = quota))

theorem witness_LaunchIsRefused :
    (∃ c, (launchState [] 4).executes c ∧ (launchState [] 4).queue? (c.get 3).toNat = none) ∧
    (∃ c q, (withInst { led with inst := some 1 } { inst1 with ctx := 5 }).executes c ∧
      (withInst { led with inst := some 1 } { inst1 with ctx := 5 }).queue? (c.get 0).toNat = some q ∧
      q.ctx ≠ (withInst { led with inst := some 1 } { inst1 with ctx := 5 }).ctxOf 0) ∧
    (∃ c q, (launchState [] 4).executes c ∧ (launchState [] 4).queue? (c.get 0).toNat = some q ∧ q.ctx = (launchState [] 4).ctxOf 0 ∧
      (c.get 3).toNat % 64 ≠ 0) ∧
    ∃ c q, (launchState [] 4).executes c ∧ (launchState [] 4).queue? (c.get 0).toNat = some q ∧ q.ctx = (launchState [] 4).ctxOf 0 ∧
      (c.get 0).toNat % 64 = 0 ∧ ∃ s' bs, (launchState [] 4).condLoad 0 c (c.get 0) 64 = .ok s' bs ∧ fieldAt bs 0 1 ≠ 1 := by
  refine ⟨⟨_, rfl, by decide +kernel⟩, ⟨_, _, rfl, rfl, by decide +kernel⟩, ⟨_, _, rfl, rfl, rfl, by decide⟩, ⟨_, _, rfl, rfl, rfl, by decide, ?_⟩⟩
  exact okWith (by decide +kernel)

theorem witness_ImageIsStarted :
    (let s := withInst led inst1;
      s.inst? 1 = some inst1 ∧ (inst1.image.place (s.room (s.handles.filter fun h => h.inst == 1)) [0]).toOption.isSome = true ∧
      (s.startImage 1 inst1.image 0).isSome = true) ∧
    (let i := { inst1 with image := { nodes := List.replicate 65 ⟨0, 0, 0, List.replicate 512 0⟩, levels := [0] } };
      let s := withInst led i
      s.inst? 1 = some i ∧ (i.image.place (s.room (s.handles.filter fun h => h.inst == 1)) [0]).toOption.isSome = false) := by
  and_intros <;> decide +kernel

/-- Spill areas of two pages, one that is mapped and one that is not. -/
theorem witness_SpillPagesAreHeld :
    (mapped led).pinSpill 0 { spillSize := 131072 } 0x10000000000 = none ∧
    ((mapped led).pinSpill 0 { spillSize := 131072 } 0x10000).isSome = true ∧ ∀ y ∈ (mapped led).l2, y.bad = false := by decide +kernel

theorem witness_WavefrontBegins :
    let s := { withInst led inst1 with arcs := [versioned, { unversioned with idx := 1 }] }
    s.inst? 1 = some inst1 ∧ (s.arcs.map fun a => (a.inst, a.idx)).Nodup := by decide +kernel

theorem witness_LaunchEntersThePool : launchNeeds (launchState (List.replicate 4096 entry0) 4097) 4096 4096 4097 ∧
    launchNeeds { launchState (List.replicate 4094 entry0) 4096 with poolGone := [0] } 4095 4095 4096 ∧
    launchNeeds { launchState [entry0] 2 with poolGone := [0] } 2 2 2 ∧ launchNeeds (launchState [entry0] 2) 1 1 2 := by
  refine ⟨⟨_, _, rfl, rfl, rfl, rfl, ?_⟩, ⟨_, _, rfl, rfl, rfl, rfl, ?_⟩, ⟨_, _, rfl, rfl, rfl, rfl, ?_⟩, ⟨_, _, rfl, rfl, rfl, rfl, ?_⟩⟩ <;>
    exact okWith (by decide +kernel)

/-- R240: a launch into an empty pool gives 0 and one entry more; at the quota it gives 2. -/
theorem test_launch :
    after (.launch 5 1 0) (launchState [] 1) (fun t => (t.pool.length, (t.cond? 0).map fun c => c.get 5)) = some (1, some 0) ∧
    after (.launch 5 1 0) (launchState [entry0] 1) (fun t => (t.pool.length, (t.cond? 0).map fun c => c.get 5)) = some (1, some 2) := by
  decide +kernel

/-! ### Streams, handles, tiles and chords from a conductor -/

/-- Handle 0 of region 0: two slots of 16 bytes, slot 0 in state `st` and slot 1 FREE, and `y` the record of slot 0. -/
def hand (st : SlotState) (y : PeerRec) : Handle :=
  { region := 0, num := 0, inst := 1, ctx := 0, rw := true, bytes := 16, peer := 5, slots := [{ state := st }, {}], recs := [y, {}] }

/-- A valid record of a slot of device 1, for puts of up to 64 bytes. -/
def peer1 : PeerRec := { valid := true, target := 1, ztag := 0x77, rbytes := 64 }

/-- Instance 1 at region 0 with `h`, `cs` in streamer 0, 16 at byte 12 of address 0x1000, and a way to device 1. -/
def withHandle (h : Handle) (cs : List StreamCmd) : State :=
  { withInst { loader with pl := false } inst1 with
    mem := [(0x10100C, 16)], handles := [h], streams := [(0, 0, cs)], clk := 1, regs := { domrt := [(1, 1)] } }

/-- What STRM and STRMST of the descriptor at 0x1000 into slot 0 of handle 0 need. -/
def strmNeeds (s : State) (store : Bool) (ready : Prop) : Prop :=
  ∃ c, s.executes c ∧ (c.get 0).toNat < 0x1000 ∧ ∃ s' bs, s.readBlock (s.condActor 0 c) (c.get 1) 64 true = .ok s' bs ∧
    (Word.field (c.get 0) 7 0 = 0 ∧ (∃ h ∈ s.handles, s'.handleFor 0 0 (s.ctxOf 0) = some h ∧ 0 < h.slots.length ∧
      (Desc.ofBytes bs).bad store = false ∧ (Desc.ofBytes bs).mc = false ∧ (Desc.ofBytes bs).kind = 0 ∧ (Desc.ofBytes bs).need = h.bytes) ∧
      ready)

theorem witness_StreamCommandsAreQueued :
    (∀ n ∈ [0, 15, 16], strmNeeds (withHandle (hand .free {}) (List.replicate n default)) false
        (((hand .free {}).slot 0).state = .free) ∧ ((withHandle (hand .free {}) (List.replicate n default)).stream 0 0).length = n) ∧
    strmNeeds (withHandle (hand .full {}) []) false (((hand .full {}).slot 0).state ≠ .free) ∧
    strmNeeds (withHandle (hand .full {}) []) true (((hand .full {}).slot 0).state = .full) ∧
    strmNeeds (withHandle (hand .free {}) []) true (((hand .free {}).slot 0).state ≠ .full) := by
  refine ⟨?_, ⟨_, rfl, by decide, okWith (by decide +kernel)⟩, ⟨_, rfl, by decide, okWith (by decide +kernel)⟩,
    ⟨_, rfl, by decide, okWith (by decide +kernel)⟩⟩
  intro n hn
  simp only [List.mem_cons, List.not_mem_nil, or_false] at hn
  rcases hn with rfl | rfl | rfl <;> exact ⟨⟨_, rfl, by decide, okWith (by decide +kernel)⟩, by decide +kernel⟩

/-- R289, R283: STRM into a FREE slot gives 0 and leaves it FILLING; R231: WAITH of a FULL slot gives its word. -/
theorem test_stream_and_waith :
    after (.strm 5 1 0) (withHandle (hand .free {}) []) (fun t => ((t.cond? 0).map fun c => c.get 5, t.handles.map fun h => (h.slot 0).state,
      (t.stream 0 0).length)) = some (some 0, [.filling], 1) ∧
    after (.waith 5 0 0 .full) (withHandle (hand .full {}) []) (fun t => (t.cond? 0).map fun c => c.get 5) = some (some 3) := by decide +kernel

theorem witness_WaithWaitsForTheState :
    (∃ c, (withConductor c).executes c ∧ 255 < (c.get 1).toNat ∧ (c.get 2).toNat ≤ 255 ∧
      (withConductor c).handleFor 0 (c.get 2).toNat ((withConductor c).ctxOf 0) = none) ∧
    (let s := { withHandle (hand .full {}) [] with sup := List.replicate 32 { state := 2 } };
      ∃ c, s.executes c ∧ (c.get 0).toNat ≤ 255 ∧ s.handleFor 0 (c.get 0).toNat (s.ctxOf 0) = some (hand .full {}) ∧
      (hand .full {}).slots.length ≤ (c.get 3).toNat ∧ (c.get 2).toNat < (hand .full {}).slots.length ∧
      ((hand .full {}).slot (c.get 2).toNat).state ≠ .full ∧ (c.get 0).toNat < (hand .full {}).slots.length ∧
      (hand .full {}).slots.length ≤ 16 ∧ ((hand .full {}).slot (c.get 0).toNat).state = .full ∧
      ((hand .full {}).slot 0).wptr < 2 ^ 32 ∧ (hand .full {}).fmt < 16) :=
  ⟨⟨{ lead with x := [0, 256, 255] ++ List.replicate 29 0 }, rfl, by decide, by decide, by decide +kernel⟩,
    ⟨_, rfl, by decide, by decide +kernel⟩⟩

/-- An island node of instance 1 at island 0 of region 0. -/
def island0 : IslandUnit := { inst := 1, node := 0, region := 0, isl := 0 }

/-- A device that runs instance 1 with that island and with handle `h`. -/
def withIsland (u : IslandUnit) (h : Handle) : State := { withHandle h [] with islands := [u] }

theorem witness_IslandRegistersAreReadAndWritten :
    let s := withIsland island0 (hand .free {})
    (∃ c, s.executes c ∧ Word.field (c.get 0) 63 17 = 0 ∧ Word.bit (c.get 0) 16 = false ∧ Word.field (c.get 0) 15 13 = 0 ∧
      (s.islands.find? fun u => some u.inst == c.inst && u.node == Word.field (c.get 0) 11 0) = some island0 ∧
      (s.islands.find? fun u => some u.inst == c.inst && u.node == Word.field (c.get 2) 11 0) = none) ∧
    Word.bit (0x10000 : Word64) 16 = true ∧ island0.tiles.length = 2 ∧ (wordRefused 0 0x8000000000000000 = true ∧ wordRefused 0 0 = false) ∧
    5 ≤ Word.field (0xA000 : Word64) 15 13 ∧ Word.field (0x8000 : Word64) 15 13 < 5 ∧ wordRefused 4 0 = false ∧ wordRefused 2 0 = false ∧
    pregRefused 0 = true ∧ pregRefused 0x3084 = false ∧ pregRefused 0x10000000 = true :=
  ⟨⟨{ loader with pl := false }, rfl, by decide, by decide, by decide, by decide +kernel, by decide +kernel⟩, by decide +kernel⟩

/-- R252, R81, R278: PRSET gives the register and writes it from the next clk on; a value it does not take raises RESERVED_FIELD. -/
theorem test_prset :
    after (.prset 5 0 1) (withIsland island0 (hand .free {})) (fun t => (t.islands.map fun u => u.writes, (t.cond? 0).map fun c => c.cause)) =
      some ([[]], some (BitVec.ofNat 64 (causeCode .reservedField))) ∧
    after (.prset 5 0 2) { withIsland island0 (hand .free {}) with
        conds := { led with x := [0, 0, 0x2085] ++ List.replicate 29 0 } :: List.replicate 191 {} }
      (fun t => (t.islands.map fun u => ((u.tile 0).preg, (u.clockEdge.tile 0).preg), (t.cond? 0).map fun c => c.get 5)) =
      some ([(0x3084, 0x2085)], some 0x3084) := by decide +kernel

/-- A record that sends, and one that has been invalidated. -/
def sending : PeerRec := { peer1 with status := 1 }

theorem witness_PutStartsSending :
    (∀ y ∈ [sending, peer1, {}], ∀ st ∈ [SlotState.full, .free], let h := hand st y
      let s := withHandle h []
      s.handle? h.region h.num = some h ∧ 0 < h.slots.length ∧ 0 < h.recs.length ∧ s.inst? h.inst = some inst1 ∧
      inst1.image.routeVa = none ∧ s.reachable routeDefault peer1.target = true ∧
      ((s.chord 0).puts.filter fun p => s.running p.inst).length < 40) ∧
    Word.field sending.status 1 0 = 1 ∧ Word.field peer1.status 1 0 ≠ 1 ∧ peer1.valid = true ∧ ({} : PeerRec).valid = false ∧
    (48 % 16 = 0 ∧ 48 < 64 ∧ 64 ≤ peer1.rbytes) := by decide +kernel

/-- R299: LZSEND's put of slot 0 to device 1 is queued as SENDING, with the slot DRAINING. -/
theorem test_put : (match (withHandle (hand .full peer1) []).put (dev.condActor 0 lead) (.conductor 0) 0 (hand .full peer1) 0 true 0 0 16 with
    | .status t k => (k, (t.chord 0).puts.map Put.fin, t.handles.map fun h => (h.slot 0).state)
    | _ => (9, [], [])) = (0, [16], [.draining]) := by decide +kernel

/-- An answered reservation of slot 0 by conductor 0, and one not answered. -/
def resv (z : Option Word64) : Resv :=
  { tx := 1, inst := 1, region := 0, handle := 0, slot := 0, issuer := .conductor 0, target := 1, route := 0, timeout := 50, answer := z }

theorem witness_ChordInstructionsOfTheConductor :
    (let s := withHandle (hand .full peer1) [];
      ∃ c, s.executes c ∧ Word.field (c.get 0) 63 12 = 0 ∧ s.handleFor 0 (Word.field (c.get 0) 7 0) (s.ctxOf 0) = some (hand .full peer1) ∧
      Word.field (c.get 0) 11 8 < (hand .full peer1).slots.length ∧ ∃ s' bs, s.condLoad 0 c (c.get 1) 16 = .ok s' bs ∧
        (fieldAt bs 12 4 % 16 = 0 ∧ (match s'.put (s'.condActor 0 c) (.conductor 0) (engineOf 0) (hand .full peer1) 0 false (fieldAt bs 0 8)
          (fieldAt bs 8 4) (fieldAt bs 8 4 + fieldAt bs 12 4) with
            | .status _ st => decide (st = 0)
            | _ => false) = true)) ∧
    (∀ v ∈ [none, some (resv none), some (resv (some 5))], let s := { withHandle (hand .full peer1) [] with resvs := v.toList }
      s.handleFor 0 0 (s.ctxOf 0) = some (hand .full peer1) ∧ (s.resvs.find? fun v => v.issuer == .conductor 0 && v.region == 0 && v.handle == 0 && v.slot == 0) = v) ∧
    (let s := { withHandle (hand .full {}) [] with sup := List.replicate 32 { state := 2 } };
      s.resvs.find? (fun v => v.issuer == .conductor 0 && v.region == 0 && v.handle == 0 && v.slot == 0) = none ∧
      s.heldBack (s.behindNow (.conductor 0)) = false ∧ s.reachable routeDefault 1 = true ∧ (s.firstPort routeDefault).isSome = true) ∧
    (targetBad 1 = false ∧ targetBad 0 = false ∧ ((hand .full peer1).record 0).valid = true ∧ ((hand .full {}).record 0).valid = false) ∧
    (∀ h ∈ [hand .aborted peer1, hand .full {}, { hand .full peer1 with rw := false }], let s := withHandle h []
      s.handleFor 0 0 (s.ctxOf 0) = some h ∧ s.handle? h.region h.num = some h ∧ s.inst? h.inst = some inst1) ∧
    (let v : Resv := { resv (some (answerWord 0x77 64 0)) with issuer := .hub };
      let s := { withHandle (hand .full peer1) [] with resvs := [v] }
      s.resvs.find? (fun v => v.issuer == .conductor 0 && v.region == 0 && v.handle == 0 && v.slot == 0) = none ∧
      s.grantKept (hand .full peer1) 0 = some (v, answerWord 0x77 64 0) ∧ (withHandle (hand .full peer1) []).grantKept (hand .full peer1) 0 = none) ∧
    inst1.image.routeVa = none := by
  refine ⟨⟨_, rfl, by decide, by decide +kernel, by decide, okWith (by decide +kernel)⟩, by decide +kernel⟩

/-- R302: LZCTL CLEAR of an ABORTED slot brings it to RESERVED and gives 0; RELEASE of a record that is not valid gives 1. -/
theorem test_lzctl :
    after (.lzctlClear 5 0 0) (withHandle (hand .aborted {}) []) (fun t => (t.handles.map fun h => (h.slot 0).state, (t.cond? 0).map fun c => c.get 5)) =
      some ([.reserved], some 0) ∧
    after (.lzctlRelease 5 0 0) (withHandle (hand .aborted {}) []) (fun t => (t.cond? 0).map fun c => c.get 5) = some (some 1) := by decide +kernel

/-! ### Facets -/

/-- A facet with v1 and v2 given, a DATA token of 5 at i0, a NULL at i1 and a control token of 1 at c0. -/
def facetWith (v1 v2 : Word128) : FacetUnit :=
  { unit0 with
    regs := [0, v1, v2] ++ List.replicate 13 0, ins := [[{ payload := 5, side := 0 }], [{ payload := 0, side := 1 }], [], []]
    cins := [[{ payload := 1, side := 0 }], []], indecl := 0x13, outdecl := 0x13 }

/-- A device whose facet at region 0 and rank 0 is `u`, firing slot 0, with handle 0 of region 0 as given. -/
def firing (u : FacetUnit) (h : Handle) : State := { withHandle h [] with facets := [u], cur := {} }

/-- The facet after an instruction. -/
def facetAfter {α : Type} (i : Instr) (s : State) (f : FacetUnit → α) : Option (Option α) := after i s fun t => (t.facet? 1 0 0 0).map f

/-- D is v0, A is v1 and B is v2. -/
def regWord : FWord := { plainWord with d := .reg 0, a := .reg 1, b := .reg 2 }

/-- A device whose facet has v1 and v2 as given. -/
def twoRegs (v1 v2 : Word128) : State := firing (facetWith v1 v2) (hand .full peer1)

/-- v0 after an instruction. -/
def v0After (i : Instr) (v1 v2 : Word128) : Option (Option Word128) := facetAfter i (twoRegs v1 v2) fun u => u.regs.getD 0 0

theorem fires_of {s : State} {u : FacetUnit}
    (h : ((s.facetsAt s.cur.region s.cur.rank).find? fun x => x.node == s.cur.node) = some u ∧ s.cur.mode = .normal ∧
      u.dbg.getLsbD s.cur.slot = false ∧ u.chain = 1 ∧ u.pos = 0 ∧ s.facet? u.inst u.node u.clone 0 = some u ∧
      u.outs.length = 4 ∧ u.couts.length = 2) : s.fires u :=
  ⟨h.1, h.2.1, h.2.2.1, h.2.2.2.1, h.2.2.2.2.1, h.2.2.2.2.2.1, h.2.2.2.2.2.2⟩

theorem twoRegs_fires (v1 v2 : Word128) : (twoRegs v1 v2).fires (facetWith v1 v2) := 
  fires_of ⟨rfl, rfl, show (0 : BitVec 16).getLsbD 0 = false by decide, rfl, rfl, rfl, rfl, rfl⟩

/-- R180: ADD.B wraps lane by lane; ADDSS.B saturates at 0x7F; SUBSZ.H at 0; MULHS.W; ABS.B of -128 stays; SHL.B by 8 gives 0. -/
theorem test_integers :
    v0After (.facetAdd .B regWord) 0x00FF 0x0101 = some (some 0x0100) ∧ v0After (.addss .B regWord) 0x7F80 0x01FF = some (some 0x7F80) ∧
    v0After (.subsz .H regWord) 0x00010005 0x00020001 = some (some 4) ∧
    v0After (.facetMulhs .W regWord) 0xFFFFFFFF 2 = some (some 0xFFFFFFFF) ∧ v0After (.facetShl .B regWord) 0x0101 0x0801 = some (some 2) ∧
    v0After (.abs .B { regWord with b := .none }) 0x80FF 0 = some (some 0x8001) := by decide +kernel

/-- R183: a compare writes all ones; R190: SHUF takes bytes of A, of C, and zero. R191: EXTR counts bytes. -/
theorem test_compare_and_lanes :
    v0After (.cmplts .H regWord) 0x0001FFFF 0x00010000 = some (some 0xFFFF) ∧
    v0After (.shuf { regWord with c := .reg 1 }) 0x2211 0x80808080808080808080808080801001 = some (some 0x1122) ∧
    v0After (.extr { regWord with c := .imm 17 }) 0x2211 0x33 = some (some (0x22 + 0x33 * 2 ^ 120)) ∧
    v0After (.bcast { regWord with b := .imm 17 }) 0x700000000 0 = some (some 0x00000007000000070000000700000007) := by decide +kernel

/-- R184: 1 + 1; the default NaN of infinity times 0; a subnormal product raises SUBNORMAL_ASSIST, with v0 kept. -/
theorem test_floats :
    v0After (.fadd .f32 regWord) 0x3F800000 0x3F800000 = some (some 0x40000000) ∧
    v0After (.fmul .f32 regWord) 0x7F800000 0 = some (some 0x7FC00000) ∧
    v0After (.fmul .f32 regWord) 0x00800000 0x3F000000 = some (some 0) ∧
    after (.fmul .f32 regWord) (twoRegs 0x00800000 0x3F000000) (fun t => (t.cond? 0).map fun c => c.pend.map NodeFault.cause) =
      some (some [.subnormalAssist]) := by decide +kernel

/-- R187 to R189: CVTIF of 3 is 3.0; CVTFI of 2.5 to nearest even is 2, and of NaN 0; CVTN.BF16 puts A's lanes below B's. -/
theorem test_conversions :
    v0After (.cvtif { regWord with b := .none }) 3 0 = some (some 0x40400000) ∧
    v0After (.cvtfi { regWord with b := .none }) 0x7FC0000040200000 0 = some (some 2) ∧
    v0After (.cvtn .bf16 regWord) 0x3F800000 0x40000000 = some (some (0x3F80 + 0x4000 * 2 ^ 64)) ∧
    v0After (.sort4W { regWord with b := .none }) 0x00000003FFFFFFFF0000000200000001 0 =
      some (some 0x000000030000000200000001FFFFFFFF) := by decide +kernel

/-- What the firings that only read and write have in common: the facet fires, and no token read is poisoned. -/
theorem twoRegs_ready (v1 v2 : Word128) (i : Instr) (h : (facetWith v1 v2).readBy i = [] ∧ i.ctlInput = none) :
    (twoRegs v1 v2).fires (facetWith v1 v2) ∧ (twoRegs v1 v2).clean (facetWith v1 v2) i := by
  refine ⟨twoRegs_fires v1 v2, fun t ht => ?_, ?_⟩
  · simp only [FacetUnit.tokensRead, h.2, List.append_nil] at ht
    rw [show ((twoRegs v1 v2).seen (facetWith v1 v2)).readBy i = [] from h.1] at ht
    simp at ht
  · unfold State.readsSpoiled
    rw [show ((twoRegs v1 v2).seen (facetWith v1 v2)).spoiled = 0 from rfl, show ((twoRegs v1 v2).seen (facetWith v1 v2)).cls = 0 from rfl]
    rw [List.any_eq_false]
    intro o _
    cases o <;> simp

/-- Clone `k` of an ASSOCIATIVE node whose v0 holds partial sums, and a device with two of them. -/
def partialUnit (k : Nat) (v : Word128) : FacetUnit := { facetWith 0 0 with clone := k, cls := 1, combmask := 1, regs := v :: List.replicate 15 0 }
def combining : State := { twoRegs 0 0 with facets := [partialUnit 0 2, partialUnit 1 3] }

/-- R51: a firing that reads v0 of such a node, not to write it, reads the combined value. -/
theorem test_combined_read : (facetAfter (.mov { regWord with d := .reg 1, a := .reg 0, b := .none }) combining fun u => u.regs.getD 1 0) =
    some (some 5) := by decide +kernel

theorem witness_OperandsAndPredicates : (facetWith 1 2).head (0 : Fin 4).val = some { payload := 5, side := 0 } ∧
    (let c := (combining).fire1 (.mov { regWord with d := .out 0, a := .reg 0 }) (partialUnit 0 2);
      c.readsCombined 1 = false ∧ (c.u.cls.toNat % 4 = 1 ∧ c.u.combmask.getLsbD 0 = true ∧ c.w.d ≠ .reg 0 ∧
        1 < (c.s.clonesOf c.u.inst c.u.node).length)) ∧
    (6 : Nat) ∈ [6, 7] ∧ (8 : Nat) ∈ [8, 16, 32, 64] ∧ 15 < 128 / 8 := ⟨rfl, by decide +kernel, by decide, by decide, by decide⟩

/-- A final DATA token of version 4, unbounded, of SEQ 9 (R41, R52). -/
def ver4 : Token := { payload := 1, side := 0x0009802400090000 }

theorem witness_EmissionTakesItsSideBand : let u := facetWith 1 2
    u.seqnext.length = 4 ∧ u.seqcnt.length = 4 ∧ ({ plainWord with sv := true } : FWord).sv = true ∧ plainWord.sv = false ∧
    ([ver4].filter fun t => t.ver != 0) ≠ [] ∧ ([tok].filter fun t => t.ver != 0) = [] := by decide +kernel

theorem witness_WholeRegisterFiringWritesItsResult :
    (∀ v1 v2, (twoRegs v1 v2).fires (facetWith v1 v2)) ∧
    ∀ i ∈ [Instr.nop plainWord, .drop { plainWord with a := .pop 0 }, .mov { plainWord with d := .out 0, a := .pop 0 }, .getp { plainWord with d := .reg 15 },
        .sel { regWord with c := .konst }], (twoRegs 1 2).clean (facetWith 1 2) i ∧
      (wholeOf ((twoRegs 1 2).fire1 i (facetWith 1 2)) i).isSome = true := ⟨twoRegs_fires, by decide +kernel⟩

theorem witness_IntegerAndCompareFirings :
    (∀ v1 v2, (twoRegs v1 v2).fires (facetWith v1 v2)) ∧ (∃ f, laneOf (.facetAdd .B regWord) = some (.B, f)) ∧
    (∃ f, laneOf (.facetShrs .D regWord) = some (.D, f)) ∧ (∃ f, compareOf (.test .W regWord) = some (.W, f)) ∧
    (∃ f, floatTestOf (.fcmple .bf16 regWord) = some (.bf16, f)) ∧
    ∀ i ∈ [Instr.facetAdd .B regWord, .test .W regWord, .fcmple .bf16 regWord], (twoRegs 1 2).clean (facetWith 1 2) i :=
  ⟨twoRegs_fires, ⟨_, rfl⟩, ⟨_, rfl⟩, ⟨_, rfl⟩, ⟨_, rfl⟩, by decide +kernel⟩

theorem witness_FloatFiringWritesItsLanes :
    (∀ v1 v2, (twoRegs v1 v2).fires (facetWith v1 v2)) ∧ (twoRegs 1 2).clean (facetWith 1 2) (.fmul .f32 regWord) ∧
    ∃ g, floatOf (.fmul .f32 regWord) = some (.f32, g) ∧
      let x := Machine.Float.decode Machine.Float.f32
      (g Machine.Float.f32 0 (x 0x00800000) (x 0x3F000000) (x 0)).subnormal = true ∧
      (g Machine.Float.f32 0 (x 0x3F800000) (x 0x3F000000) (x 0)).subnormal = false :=
  ⟨twoRegs_fires, by decide +kernel, _, rfl, by decide +kernel⟩

theorem witness_ConversionsWriteTheirLanes :
    (∀ v1 v2, (twoRegs v1 v2).fires (facetWith v1 v2)) ∧
    (∀ i ∈ [Instr.cvtn .bf16 regWord, .cvtn .tf8 regWord, .cvtfi { regWord with b := .none }, .lsumW { regWord with b := .none },
      .sort4W { regWord with b := .none }, .lsumF32 { regWord with b := .none }], (twoRegs 1 2).clean (facetWith 1 2) i) ∧
    (match roundedOf ((twoRegs 0x3F800000 0x3F800000).fire1 (.cvtn .f16 regWord) (facetWith 0x3F800000 0x3F800000)) (.cvtn .f16 regWord) with
      | some (_, rs) => rs.all fun r => !r.subnormal
      | none => false) = true ∧
    (match roundedOf ((twoRegs 0x33800000 0).fire1 (.cvtn .f16 regWord) (facetWith 0x33800000 0)) (.cvtn .f16 regWord) with
      | some (_, rs) => rs.any fun r => r.subnormal
      | none => false) = true := ⟨twoRegs_fires, by decide +kernel, by decide +kernel, by decide +kernel⟩

/-- STEER of v1 between o0 and o1 on c0, and MERGE of i0 and i1 on it. -/
def steerW : FWord := { plainWord with d := .out 0, a := .reg 1, c := .reg 0 }
def mergeW (a b : Fin 4) : FWord := { plainWord with d := .reg 0, a := .pop a, b := .pop b, c := .reg 0 }

/-- R173, R174: a control token of 1 steers to the partner; a MERGE on 1 takes B, and one whose heads disagree raises PRED_MISMATCH. -/
theorem test_steer_and_merge :
    facetAfter (.steer steerW) (twoRegs 7 0) (fun u => (u.outs.map fun l => l.map fun e => e.tok.payload, u.cins)) =
      some (some ([[], [7], [], []], [[], []])) ∧
    facetAfter (.merge (mergeW 1 0)) (twoRegs 7 0) (fun u => (u.regs.getD 0 0, u.ins)) = some (some (5, [[], [], [], []])) ∧
    after (.merge (mergeW 0 1)) (twoRegs 7 0) (fun t => (t.cond? 0).map fun c => c.pend.map NodeFault.cause) =
      some (some [.predMismatch]) := by decide +kernel

theorem witness_SteersAndMergesFollowTheirTokens : let u := facetWith 7 0
    (twoRegs 7 0).fires u ∧ (steerW.d = .out 0 ∧ steerW.c.code = (0 : Fin 2).val ∧ popsOf (Instr.steer steerW).sources = [] ∧
      popsOf (Instr.steerx steerW).sources = [] ∧ u.cins.getD 0 [] = [{ payload := 1, side := 0 }]) ∧
    (∀ w ∈ [mergeW 0 1, mergeW 1 0], ∃ a b : Fin 4, w.a = .pop a ∧ w.b = .pop b ∧ a ≠ b ∧ w.c.code = 0 ∧
      (((u.head a.val).map Token.psn).getD true = false) ∧ (((u.head b.val).map Token.psn).getD true = false) ∧
      ((u.cins.getD 0 []).head?.isSome = true)) ∧
    ((u.head 0).map Token.kind = some 0 ∧ (u.head 1).map Token.kind = some 1) ∧
    ∀ i ∈ [Instr.steer steerW, .steerx steerW, .merge (mergeW 0 1), .merge (mergeW 1 0), .mergeu (mergeW 0 1)], (twoRegs 7 0).clean u i :=
  ⟨twoRegs_fires 7 0, by decide +kernel, by decide +kernel, by decide +kernel, by decide +kernel⟩

/-- R179: HALT emits END on the declared outputs o0 and o1 and on k0. R178: CTL sends p0. R177: EMITN sends a NULL. -/
theorem test_halt_and_ctl :
    facetAfter (.halt plainWord) (twoRegs 0 0) (fun u => (u.halted, u.outs.map fun l => l.map fun e => e.tok.kind,
      u.couts.map fun l => l.map fun e => e.tok.kind)) = some (some (true, [[2], [2], [], []], [[2], []])) ∧
    facetAfter (.ctl { plainWord with a := .imm 16, c := .reg 0 }) (twoRegs 0 0) (fun u => u.couts.map fun l => l.map fun e => e.tok.payload) =
      some (some [[0], []]) ∧
    facetAfter (.emitn { plainWord with d := .out 1 }) (twoRegs 0 0) (fun u => u.outs.map fun l => l.map fun e => e.tok.kind) =
      some (some [[], [1], [], []]) := by decide +kernel

theorem witness_TokensAreSentAndHaltFinishes : (twoRegs 7 0).fires (facetWith 7 0) ∧
    (let w : FWord := { plainWord with d := .out 3 }; w.d = .out 3 ∧ popsOf (Instr.emitn w).sources = []) ∧
    (let w : FWord := { plainWord with a := .imm 23, c := .reg 1 }; w.d = .none ∧ w.a.code = 48 + (7 : Fin 8).val ∧ w.c.code = (1 : Fin 2).val) ∧
    (let w : FWord := { plainWord with d := .out 0, a := .pop 0 }; w.d = .out 0 ∧ w.c = .none ∧
      ∀ k ∈ popsOf (Instr.vfin w).sources, (((facetWith 7 0).head k.val).map Token.psn).getD false = false) ∧ plainWord.d = .none :=
  ⟨twoRegs_fires 7 0, by decide, by decide, by decide +kernel, rfl⟩

/-! ### Facet memory -/

/-- An address in v1, B in v2, the offset C one unit of 16 bytes below. -/
def ldWord : FWord := { plainWord with d := .reg 0, a := .reg 1, c := .imm 31 }
def stWord : FWord := { plainWord with a := .reg 1, b := .reg 2, c := .imm 31 }
def atWord : FWord := { plainWord with d := .reg 0, a := .reg 1, b := .reg 2, c := .reg 0 }

/-- `twoRegs` with bytes in memory at 0x100010 and in the scratchpad of rank 0 at 16. -/
def memRegs (v1 v2 : Word128) : State := { twoRegs v1 v2 with mem := [(0x100010, 0x80)], spad := [(16, 5), (20, 6)] }

theorem memRegs_fires (v1 v2 : Word128) : (memRegs v1 v2).fires (facetWith v1 v2) :=
  fires_of ⟨rfl, rfl, show (0 : BitVec 16).getLsbD 0 = false by decide, rfl, rfl, rfl, rfl, rfl⟩

/-- No token and no register that these read holds poison. -/
abbrev memClean (is : List Instr) : Prop := ∀ i ∈ is, (memRegs 0 0).clean (facetWith 0 0) i

theorem facetReaches_of {s : State} {i : Instr} {u : FacetUnit} {va : Word64} {n : Nat} {w : Bool} {sc : Option Scope} {a : Nat}
    (pa : Nat) (h : Word.field va 63 56 = 0 ∧ va.toNat % n = 0 ∧
      s.translate u.region (((s.inst? u.inst).map Inst.ctx).getD 0) va.toNat { write := w, sys := false } = .ok pa ∧
      s.place pa = some (.hbm a) ∧
      (s.observed i u).clear u.region u.agent s.nextTx { space := 0, addr := pa, len := n, isWrite := w, atomicScope := sc }) :
    s.facetReaches i u va n w sc a := ⟨h.1, h.2.1, pa, h.2.2⟩

theorem facetSpad_of {s : State} {i : Instr} {u : FacetUnit} {a n : Nat} {w : Bool} {sc : Option Scope} {k : Nat}
    (h : a < 0x1000000 ∧ a % n = 0 ∧ a % 0x40000 + n ≤ s.spadSize u.region (a / 0x40000) ∧ k = spadKey u.region (a / 0x40000) (a % 0x40000) ∧
      (s.unchecked u.region u.agent k n = true ∨
        (s.observed i u).clear u.region u.agent s.nextTx { space := 1, addr := k, len := n, isWrite := w, atomicScope := sc })) :
    s.facetSpad i u a n w sc k := ⟨h.1, h.2.1, h.2.2.1, h.2.2.2.1, h.2.2.2.2⟩

/-- R293, R294: LDS adds -16 to A; LDGB gives its four bytes in every lane; STS writes B's 16 bytes. -/
theorem test_facet_memory :
    facetAfter (.lds ldWord) (memRegs 32 0) (fun u => u.regs.getD 0 0) = some (some 0x0000000600000005) ∧
    facetAfter (.ldgb ldWord) (memRegs 32 0) (fun u => u.regs.getD 0 0) = some (some 0x00000080000000800000008000000080) ∧
    after (.sts stWord) (memRegs 48 0x0102) (fun t => t.spad) = some [(16, 5), (20, 6), (32, 2), (33, 1)] ∧
    after (.stg stWord) (memRegs 48 0x0102) (fun t => t.mem) = some [(0x100010, 0x80), (0x100020, 2), (0x100021, 1)] := by decide +kernel

/-- R88: a facet's load of 16 bytes at a multiple of 4 only raises MISALIGN, with nothing written. -/
theorem test_facet_misaligned : after (.ldg ldWord) (memRegs 36 0) (fun t => (t.cond? 0).map fun c => c.pend.map NodeFault.cause) =
    some (some [.misalign]) := by decide +kernel

/-- A facet with an L1 that holds the first line. -/
def cachingUnit : FacetUnit := { facetWith 32 0 with misc := 1, l1 := [{ addr := 0x100000, bytes := List.replicate 128 3 }] }

theorem witness_FacetLoadsReadTheirBytes :
    (∀ v1 v2, (memRegs v1 v2).fires (facetWith v1 v2)) ∧ memClean [.lds ldWord, .ldsw ldWord, .ldg ldWord, .ldgb ldWord] ∧
    ((memRegs 32 0).facetSpad (.lds ldWord) (facetWith 32 0) 16 16 false none 16 ∧
      spadAddr ldWord (((memRegs 32 0).fire1 (.lds ldWord) (facetWith 32 0)).a .whole).toNat = 16 ∧ (memRegs 32 0).spadPoisoned 16 16 = false) ∧
    (∀ l, l < 4 → let v : Word128 := 0x00000020000000240000002800040000
      (memRegs v 0).facetSpad (.ldsw ldWord) (facetWith v 0) (spadAddr ldWord (lane 32 v l)) 4 false none
        (spadKey 0 (spadAddr ldWord (lane 32 v l) / 0x40000) (spadAddr ldWord (lane 32 v l) % 0x40000)) ∧
      (memRegs v 0).spadPoisoned (spadKey 0 (spadAddr ldWord (lane 32 v l) / 0x40000) (spadAddr ldWord (lane 32 v l) % 0x40000)) 4 = false) ∧
    ((memRegs 32 0).facetReaches (.ldg ldWord) (facetWith 32 0) (globAddr ldWord 32) 16 false none 0x100010 ∧
      facetCopy (memRegs 32 0) (facetWith 32 0) 0 0x100010 = none ∧ (memRegs 32 0).poisoned 0x100010 16 = false ∧
      (Memory.readN (memRegs 32 0).mem 0x100010 16).length = 16) ∧
    ((firing cachingUnit (hand .full {})).facetReaches (.ldgb ldWord) cachingUnit (globAddr ldWord 32) 4 false none 0x100010 ∧
      (facetCopy (firing cachingUnit (hand .full {})) cachingUnit 0 0x100010).isSome = true) := by
  refine ⟨memRegs_fires, by decide +kernel, ⟨facetSpad_of (by decide +kernel), by decide +kernel, by decide +kernel⟩, ?_,
    ⟨facetReaches_of 0x100010 (by decide +kernel), by decide +kernel, by decide +kernel, by decide +kernel⟩,
    ⟨facetReaches_of 0x100010 (by decide +kernel), by decide +kernel⟩⟩
  intro l hl
  have : l = 0 ∨ l = 1 ∨ l = 2 ∨ l = 3 := by omega
  rcases this with rfl | rfl | rfl | rfl <;> exact ⟨facetSpad_of (by decide +kernel), by decide +kernel⟩

theorem witness_FacetStoresWriteTheirBytes :
    (∀ v1 v2, (memRegs v1 v2).fires (facetWith v1 v2)) ∧ memClean [.sts stWord, .stsw stWord, .stg stWord, .stge stWord] ∧
    ((memRegs 32 7).facetSpad (.sts stWord) (facetWith 32 7) 16 16 true none 16 ∧
      spadAddr stWord (((memRegs 32 7).fire1 (.sts stWord) (facetWith 32 7)).a .whole).toNat = 16) ∧
    (∀ l, l < 4 → let v : Word128 := 0x00000020000000240000002800040000
      (memRegs v 0).facetSpad (.stsw stWord) (facetWith v 0) (spadAddr stWord (lane 32 v l)) 4 true none
        (spadKey 0 (spadAddr stWord (lane 32 v l) / 0x40000) (spadAddr stWord (lane 32 v l) % 0x40000))) ∧
    (memRegs 32 7).facetReaches (.stg stWord) (facetWith 32 7) (globAddr stWord 32) 16 true none 0x100010 ∧
    (∀ l, l < 4 → let u := { facetWith 32 7 with preds := 0xA0 }
      let s := { memRegs 32 7 with facets := [u] }
      (l % 2 = 1 ↔ u.preds.getLsbD (4 + l) = true) ∧
      s.facetReaches (.stge stWord) u (globAddr stWord 32 + BitVec.ofNat 64 (4 * l)) 4 true none (0x100010 + 4 * l)) := by
  refine ⟨memRegs_fires, by decide +kernel, ⟨facetSpad_of (by decide +kernel), by decide +kernel⟩, ?_,
    facetReaches_of 0x100010 (by decide +kernel), ?_⟩ <;>
    (intro l hl
     have : l = 0 ∨ l = 1 ∨ l = 2 ∨ l = 3 := by omega
     rcases this with rfl | rfl | rfl | rfl)
  all_goals first
    | exact facetSpad_of (by decide +kernel)
    | exact ⟨by decide, facetReaches_of 0x100010 (by decide +kernel)⟩
    | exact ⟨by decide, facetReaches_of 0x100014 (by decide +kernel)⟩
    | exact ⟨by decide, facetReaches_of 0x100018 (by decide +kernel)⟩
    | exact ⟨by decide, facetReaches_of 0x10001C (by decide +kernel)⟩

/-- The control words of atomics at address 0x10 (R295): AMO code `code`, 64 bits where `wide`. -/
def ctlWord (code : Nat) (wide : Bool) : Word128 := BitVec.ofNat 128 (0x10 + code * 2 ^ 68 + (if wide then 2 ^ 67 else 0))

/-- R295: an atomic add of 3 in a scratchpad gives the old value; a compare-exchange that finds another value leaves it. -/
theorem test_facet_atomics :
    after (.atoms atWord) (memRegs (ctlWord 0 false) 3) (fun t => (t.spad, (t.facet? 1 0 0 0).map fun u => u.regs.getD 0 0)) =
      some ([(16, 8), (20, 6)], some 5) ∧
    after (.casg atWord) (memRegs (ctlWord 0 true) 3) (fun t => (t.mem, (t.facet? 1 0 0 0).map fun u => u.regs.getD 0 0)) =
      some ([(0x100010, 0x80)], some 0x80) := by decide +kernel

/-- What the clauses of the facet's atomics need of a control word. -/
def ctlGood (cas : Bool) (v : Word128) : Bool :=
  Word.field v 127 72 == 0 && Word.field v 66 64 ≤ 4 && if cas then Word.field v 71 68 == 0 else Word.field v 71 68 ≤ 10

theorem witness_FacetAtomicReadsOldAndWritesNew :
    (∀ v1 v2, (memRegs v1 v2).fires (facetWith v1 v2)) ∧ memClean [.atoms atWord, .atomg atWord, .cass atWord, .casg atWord] ∧
    (ctlGood false (ctlWord 11 false) = false ∧ ctlGood true (ctlWord 1 false) = false ∧ ctlGood false (ctlWord 10 true) = true ∧
      ctlGood false (ctlWord 10 false) = true ∧ ctlGood true (ctlWord 0 true) = true) ∧
    (let v := ctlWord 9 true;
      (memRegs v 7).facetSpad (.atoms atWord) (facetWith v 7) (spadAddr atWord (Word.field v 31 0)) 8 true
        (some (((memRegs v 7).observed (.atoms atWord) (facetWith v 7)).facetScope (facetWith v 7) (Word.field v 66 64))) 16 ∧
      Word.field v 63 32 = 0 ∧ (memRegs v 7).spadPoisoned 16 8 = false) ∧
    (let v := ctlWord 10 false;
      (memRegs v 7).facetReaches (.atomg atWord) (facetWith v 7) (globAddr atWord v) 4 true
        (some (((memRegs v 7).observed (.atomg atWord) (facetWith v 7)).facetScope (facetWith v 7) (Word.field v 66 64))) 0x100010 ∧
      (memRegs v 7).poisoned 0x100010 4 = false) :=
  ⟨memRegs_fires, by decide +kernel, by decide, ⟨facetSpad_of (by decide +kernel), by decide, by decide +kernel⟩,
    ⟨facetReaches_of 0x100010 (by decide +kernel), by decide +kernel⟩⟩

theorem witness_FacetOrderingAndPrefetch :
    (memRegs 32 7).fires (facetWith 32 7) ∧ (memRegs 32 7).unacked (Issuer.isFacet 1 0 0) = false ∧
    ({ memRegs 32 7 with txns := [{ waiting with issuer := .facet 1 0 0 0 0 }] } : State).unacked (Issuer.isFacet 1 0 0) = true ∧
    memClean [.pref { ldWord with d := .none }, .fence { plainWord with a := .imm 16 }] ∧
    Word.field (0x100000000000000 : Word64) 63 56 ≠ 0 ∧
    (match (memRegs 32 7).translate 0 (ctxOfUnit (memRegs 32 7) (facetWith 32 7)) 0 {} with
      | .miss _ => false
      | _ => true) = true ∧
    (match ({ memRegs 32 7 with tlb := [{ region := 0, ctx := 0, va := 2 ^ 40, size := 65536, leaf := 0 }] } : State).translate 0
        (ctxOfUnit (memRegs 32 7) (facetWith 32 7)) (2 ^ 40) {} with
      | .bad _ => true
      | _ => false) = true := by
  refine ⟨memRegs_fires 32 7, ?_⟩
  and_intros <;> decide +kernel

/-! ### Handles, landing zones, tiles and versions -/

/-- A facet whose handle base is 0, with h0 in A (raw) and B in v2. -/
def hWord : FWord := { plainWord with d := .reg 0, a := .reg 0, b := .reg 2, c := .reg 1 }

theorem firing_fires (v1 v2 : Word128) (h : Handle) : (firing (facetWith v1 v2) h).fires (facetWith v1 v2) :=
  fires_of ⟨rfl, rfl, show (0 : BitVec 16).getLsbD 0 = false by decide, rfl, rfl, rfl, rfl, rfl⟩

/-- R297: HTAKE of slot 16 takes the FULL slot, and gives the word after the change; HFREE frees it with a new generation. -/
theorem test_handles :
    after (.htake hWord) (firing (facetWith 0 16) (hand .full {})) (fun t => (t.handles.map fun h => (h.slot 0).state,
      (t.facet? 1 0 0 0).map fun u => u.regs.getD 0 0)) = some ([.draining], some 4) ∧
    after (.hfree hWord) (firing (facetWith 0 0) (hand .draining {})) (fun t => t.handles.map fun h => ((h.slot 0).state, (h.slot 0).gen)) =
      some [(.free, 1)] := by decide +kernel

theorem witness_HandleInstructionsUseTheirSlot :
    (∀ v1 v2 h, (firing (facetWith v1 v2) h).fires (facetWith v1 v2)) ∧
    ((firing (facetWith 0 0) { hand .full {} with ctx := 5 }).handleFor 0 0 0 = none) ∧
    (∀ st ∈ [SlotState.full, .free, .draining, .filling, .aborted], let s := firing (facetWith 0 0) (hand st {})
      s.handleFor 0 ((0 + hWord.a.code) % 256) (ctxOfUnit s (facetWith 0 0)) = some (hand st {}) ∧ (hand st {}).slots.length = 2) ∧
    (let h : Handle := { hand .full {} with slots := [{ state := .full, metAt := some 1 }, { state := .full, fullAt := 3 }] };
      (firing (facetWith 0 0) h).handleFor 0 0 (ctxOfUnit (firing (facetWith 0 0) h) (facetWith 0 0)) = some h ∧
      (h.slot 0).metAt = some (firing (facetWith 0 0) h).clk ∧ (h.slot 1).metAt ≠ some (firing (facetWith 0 0) h).clk ∧
      (h.slot 0).fullAt ≤ (h.slot 1).fullAt ∧ (h.slot 0).fullAt < (h.slot 1).fullAt) ∧
    memClean [.hstat hWord, .htake hWord, .hfree hWord, .wptr hWord, .wpwait hWord] ∧
    (∀ i ∈ [Instr.hstat hWord, .htake hWord, .hfree hWord, .wptr hWord, .wpwait hWord], ∀ n ∈ [0, 1, 2, 16],
      (((firing (facetWith 0 (BitVec.ofNat 128 n)) (hand .full {})).fire1 i (facetWith 0 (BitVec.ofNat 128 n))).b .whole).toNat = n) :=
  ⟨firing_fires, by decide +kernel, by decide +kernel, by decide +kernel, by decide +kernel, by decide +kernel⟩

/-- A TREQ of the descriptor at 0x1000 into slot 0 of handle 0, a store where `store`, with `n` commands held. -/
def requesting (st : SlotState) (n : Nat) : State :=
  { firing (facetWith 0 0x1000) (hand st peer1) with streams := [(0, 0, List.replicate n default)] }

/-- The bits of B that ask for a store that frees its slot. -/
def storeBits : Word128 := BitVec.ofNat 128 (0x1000 + 2 ^ 68 + 2 ^ 69)

theorem witness_FacetStreamCommand :
    (∀ v1 v2 h, (firing (facetWith v1 v2) h).fires (facetWith v1 v2)) ∧ memClean [.treq hWord] ∧
    (∀ st ∈ [SlotState.free, .full], ∀ n ∈ [0, 15, 16], let s := requesting st n
      let b := (s.fire1 (.treq hWord) (facetWith 0 0x1000)).b .whole
      let x := Desc.ofBytes (Memory.readN s.mem 0x101000 64)
      s.handleFor 0 ((0 + hWord.a.code) % 256) (ctxOfUnit s (facetWith 0 0x1000)) = some (hand st peer1) ∧
      Word.field b 127 70 = 0 ∧ b.getLsbD 69 = false ∧ Word.field b 67 64 = 0 ∧ b.extractLsb' 0 64 = 0x1000 ∧
      s.poisoned 0x101000 64 = false ∧ x.bad false = false ∧ x.bad true = false ∧ x.mc = false ∧ x.kind = 0 ∧ x.need = (hand st peer1).bytes ∧
      (s.isFree ((hand st peer1).slot 0) = true ↔ st = .free) ∧ (s.stream 0 0).length = n) ∧
    (requesting .free 0).facetReaches (.treq hWord) (facetWith 0 0x1000) 0x1000 64 false none 0x101000 ∧
    (Word.field storeBits 127 70 = 0 ∧ storeBits.getLsbD 68 = true ∧ storeBits.getLsbD 69 = true) :=
  ⟨firing_fires, by decide +kernel, by decide +kernel, facetReaches_of 0x101000 (by decide +kernel), by decide +kernel⟩

theorem witness_FacetRequestsGiveTheirStatus :
    (∀ v1 v2 h, (firing (facetWith v1 v2) h).fires (facetWith v1 v2)) ∧ memClean [.lzsend hWord, .lzres hWord] ∧
    (∀ y ∈ [peer1, sending, {}], ∀ st ∈ [SlotState.full, .free], let s := firing (facetWith 0 0) (hand st y)
      s.handleFor 0 ((0 + hWord.a.code) % 256) (ctxOfUnit s (facetWith 0 0)) = some (hand st y) ∧
      (let b := (s.fire1 (.lzsend hWord) (facetWith 0 0)).b .whole; b.toNat < 2 ^ 64 ∧ Word.field b 31 4 = 0 ∧ Word.field b 3 0 = 0 ∧
        Word.field b 63 32 = 0) ∧ 0 < (hand st y).bytes ∧ 0 < (hand st y).slots.length ∧ 0 < (hand st y).recs.length ∧
      (y.valid = true → (hand st y).bytes ≤ y.rbytes) ∧ ((s.chord (engineOf 0)).puts.filter fun p => s.running p.inst).length < 40 ∧
      s.inst? 1 = some inst1 ∧ s.reachable routeDefault peer1.target = true) ∧
    (Word.field sending.status 1 0 = 1 ∧ Word.field peer1.status 1 0 ≠ 1 ∧ inst1.image.routeVa = none) ∧
    (targetBad 1 = false ∧ ((hand .full peer1).record 0).valid = true) ∧
    (let s := firing (facetWith 0 1) (hand .full peer1);
      s.resvs.find? (fun v => v.issuer == (s.fire1 (.lzres hWord) (facetWith 0 1)).actor.issuer && v.region == 0 && v.handle == 0 && v.slot == 0) = none) ∧
    (let u := facetWith 0 1
      let s := { firing u (hand .full peer1) with resvs := [{ resv (some 5) with issuer := ((firing u (hand .full peer1)).fire1 (.lzres hWord) u).actor.issuer }] }
      ∃ v z, s.resvs.find? (fun v => v.issuer == (s.fire1 (.lzres hWord) u).actor.issuer && v.region == 0 && v.handle == 0 && v.slot == 0) = some v ∧
        v.answer = some z) := by
  refine ⟨firing_fires, by decide +kernel, by decide +kernel, by decide +kernel, by decide, by decide +kernel, ?_⟩
  exact ⟨_, _, rfl, rfl⟩

/-- R297, R289, R299: TREQ into a FREE slot gives 0 and fills it; LZSEND of a FULL slot queues its put. -/
theorem test_facet_requests :
    after (.treq hWord) (requesting .free 0) (fun t => (t.handles.map fun h => (h.slot 0).state, (t.stream 0 0).length)) =
      some ([.filling], 1) ∧
    after (.lzsend hWord) (firing (facetWith 0 0) (hand .full peer1)) (fun t => (t.handles.map fun h => (h.slot 0).state,
      (t.chord 0).puts.map Put.fin)) = some ([.draining], [16]) := by decide +kernel

theorem witness_LandingZoneIsReadAndReset :
    (∀ v1 v2 h, (firing (facetWith v1 v2) h).fires (facetWith v1 v2)) ∧
    (∀ h ∈ [hand .full peer1, hand .aborted peer1, { hand .full peer1 with rw := false }], let s := firing (facetWith 0 0) h
      s.handleFor 0 ((0 + hWord.a.code) % 256) (ctxOfUnit s (facetWith 0 0)) = some h ∧ h.slots.length = 2) ∧
    memClean [.lzstat hWord, .lzreset hWord] ∧
    (∀ n ∈ [(0 : Nat), 1, 256, 257], Word.field (BitVec.ofNat 128 n) 7 4 = 0 ∧ Word.field (BitVec.ofNat 128 n) 3 0 < 2 ∧ n < 512) :=
  ⟨firing_fires, by decide +kernel, by decide +kernel, by decide⟩

/-- A tile with a snapshot. -/
def snap0 : Snap := {
  acc := [3, -1], sat := [], ver := 2, anchor := 0, invrow := 0, invcol := 0, busy := false, handle := 0, slot := 0, row := 0, rowAt := 0
  fo := 12, rnd := 0, diag := 0 }

/-- R272: ACCRD of element 1 of the snapshot is -1, its version word 2. -/
theorem test_accrd : facetAfter (.accrd hWord) { firing (facetWith 0 1) { hand .full {} with shown := some (0, 0) } with
    islands := [{ island0 with shown := [{ snap := some snap0 }, {}] }] } (fun u => u.regs.getD 0 0) =
      some (some 0x00000002FFFFFFFFFFFFFFFF) := by decide +kernel

theorem witness_TilesAreReadThroughHandles :
    (∀ v1 v2 h, (firing (facetWith v1 v2) h).fires (facetWith v1 v2)) ∧ memClean [.accrd hWord, .tempty hWord] ∧
    (let h := hand .full {};
      let s := firing (facetWith 0 1) h
      s.handleFor 0 ((0 + hWord.a.code) % 256) (ctxOfUnit s (facetWith 0 1)) = some h ∧ s.recorded 1 h = none) ∧
    (let h := { hand .full {} with shown := some (0, 0) };
      let s := { firing (facetWith 0 1) h with islands := [{ island0 with shown := [{ snap := some snap0 }, {}] }] }
      (s.recorded 1 h).bind Tile.snap = some snap0) := ⟨firing_fires, by decide +kernel, by decide +kernel, by decide +kernel⟩

/-- A versioned token at i0, which an arc with or without versions feeds. -/
def versionUnit : FacetUnit := { facetWith 0 0 with ins := [[ver4], [tok], [], []] }
def versionState (w : Word64) : State := { firing versionUnit (hand .full {}) with arcs := [{ inst := 1, idx := 0, word := w }] }
def headWord : FWord := { plainWord with d := .reg 0, a := .peek 0 }

/-- R267: CEASE sends SEQ 9 up the versioned arc; R270: VERS of the final version 4, unbounded: F + 2X is 1, the bound infinity. -/
theorem test_versions :
    after (.cease { headWord with d := .none }) (versionState 0x400000000) (fun t => t.ceases.map CeaseTok.seq) = some [9] ∧
    facetAfter (.vers headWord) (versionState 0x400000000) (fun u => u.regs.getD 0 0) =
      some (some 0x00000001000000047F80000000098024) := by decide +kernel

theorem witness_VersionsAreReadAndCeased :
    (versionState 0x400000000).fires versionUnit ∧ versionUnit.head 0 = some ver4 ∧ ver4.psn = false ∧ ver4.ver ≠ 0 ∧
    versionUnit.head 1 = some tok ∧ tok.ver = 0 ∧ Word.field ver4.ver 15 8 = 0x80 ∧ Word.field tok.ver 15 8 ≠ 0x80 ∧
    ((versionState 0x400000000).arcInto 1 false 0 0).map ArcSt.vs = some true ∧ ((versionState 0).arcInto 1 false 0 0).map ArcSt.vs = some false ∧
    (versionState 0).arcInto 1 false 0 2 = none :=
  ⟨fires_of ⟨rfl, rfl, show (0 : BitVec 16).getLsbD 0 = false by decide, rfl, rfl, rfl, rfl, rfl⟩, by decide +kernel⟩

/-- A facet with a poisoned token at i0. -/
def poisonUnit : FacetUnit := { facetWith 7 8 with ins := [[badTok], [], [], []] }

/-- R44: a firing that only peeks at a poisoned token raises POISON. -/
theorem test_poison_is_not_read :
    after (.mov { regWord with a := .peek 0, b := .none }) (firing poisonUnit (hand .full {})) (fun t => (t.cond? 0).map fun c =>
      c.pend.map NodeFault.cause) = some (some [.poison]) := by decide +kernel

theorem witness_FacetTrapsLeaveNoEffect : (twoRegs 7 8).fires (facetWith 7 8) ∧ (∃ c, (twoRegs 7 8).cond? (facetWith 7 8).region = some c) ∧
    memClean [.trap { plainWord with a := .reg 1 }, .brk plainWord] ∧
    (firing poisonUnit (hand .full {})).fires poisonUnit ∧ (Instr.mov { regWord with a := .peek 0, b := .none }).form.isSome = true ∧
    ¬(firing poisonUnit (hand .full {})).clean poisonUnit (.mov { regWord with a := .peek 0, b := .none }) :=
  ⟨twoRegs_fires 7 8, ⟨_, rfl⟩, by decide +kernel,
    fires_of ⟨rfl, rfl, show (0 : BitVec 16).getLsbD 0 = false by decide, rfl, rfl, rfl, rfl, rfl⟩, by decide, by decide +kernel⟩

/-- R193, R206: TRAP of v1 = 7 is pending with INFO 7 and leaves the registers; R197: SETPV writes p0 and p1 by its mask. -/
theorem test_facet_system :
    after (.trap { plainWord with a := .reg 1 }) (twoRegs 7 0) (fun t => (t.cond? 0).map fun c => c.pend.map fun f => (f.cause, f.info)) =
      some (some [(.trapInsn, 7)]) ∧
    facetAfter (.setpv { plainWord with a := .reg 1 }) (twoRegs 0x0302 0) (fun u => u.preds) = some (some 2) ∧
    facetAfter (.settag { plainWord with a := .imm 19, b := .reg 1 }) (twoRegs 2 0) (fun u => u.tagreg) = some (some [0, 0, 0, 2]) := by
  decide +kernel

theorem witness_FacetSystemGroup :
    (twoRegs 7 8).fires (facetWith 7 8) ∧ (twoRegs 7 8).inst? 1 = some inst1 ∧ inst1.ctl.wave = none ∧
    (∀ k ∈ [(0 : Fin 16), 10, 2], let w := { plainWord with b := .imm ⟨16 + k.val, by omega⟩ }; w.b.code - 48 = k.val) ∧
    memClean [.setpv { plainWord with a := .reg 1 }] ∧ (∃ q, (twoRegs 7 8).queue? inst1.queue = some q) ∧
    (let w : FWord := { plainWord with a := .imm 19, b := .reg 1 }; w.a.code = 48 + (3 : Fin 4).val ∧ w.d = .none ∧
      memClean [.seq w, .settag w]) ∧
    (facetWith 7 8).seqnext.length = 4 ∧ (facetWith 7 8).seqcnt.length = 4 ∧ (facetWith 7 8).tagreg.length = 4 := by
  refine ⟨twoRegs_fires 7 8, by decide +kernel, rfl, ?_, by decide +kernel, ⟨_, rfl⟩, by decide +kernel, by decide⟩
  intro k hk
  simp only [List.mem_cons, List.not_mem_nil, or_false] at hk
  rcases hk with rfl | rfl | rfl <;> decide

/-! ### The hub -/

/-- Bytes `b` with `v` in `n` bytes at offset `o`. -/
def put (o n v : Nat) (b : List Byte) : List Byte := b.take o ++ Word.toBytes n v ++ b.drop (o + n)
def zero64 : List Byte := List.replicate 64 0

/-- Context 0 of partition 0, which queue 0 holds, its ring at 0x10000 with `b` at its head; the image at 0x1000. -/
def hub (b : List Byte) (is : List Inst) (pool : List PoolEntry) : State :=
  { State.reset with
    mem := Memory.writeN (Memory.writeN tables 0x10040 b) 0x1000 imageBytes
    ctxs := [{ id := 0, root := 0x200000, addr := 0x8000 }], parts := [{ id := 0, quads := 1, holder := some 0 }]
    queues := [{ num := 0, base := 0x10000, state := 1, savesize := 0x1200000 }], insts := is, pool := pool }

/-- Packets of R324: NOP, EVENT, a COPY of 16 bytes, a LAUNCH of the image on one region, and one of no type that exists. -/
def nopPacket : List Byte := put 0 1 4 zero64
def eventPacket : List Byte := put 0 1 3 zero64
def copyPacket : List Byte := put 0x10 8 0x30000 (put 8 8 0x20000 (put 4 4 16 (put 0 1 2 zero64)))
def launchPacket : List Byte := put 8 8 0x1000 (put 4 2 1 (put 2 1 15 (put 0 1 1 zero64)))
def badPacket : List Byte := put 0 1 9 zero64

/-- A state that holds what a queue's dispatch needs. -/
theorem dispatches_of {s : State} {n : Nat} {q : Queue} {b : List Byte} {t : Nat} {pool : Bool}
    (h : s.stopped = false ∧ (((s.queue? n).bind fun q => s.partOf q.ctx) = some 0 ∧ (s.readAllWaits 0).takePartition n = some s) ∧ s.poolHeld n = false ∧ s.queue? n = some q ∧ s.nextPacket q = some b ∧
      (s.poolHead n).isSome = pool ∧ fieldAt b 0 1 = t ∧ s.packetOk q.ctx b = true ∧ s.waitsHold q.ctx b = true) :
    dispatches s s n q b t pool :=
  ⟨h.1, ⟨0, h.2.1⟩, h.2.2.1, h.2.2.2.1, h.2.2.2.2.1, h.2.2.2.2.2.1, h.2.2.2.2.2.2.1, h.2.2.2.2.2.2.2.1, h.2.2.2.2.2.2.2.2⟩

/-- R318, R325: a NOP leaves its slot of the ring empty and raises the read index; a packet of no type puts the queue into ERROR. -/
theorem test_packets :
    after (.packetNop 0) (hub nopPacket [] []) (fun t => (Memory.read t.mem 0x10040, Memory.read t.mem 0x10008)) = some (0, 1) ∧
    after (.packetNop 0) (hub badPacket [] []) (fun t => t.queues.map Queue.state) = some [3] ∧
    after (.packetLaunch 0 [0]) (hub launchPacket [] []) (fun t => (t.insts.map Inst.state, t.engines.map EngineNode.region)) =
      some ([.running], [0]) := by decide +kernel

def q0 : Queue := { num := 0, base := 0x10000, state := 1, savesize := 0x1200000 }

/-- The copy of `copyPacket`, begun. -/
def copy0 : HubCopy := { src := 0x20000, dst := 0x30000, len := 16, packet := copyPacket }

/-- A pool entry of queue 0. -/
def pooled (b : List Byte) : PoolEntry := { queue := 0, ctx := 0, packet := b }

theorem witness_PacketsAreCarriedOut :
    ((hub nopPacket [] []).peek q0 (q0.base.toNat + 64 + 64 * ((hub nopPacket [] []).readIndex q0 % q0.nent)) 64 = some nopPacket ∧
      (hub nopPacket [] []).poolHead q0.num = none ∧
      (match (hub nopPacket [] []).storeVa q0.ctx (q0.base.toNat + 64 + 64 * ((hub nopPacket [] []).readIndex q0 % q0.nent)) [0] false q0.pinned with
        | .ok t => (match t.storeVa q0.ctx (q0.base.toNat + 8) (Word.toBytes 8 1) false q0.pinned with
          | .ok _ => true
          | .error _ => false)
        | .error _ => false) = true) ∧
    dispatches (hub nopPacket [] []) (hub nopPacket [] []) 0 q0 nopPacket 4 false ∧
    dispatches (hub eventPacket [] []) (hub eventPacket [] []) 0 q0 eventPacket 3 false ∧
    dispatches (hub copyPacket [] []) (hub copyPacket [] []) 0 q0 copyPacket 2 false ∧ q0.copy = none ∧
    (∀ k ∈ [copy0, { copy0 with src := 0x80000000 }, { copy0 with upto := some 2 }],
      let s := { hub copyPacket [] [] with queues := [{ q0 with copy := some k }] }
      s.stopped = false ∧ s.queue? 0 = some { q0 with copy := some k } ∧ s.hubWrites 2 = false ∧
      (match s.copyUnits (hubActor q0.ctx (.queue 0) q0.arrived) k.src.toNat k.dst.toNat (k.len / 16) (k.len / 128 + 1) with
        | .ok t _ => k.src.toNat == 0x20000 && !t.hubWrites t.nextTx
        | .bad _ _ => k.src.toNat == 0x80000000
        | _ => false) = true) ∧
    (let s := { hub copyPacket [] [] with
        mem := Memory.writeN (hub copyPacket [] []).mem 0x300008 [0x7B, 0, 0, 0, 0, 0x10], queues := [{ q0 with copy := some { copy0 with src := 0x40000000 } }]
        regs := { domrt := [(1, 1)] }, sup := List.replicate 32 { state := 2 } };
      (match s.copyUnits (hubActor q0.ctx (.queue 0) q0.arrived) 0x40000000 0x30000 1 1 with
        | .ask _ => true
        | _ => false) = true) ∧
    (let s := { hub copyPacket [] [] with queues := [{ q0 with copy := some copy0 }], txns := [{ waiting with tx := 0, issuer := .hub }] };
      (match s.copyUnits (hubActor q0.ctx (.queue 0) q0.arrived) 0x20000 0x30000 1 1 with
        | .ok t _ => t.hubWrites t.nextTx
        | _ => false) = true ∧ s.hubWrites s.nextTx = true) ∧
    dispatches (hub launchPacket [] []) (hub launchPacket [] []) 0 q0 launchPacket 1 false ∧
    dispatches (hub nopPacket [] [pooled launchPacket]) (hub nopPacket [] [pooled launchPacket]) 0 q0 launchPacket 1 true ∧
    (let s := hub launchPacket [] [];
      let p : Partition := { id := 0, quads := 1, holder := some 0 }
      (s.context? q0.ctx).bind (fun c => s.part? c.part) = some p ∧ fieldAt launchPacket 4 2 = 1 ∧ 1 ≤ (s.usable p).length ∧ s.placeable p [0] = true) ∧
    (∃ s'' x, (hub launchPacket [] []).readImage (runtimeReader (hubActor q0.ctx (.queue q0.num) q0.arrived)) 0 false (fieldAt launchPacket 8 8) = .ok s'' x ∧
      (x.spillSize = 0 ∧ s''.refusedImage 0 (s''.handlesOn s''.nextInst 0 [0]) [0] x 0 = none ∧
        saveMax 1 (x.image none).ports (x.image none).chordNodes ≤ q0.savesize ∧
        (s''.saveSlot q0 (saveMax 1 (x.image none).ports (x.image none).chordNodes)).isSome = true)) ∧
    (let s := hub badPacket [] [];
      s.partOf q0.ctx = some 0 ∧ (s.readAllWaits 0).takePartition 0 = some s ∧ s.poolHeld 0 = false ∧ s.queue? 0 = some q0 ∧ s.nextPacket q0 = some badPacket ∧ s.packetOk q0.ctx badPacket = false ∧ s.poolHead 0 = none) ∧
    (let s := hub nopPacket [] [pooled badPacket];
      (s.readAllWaits 0).takePartition 0 = some s ∧ s.poolHeld 0 = false ∧ s.nextPacket q0 = some badPacket ∧ s.packetOk q0.ctx badPacket = false ∧ s.poolHead 0 ≠ none) := by
  refine ⟨by decide +kernel, dispatches_of (by decide +kernel), dispatches_of (by decide +kernel), dispatches_of (by decide +kernel), rfl, by decide +kernel, by decide +kernel,
    by decide +kernel, dispatches_of (by decide +kernel), dispatches_of (by decide +kernel), by decide +kernel, okWith (by decide +kernel),
    by decide +kernel, by decide +kernel, by decide +kernel, by decide +kernel⟩

/-- R209, R326: the instance that is started runs on region 0 and has the packet; a launch whose image is refused runs nowhere. -/
theorem witness_InstanceIsStarted :
    let s := hub launchPacket [] []
    s.inst? s.nextInst = none ∧ [0].Nodup ∧ (s.cond? 0).isSome = true ∧ (s.cond? 1).isSome = true := by decide +kernel

/-- Blocks of R319 to R321 at 0x4000: partition 3 of quad 1; context 7 of partition 0; a queue of 16 entries of context 0. -/
def partitionBlock : List Byte := put 0xC 2 1 (put 0xB 1 1 (put 0xA 1 1 (put 8 1 3 (put 0 8 2 zero64))))
def contextBlock : List Byte := put 0xF 1 1 (put 0xD 1 1 (put 0xC 1 1 (put 0xB 1 15 (put 8 2 7 (put 0 8 0x200000 zero64)))))
def queueBlock : List Byte := put 0x30 4 256 (put 0x28 8 0x30000 (put 0x20 8 0x10000 (put 0x18 8 0x20000 (put 0xE 1 15 (put 8 4 16 (put 0 8 0x10000 zero64))))))

/-- A device with a command of HREG in hand and a block at 0x4000. -/
def hreg (b : List Byte) : State :=
  { hub nopPacket [] [] with mem := Memory.writeN tables 0x4000 b, regs := { hregBusy := true } }

/-- R319, R383: the partition is registered with its quads; a block off a 64-byte boundary is refused with reason 1. -/
theorem test_registration :
    after (.registerPartition 0x4000) (hreg partitionBlock) (fun t => (t.regs.hregState, (t.part? 3).map Partition.quads)) = some (2, some 2) ∧
    after (.registerPartition 0x4020) (hreg partitionBlock) (fun t => (t.regs.hregState, t.regs.hregReason)) = some (3, 1) := by decide +kernel

theorem witness_RegistrationTakesTheBlock :
    (∀ b ∈ [partitionBlock, contextBlock, queueBlock], (hreg b).regs.hregBusy = true ∧ (hreg b).stopped = false ∧ (hreg b).block 0x4020 = none ∧
      (hreg b).block 0x4000 = some (0x4000, b)) ∧
    ((hreg partitionBlock).quadTaken 3 2 = false ∧ partitionOk partitionBlock = true ∧ fieldAt partitionBlock 6 2 = 0 ∧
      ({ hreg partitionBlock with parts := [{ id := 3, quads := 4 }] } : State).part? 3 = some { id := 3, quads := 4 }) ∧
    (contextOk contextBlock = true ∧ ((hreg contextBlock).context? 7).map Context.state ≠ some 1 ∧
      ((hreg contextBlock).part? (fieldAt contextBlock 0xA 1)).isSome = true ∧ (hreg contextBlock).keyOk 0 0 = true) ∧
    (let s := hreg queueBlock;
      queueOk queueBlock = true ∧ (s.context? 0).map Context.state = some 0 ∧ (s.pinRanges 0 [(fieldAt queueBlock 0 8, 64 + 64 * fieldAt queueBlock 8 4),
        (fieldAt queueBlock 0x18 8, fieldAt queueBlock 0x20 8), (fieldAt queueBlock 0x28 8, fieldAt queueBlock 0x30 4)]).isSome = true ∧
      s.pinRanges 0 [(2 ^ 40, 64)] = none) := by
  decide +kernel

theorem witness_KillStartsAndCompletes :
    (let s := hreg queueBlock;
      s.stopped = false ∧ s.context? 0 = some { id := 0, root := 0x200000, addr := 0x8000 } ∧ s.regs.hregBusy = true) ∧
    (let c : Context := { id := 0, root := 0x200000, addr := 0x8000, state := 1 };
      let s := { hub nopPacket [] [] with ctxs := [c], queues := [{ q0 with state := 3 }] }
      s.context? 0 = some c ∧ s.stopped = false ∧ (∀ i ∈ s.insts, i.ctx ≠ 0) ∧ (∀ x ∈ s.txns, x.ctx ≠ 0) ∧ ∀ q ∈ s.queues, q.ctx = 0 → q.state = 3) := by
  decide +kernel

/-- Queue 1 with a NOP at the head of its ring at 0x11000, at priority `p`, beside queue 0 at priority 3. -/
def shared (p : Nat) : State :=
  { hub nopPacket [] [] with
    mem := Memory.writeN tables 0x11040 nopPacket
    queues := [{ q0 with prio := 3 }, { num := 1, base := 0x11000, state := 1, prio := p }] }

theorem witness_PartitionsAreShared :
    (∀ p ∈ [1, 3, 5], let s := shared p
      s.part? 0 = some { id := 0, quads := 1, holder := some 0 } ∧ s.queue? 0 = some { q0 with prio := 3 } ∧ s.queuePrio { q0 with prio := 3 } = 3 ∧
      s.retireDue 0 = false ∧ s.startedOf 0 = [] ∧
      (s.readyQueues 0).map (fun r => (r.num, s.queuePrio r)) = [(1, p)]) ∧ q0.deficit ≤ 0 ∧ q0.biting = false ∧
    (∀ is ∈ [[], [{ inst1 with state := .saved }]], let s := { hub nopPacket is [] with queues := [{ q0 with state := 2 }] }
      (s.context? 0).map Context.part = some 0 ∧ s.unsaved 0 = false ∧
        ∀ i ∈ s.startedOf 0, i.regions.length ≤ (s.usable { id := 0, quads := 1, holder := some 0 }).length) ∧
    (let s := { hub nopPacket [inst1] [] with queues := [{ q0 with timer := 2000000000 }] };
      s.stopped = false ∧ s.startedOf 0 ≠ [] ∧ q0.wdog * 1000000 ≤ 2000000000 ∧ (s.context? 0).map Context.part = some 0 ∧ s.retireDue 0 = false ∧
      s.othersSaved { id := 0, quads := 1, holder := some 0 } 0 = true) ∧
    (let s := { hub nopPacket [] [] with queues := [{ q0 with biting := true }] };
      s.queue? 0 = some { q0 with biting := true } ∧ s.stopped = false ∧ s.retireDue 0 = false ∧ s.insts = [] ∧
      s.othersSaved { id := 0, quads := 1, holder := some 0 } 0 = true ∧ (s.context? 0).map Context.part = some 0) := by decide +kernel

/-- R339: the watchdog's first phase discards the instances and its second puts the queue into ERROR. -/
theorem test_watchdog :
    after (.watchdog 0) { hub nopPacket [inst1] [] with queues := [{ q0 with timer := 2000000000 }] } (fun t =>
      (t.insts.map Inst.state, t.queues.map Queue.state)) = some ([.discarding], [1]) ∧
    after (.watchdog 0) { hub nopPacket [] [] with queues := [{ q0 with biting := true }] } (fun t =>
      t.queues.map fun q => (q.state, q.cause)) = some [(3, some .watchdog)] := by decide +kernel

/-! ### Instances -/

/-- A device that holds instance `i`, alone, in region 0, with conductor 0 as given. -/
def life (c : Conductor) (i : Inst) : State := { hub nopPacket [i] [] with conds := c :: List.replicate 191 {} }

/-- `led` having halted; `led` at system level, where its trap handler waits in WFI. -/
def halted : Conductor := { led with halted := true }
def inWait : Conductor := { led with pl := true, wfi := some false }

/-- `inst1` with no node. -/
def bare : Inst := { inst1 with image := {} }

/-- `led` at system level, where a misaligned access has brought it. -/
def trappedLead : Conductor := { led with pl := true, cause := BitVec.ofNat 64 (causeCode .misalign) }

theorem witness_InstancesLiveAndEnd :
    (let s := life halted bare;
      s.inst? 1 = some bare ∧ s.stopped = false ∧ bare.state = .running ∧ s.holdsTokens 1 = false ∧ (∀ c ∈ s.condsOf 1, c.holds = false) ∧
      s.sinksDone 1 = true ∧ s.commandsOut 1 = false ∧ s.faultsOut 1 = false) ∧
    (let i := { inst1 with sinceFiring := 65536 };
      let s := { life led i with facets := [facetWith 0 0] }
      s.inst? 1 = some i ∧ s.holdsTokens 1 = true ∧ 65536 ≤ i.sinceFiring ∧ s.outstanding i = false) ∧
    (∀ i ∈ [inst1, { inst1 with state := .frozen }], let s := { life led i with parts := [{ id := 0, quads := 1, holder := some 0, yielding := true }] }
      s.inst? 1 = some i ∧ s.freezeDue i = true ∧ s.atBoundary i = true) ∧
    (let i := { inst1 with state := .freezing };
      (life inWait i).inst? 1 = some i ∧ i.owed = [] ∧ (life inWait i).streamsStand 1 = true ∧ (∀ r ∈ i.regions, ∀ c ∈ (life inWait i).cond? r, c.letsSave = true)) ∧
    (∀ h ∈ [[], [7]], let i := { inst1 with state := .saved, saveHead := h }
      let s := life led i
      s.inst? 1 = some i ∧ s.takePartition 0 = some s ∧ s.resumable i [1] = true ∧ s.recordIntact i = h.isEmpty) ∧
    (∀ st ∈ [InstState.complete, .discarding], let i := { inst1 with state := st, signals := false }
      (life led i).inst? 1 = some i ∧ (life led i).ackDue i = false) ∧
    (let i := { inst1 with state := .complete };
      i.signals = true ∧ (life led i).ackDue i = false ∧ ((((life led i).removeInst i).beat 0).queue? 0).isSome = true) ∧
    (∀ i ∈ [inst1, { inst1 with state := .freezing }, { inst1 with state := .discarding, fault := some default }],
      (life trappedLead i).cond? 0 = some trappedLead ∧ trappedLead.pl = true ∧ trappedLead.told = false ∧ trappedLead.inst = some i.id ∧
      ((life trappedLead i).trapped 0 trappedLead).isSome = true ∧ (life trappedLead i).freezeDue i = false) ∧
    ({ life trappedLead inst1 with parts := [{ id := 0, quads := 1, holder := some 0, yielding := true }] } : State).freezeDue inst1 = true := by
  decide +kernel

theorem witness_SavedInstanceIsRestored :
    let i := { inst1 with state := .saved, regions := [256], saved := [led] }
    let s := { life led i with facets := [{ unit0 with region := 256 }], spadHigh := [(256 * 64, 8)] }
    s.inst? i.id = some i ∧ (Memory.wf s.mem = true ∧ Memory.wf s.spad = true) ∧ [1].length = i.regions.length ∧ [1].Nodup ∧ i.regions.Nodup ∧ (∀ r ∈ [1], r < 192) ∧ (∀ r ∈ i.regions, 256 ≤ r) ∧
      (s.cond? 1).isSome = true ∧ ∃ u ∈ s.facets, u.inst = i.id := by decide +kernel

theorem witness_FaultActsOnItsDomain :
    (∀ d ∈ [1, 2, 3], let i := { inst1 with fdom := d }
      let s := life led i
      s.inst? i.id = some i ∧ i.fault = none ∧ i.fdom = d ∧ (s.queue? i.queue).isSome = true ∧ (s.context? i.ctx).map Context.state = some 0) ∧
    (let i := { inst1 with fault := some { cause := .race } }; (life led i).inst? i.id = some i) := by decide +kernel

/-- R58: an instance that holds nothing and whose conductor has halted is complete. -/
theorem test_complete : after (.complete 1) (life halted bare) (fun t => t.insts.map Inst.state) = some [.complete] := by decide +kernel

/-! ### Layouts and tokens on their way -/

/-- A SWITCH, a NULL and an END. -/
def switch0 : Token := { payload := 0, side := 3 }
def null0 : Token := { payload := 0, side := 1 }
def end0 : Token := { payload := 0, side := 2 }

/-- Arcs of instance 1: from output 0 of node 0 to input 0 of node 1, and from output 0 of node 1 to input 0 of node 0. -/
def arc01 : ArcSt := { inst := 1, idx := 0, word := 0x00010000 }
def arc10 : ArcSt := { inst := 1, idx := 1, word := 0x00000001 }

/-- `inst1` with two nodes. -/
def inst2 : Inst := { inst1 with image := { nodes := List.replicate 2 ⟨0, 0, 0, List.replicate 512 0⟩, levels := [0] } }

/-- A device that runs `i` with the arcs of nodes 0 and 1. -/
def pair (i : Inst) : State := { life led i with arcs := [arc01, arc10] }

/-- `inst2` with a wavefront that has still to reach node 0. -/
def waved : Inst := { inst2 with ctl := { wave := some wave0 } }

/-- A facet with input 0 declared, a DATA token there, and a MERGE in slot 0 where `m` says so, its control token 0. -/
def switchUnit (h0 h1 : List Token) (m : Bool) : FacetUnit :=
  { unit0 with
    ins := [h0, h1, [], []], indecl := 0x13, cins := [[{ payload := 0, side := 0 }], []]
    slots := (if m then slotWord 0x08 0 16 17 0 0 else slotWord 0x10 0 16 17 31 0) :: List.replicate 15 0x00000003EFBEF800 }

/-- A wavefront on its way that changes nothing of node 0 but for repair, and one whose nodes have all switched. -/
def repairing : Inst := { inst2 with ctl := { wave := some { wave0 with change := .repair [0] } } }
def passedOn : Inst := { inst2 with ctl := { wave := some { wave0 with switched := [(0, 0)] } } }

theorem witness_CloneTargetsFollowTheTable :
    (let u := { unit0 with cls := 1, indecl := 1 };
      u.eligible = true ∧ ({ inst1 with ctl := { pins := [0] } } : Inst).isPinned 0 = true ∧ inst1.isPinned 0 = false ∧ u.cls.toNat % 4 ≠ 2 ∧
      ({ unit0 with cls := 2 } : FacetUnit).cls.toNat % 4 = 2 ∧ ({ unit0 with cls := 2, indecl := 1 } : FacetUnit).eligible = true ∧
      ({ unit0 with cls := 0 } : FacetUnit).finished = false) ∧
    ([(0, 3)].find? fun (p : Nat × Nat) => p.1 == 0) = some (0, 3) ∧ ({ unit0 with cls := 3, indecl := 1 } : FacetUnit).eligible = false ∧
    inst1.clonewin ≤ lookup [(0, inst1.clonewin)] 0 0 ∧ ¬inst1.clonewin ≤ lookup [] 0 0 ∧ inst1.foldwin ≤ lookup [(0, inst1.foldwin)] 0 0 ∧
    ¬inst1.foldwin ≤ lookup [] 0 0 := by decide +kernel

theorem witness_WavesBegin :
    (let s := pair inst2; s.inst? 1 = some inst2 ∧ s.stopped = false ∧ inst2.state = .running ∧ inst2.ctl.wave = none ∧ s.debugged inst2 = false) ∧
    (let s := pair inst2;
      arc01 ∈ s.arcs ∧ (∀ b ∈ s.arcs, b.inst = arc01.inst → b.idx = arc01.idx → b = arc01) ∧
      arc01.inst = inst2.id ∧ arc01.cc = false ∧ ((Change.clone 1 2).affected inst2.image).contains arc01.cnode = true ∧
      ((Change.switch {}).affected inst2.image).contains arc01.cnode = true ∧ arc01.pc = false ∧
      ((Change.clone 0 2).affected inst2.image).contains arc01.cnode = false) ∧
    (let u := { unit0 with outs := [[⟨tok, 1⟩], [], [], []] };
      let s := { pair inst2 with facets := [u] }
      s.mergeOf 1 0 = none ∧ arc01.pport < 4 ∧ s.facet? 1 arc01.pnode 0 0 = some u ∧ u.chain = 1) := by decide +kernel

theorem witness_NodesTakeTheirChange :
    (∀ c ∈ [(0 : BitVec 8), 1, 2], let u := { unit0 with cls := c, combmask := 1 }
      let s := { pair inst2 with facets := [u], parts := [{ id := 0, quads := 1 }] }
      s.facet? 1 0 0 0 = some u ∧ s.cloneCount 1 0 = 1 ∧ 1 < 2 ∧ s.clonesOf 1 0 = List.range 1 ∧ ((s.clonePlaces inst2 u)[0]?).isSome = true ∧
      (s.unfoldPlaces inst2 u).isEmpty = false ∧ s.facet? 1 0 (if c = 2 then (1 + 0) % 1 else 0) 0 = some u ∧ u.pos = 0) ∧
    (let s := { pair inst2 with facets := [unit0, { unit0 with clone := 1, rank := 1 }, { unit0 with node := 1, rank := 2 }] };
      1 < s.cloneCount 1 0 ∧ s.facet? 1 1 0 0 = some { unit0 with node := 1, rank := 2 }) := by decide +kernel

theorem witness_WavesPassOn :
    (let s := { pair waved with arcs := [{ arc01 with word := 0x00010000 }] };
      let w : Wave := { wave0 with affected := [0, 1] }
      s.inst? 1 = some waved ∧ (∀ a ∈ s.arcs, a.inst = 1 ∧ a.pc = false ∧ a.pnode = 0 ∧ a.cc = false ∧ w.affected.contains a.cnode = true ∧
        a.cnode ≠ 0 ∧ w.switched.contains (a.cnode, 0) = false)) ∧
    ((pair passedOn).stopped = false ∧ passedOn.state = .running ∧ (passedOn.ctl.wave.map fun w =>
      w.affected.all fun n => w.switched.contains (n, 0)) = some true) := by decide +kernel

theorem witness_RewiresSpread :
    (let i := { inst1 with counted := 4096 };
      (life led i).inst? 1 = some i ∧ (life led i).stopped = false ∧ i.state = .running ∧ i.winStart + 2 ^ i.ratewin ≤ i.counted) ∧
    (let i := { inst1 with regions := [0, 4] };
      let s := { life led i with parts := [{ id := 0, quads := 2, leaving := 1 }], facets := [unit0] }
      s.inst? 1 = some i ∧ i.ctl.wave = none ∧ s.debugged i = false ∧ ((s.wanted i)[0]?).map (fun w => changesOf [w]) = some [.move 0 0 4 0]) ∧
    (let s := { life led inst1 with parts := [{ id := 0, quads := 2, leaving := 1 }], facets := [unit0] };
      s.debugged inst1 = false ∧ changesOf (s.wanted inst1) = [] ∧ s.shrinkBlocked inst1 = true ∧ (pair inst2).shrinkBlocked inst2 = false ∧
      s.queue? 0 = some q0) ∧
    (waved.ctl.wave = some wave0 ∧ wave0.affected.contains 0 = true ∧ wave0.switched.contains (0, 0) = false) ∧
    (let e := { node0 with ins := [switch0] };
      let s := { pair waved with engines := [e] }
      s.engine? 1 0 = some e ∧ e.finished = false ∧ e.idle = true ∧ s.engineRoom e = true ∧ s.fedPort 1 0 0 = true ∧
      e.ins.head?.map Token.kind = some 3) ∧
    (let u := { switchUnit [switch0] [] false with indecl := 1 };
      let s := { pair waved with facets := [u] }
      s.inst? 1 = some waved ∧ s.engine? 1 0 = none ∧ (s.facets.filter fun u => u.inst == 1 && u.node == 0) = [u] ∧ s.facetSwitches wave0 [u] = true) ∧
    (let e := { node0 with finished := true }; ({ pair waved with engines := [e] } : State).engine? 1 0 = some e) ∧
    (let u := { island0 with finished := true }; ({ pair waved with islands := [u] } : State).island? 0 0 = some u ∧ u.finished = true) ∧
    repairing.ctl.wave.map Wave.change = some (.repair [0]) ∧
    (let u := { island0 with ins := [[switch0], [], []] };
      let s := { pair waved with islands := [u] }
      s.island? 0 0 = some u ∧ s.islandActs u = true ∧ u.firing = none ∧ u.orphan = none ∧
      (((List.range 3).filter (s.fedPort 1 0)).all u.atSwitch) = true ∧ u.empty = true ∧ ((List.range 5).filter (s.hasArc 1 0)).all u.room = true) ∧
    (let u := { island0 with ins := [[switch0], [], []], tiles := [{ state := .accum, fired := 2 }, {}] };
      let s := { pair waved with islands := [u] }
      s.island? 0 0 = some u ∧ s.islandActs u = true ∧ u.firing = none ∧ u.orphan = some (0, 2)) ∧
    (let u := switchUnit [switch0] [tok] false;
      let s := { pair inst2 with facets := [u] }
      s.facetsAt 0 0 = [u] ∧ s.takesTurns u = true ∧ u.atRest = true ∧ u.merges = false ∧ (∀ k, k < 16 → s.slotReady u k = false) ∧
      (s.chainOf u).find? s.orphaned = some u) ∧
    (let u := switchUnit [tok] [switch0] true;
      let s := { pair inst2 with facets := [u] }
      s.facetsAt 0 0 = [u] ∧ s.takesTurns u = true ∧ u.atRest = true ∧ u.merges = true ∧ s.chainOf u = [] ++ u :: [] ∧
      u.mergeStuck u = some (0, mergeWord false 0 3)) := by
  and_intros <;> decide +kernel

/-- The producer of `arc01` with a token out, and its consumer with `n` tokens in. -/
def producer : FacetUnit := { unit0 with outs := [[⟨tok, 1⟩], [], [], []] }
def consumer (n clone : Nat) : FacetUnit :=
  { unit0 with node := 1, clone := clone, rank := 1 + clone, indecl := 1, ins := [List.replicate n tok, [], [], []] }

/-- A device with those on its arcs. -/
def flow (a : ArcSt) (us : List FacetUnit) : State := { pair inst2 with arcs := [a], facets := producer :: us }

/-- R40: the token leaves its arc's head and stands in the consumer's channel. -/
theorem test_token_accept : after (.tokenAccept 1 0) (flow arc01 [consumer 0 0]) (fun t =>
    (t.facets.map fun u => (u.ins.getD 0 []).length, t.facets.map fun u => (u.outs.getD 0 []).map OutEntry.mask)) = some ([0, 1], [[0], []]) := by
  decide +kernel

/-- An arc that may spill two tokens, one in the ring where `r` says so, into an engine node 1 that is full or not. -/
def ringArc (r : Bool) : ArcSt := { arc01 with word := 0x1200010000, ring := if r then [tok] else [] }
def sink (n : Nat) : EngineNode := { node0 with node := 1, ins := List.replicate n tok }

/-- A reorder merge of node 0's output 0 that holds the token next in order, and one whose two clones have ended. -/
def merge0 (hs es : List (Nat × Token)) : Merge := { inst := 1, node := 0, port := 0, held := hs, ends := es }

theorem witness_TokensMoveAlongArcs :
    (let s := flow arc01 [consumer 3 0];
      s.arc? 1 0 = some arc01 ∧ s.inst? 1 = some inst2 ∧ inst2.state = .running ∧ s.stopped = false ∧ s.headOf arc01 = some tok ∧
      s.clonedConsumer arc01 = false ∧ (match s.pass arc01 (arc01.arrive tok) false with
        | .took _ => true
        | _ => false) = true ∧
      s.facet? 1 1 0 0 = some (consumer 3 0) ∧ ((consumer 3 0).ins.getD 0 []).length < 4 ∧ tok.kind < 2 ∧
      (consumer 3 0).discards 0 (arc01.arrive tok) = false ∧ s.holdsBack arc01 = false ∧ arc01.cc = false ∧ arc01.cport < 4) ∧
    (match (flow arc01 [consumer 4 0]).pass arc01 (arc01.arrive tok) false with
        | .full => true
        | _ => false) = true ∧
    (let s := flow arc01 [consumer 0 0, consumer 0 1];
      s.headOf arc01 = some tok ∧ s.clonedConsumer arc01 = true ∧ tok.kind ≠ 3 ∧ s.holdsBack arc01 = false ∧
      (match s.dealTo 1 1 0 (arc01.arrive tok) false with
        | .took _ => true
        | _ => false) = true) ∧
    (let a := ringArc true;
      let s := { flow a [] with engines := [sink 0] }
      let head := s.ringToken inst2 a tok
      s.arc? 1 0 = some a ∧ a.ring = [tok] ∧ s.clonedConsumer a = false ∧ (match head.1.pass a head.2 true with
        | .took _ => true
        | _ => false) = true) ∧
    (let a := ringArc true;
      let p : HeldPage := { ctx := 0, va := 0, size := 65536, pa := 0x50000 }
      let i := { inst2 with pinned := [p] }
      let s := { flow a [] with insts := [i], poison := [0x50000] }
      s.inst? 1 = some i ∧ i.pinned.find? (fun p => p.ctx == i.ctx && p.va ≤ a.ringVa i.spillBase 0 && a.ringVa i.spillBase 0 < p.va + p.size) = some p ∧
      s.place (p.pa + (a.ringVa i.spillBase 0 - p.va)) = some (.hbm 0x50000) ∧ s.poisoned 0x50000 24 = true) ∧
    (let a := ringArc false;
      let s := { flow a [] with engines := [sink 4] }
      s.headOf a = some tok ∧ a.sp = true ∧ a.ring.length < a.spcap ∧ s.channelFull a (a.arrive tok) = true ∧
      s.ringMember a (a.arrive tok) = none ∧ (match s.storeVa 0 (a.ringVa inst2.spillBase 0) (a.arrive tok).bytes with
        | .ok _ => true
        | .error _ => false) = true) ∧
    (∀ seen ∈ [[], [9]], let a := { ringArc (!seen.isEmpty) with word := 0x1600010000 }
      let u := { consumer 4 0 with vmode := 1, firstMem := [seen, [], [], []] }
      let s := { flow a [u] with facets := [{ producer with outs := [[⟨ver4, 1⟩], [], [], []] }, u] }
      s.headOf a = some ver4 ∧ a.sp = true ∧ a.ring.length < a.spcap ∧ s.channelFull a (a.arrive ver4) = true ∧
      s.ringMember a (a.arrive ver4) = some u ∧ a.cport < 4 ∧ u.discards 0 (a.arrive ver4) = !seen.isEmpty ∧
      (match (s.modFacet 1 1 0 0 fun v => v.remember 0 (a.arrive ver4)).storeVa 0 (a.ringVa inst2.spillBase a.ring.length) (a.arrive ver4).bytes with
        | .ok _ => true
        | .error _ => false) = true) ∧
    (∀ m ∈ [merge0 [(0, { tok with deal := 0 })] [], merge0 [] [(0, end0), (1, end0)]], let s := { flow arc01 [{ unit0 with clone := 1, rank := 1 }] with merges := [m], facets := [unit0, { unit0 with clone := 1, rank := 1 }] }
      s.mergesAt 1 0 0 = [m] ∧ s.mergeOf m.inst m.arc = some m ∧ (s.mergeIntake m (s.clonesOf 1 0)).mergeOf m.inst m.arc = some m ∧ m.count < 16 ∧
      (m.held.find? (fun p => p.2.deal == m.next)).isSome = !m.held.isEmpty ∧ (m.held = [] → (s.clonesOf 1 0).all m.ended = true)) ∧
    (let m := merge0 [] [];
      let s := { flow arc01 [] with
        merges := [m], facets := [{ unit0 with deal := 1 }, { unit0 with clone := 1, rank := 1 }], splitters := [{ inst := 1, node := 0, order := [0] }] }
      (s.mergeIntake m (s.clonesOf 1 0)).mergeOf m.inst m.arc = some m ∧ (s.clonesOf 1 0).all m.ended = false ∧
      (s.mergeIntake m (s.clonesOf 1 0)).pastDeal m m.next = true) ∧
    (∀ p ∈ [1, 2], let h := { hand .full {} with arr := p, atgt := 1, arrQueue := [tok] }
      let s := { flow arc01 [consumer 0 0] with handles := [h], conds := porter [] 0 :: List.replicate 191 {} }
      s.handle? 0 0 = some h ∧ h.inst = 1 ∧ h.arrQueue = [tok]) ∧
    (let h := { hand .full {} with arr := 1, atgt := 7, arrQueue := [tok] };
      let s := { flow arc01 [] with handles := [h], conds := porter [] 0 :: List.replicate 191 {} }
      s.leadRegion 1 = some 0 ∧ (match s.toCond 0 7 tok with
        | .took _ => true
        | _ => false) = true) ∧
    (let h := { hand .full {} with arr := 2, atgt := 1, arrQueue := [tok] };
      let s := { flow arc01 [consumer 0 0] with handles := [h] }
      (s.clonesOf 1 1).length ≤ 1 ∧ (match s.arrivalTo 1 1 h.ach tok with
        | .took _ => true
        | _ => false) = true) := by
  and_intros <;> decide +kernel

/-! ### NULL, END and ceases -/

/-- A facet of node 0 with input 0 and output 0 declared, `t` at that input, and slot 0 as given. -/
def passer (h0 : List Token) (c0 : List Token) (w : BitVec 64) : FacetUnit :=
  { unit0 with ins := [h0, [], [], []], cins := [c0, []], indecl := 1, outdecl := 1, slots := w :: List.replicate 15 0x00000003EFBEF800 }

/-- ADD.B v0, i0, v1; STEER o0, i0, c0; MERGEU v0, i0, i1, c0. -/
def addSlot : BitVec 64 := slotWord 0x10 0 16 1 31 0
def steerSlot : BitVec 64 := slotWord 0x06 24 16 31 0 0
def mergeuSlot : BitVec 64 := slotWord 0x09 0 16 17 0 0

/-- The device with that facet alone. -/
def solo (u : FacetUnit) : State := { pair inst2 with facets := [u] }

/-- R42: a NULL at the one input goes out as a NULL; END finishes the node. R176: a STEER drops its NULL with the control token. -/
theorem test_null_and_end :
    after (.facetNullHandling 0 0) (solo (passer [null0] [] addSlot)) (fun t => t.facets.map fun u => (u.ins, u.outs.map fun l => l.map fun e => e.tok.kind)) =
      some [([[], [], [], []], [[1], [], [], []])] ∧
    after (.facetEndHandling 0 0) (solo (passer [end0] [] addSlot)) (fun t => t.facets.map fun u => (u.finished, u.outs.map fun l => l.map fun e => e.tok.kind)) =
      some [(true, [[2], [], [], []])] ∧
    after (.steerMergeNull 0 0) (solo (passer [null0] [tok] steerSlot)) (fun t => t.facets.map fun u => (u.ins, u.cins)) =
      some [([[], [], [], []], [[], []])] := by decide +kernel

/-- What every clause about a facet's tokens needs of its unit. -/
def handles0 (u : FacetUnit) : Bool :=
  (solo u).handlers 0 0 == [u] && (solo u).facet? 1 0 0 0 == some u && u.ins.length == 4 && u.outs.length == 4 && (solo u).chainOf u == [u]

theorem witness_NullAndEndAreHandled :
    (let u := passer [null0] [] addSlot; handles0 u = true ∧ u.nullReady = true) ∧
    (let u := passer [end0] [] addSlot; handles0 u = true ∧ u.endHeads = true ∧ u.buffersFree = true ∧ (u.program.any fun i => (steerWord i).isSome) = false) ∧
    (let u := passer [end0] [] steerSlot;
      handles0 u = true ∧ u.endHeads = true ∧ u.buffersFree = true ∧ (u.program.any fun i => (steerWord i).isSome) = true ∧ u.unevenEnd = false) ∧
    (let u := passer [end0] [tok] steerSlot; handles0 u = true ∧ u.endHeads = true ∧ u.unevenEnd = true) ∧
    (let u := passer [null0] [tok] steerSlot;
      handles0 u = true ∧ (u.program.find? (fun i => (u.steerNull ((solo u).facetMask u) ((solo u).hbOf u.agent) i).isSome)).isSome = true ∧
      (u.program.all fun i => (u.steerNull (((solo u).sees u.agent (u.steerPops i)).facetMask u) (((solo u).sees u.agent (u.steerPops i)).hbOf u.agent) i).isSome
        || (u.steerNull ((solo u).facetMask u) ((solo u).hbOf u.agent) i).isNone) = true ∧ u.outs = [[], [], [], []] ∧
      u.head 0 = some null0 ∧ null0.kind = 1 ∧ u.ctlHead 0 = true) ∧
    (let u := passer [null0] [] mergeuSlot;
      handles0 u = true ∧ (u.program.filterMap mergeuWord).map (fun w => (w.a, w.b)) = [(.pop 0, .pop 1)] ∧ u.headKind 0 = some 1) ∧
    (let u := { passer [tok] [] mergeuSlot with ins := [[tok], [null0], [], []] };
      handles0 u = true ∧ u.headKind 0 ≠ some 1 ∧ u.headKind 1 = some 1) ∧
    (let u := { island0 with ins := [[null0], [], []] };
      let s := { pair inst2 with islands := [u] }
      s.island? 0 0 = some u ∧ s.islandActs u = true ∧ u.outs.length = 5 ∧ u.head 0 = some null0 ∧ u.empty = true ∧
      ((List.range 4).filter (s.hasArc 1 0)).all u.room = true) ∧
    (let u := { island0 with ins := [[], [null0], []] };
      u.head 0 = none ∧ u.head 1 = some null0) ∧
    (let u := { island0 with ins := [[end0], [], []] };
      let s := { pair inst2 with islands := [u] }
      let fed := (List.range 3).filter (s.fedPort 1 0)
      fed = [0] ∧ (∀ p ∈ fed, (u.head p).map Token.kind = some 2) ∧ u.reload = none ∧ (∀ t ∈ u.tiles, t.snap = none) ∧
      ((List.range 5).filter (s.hasArc 1 0)).all u.room = true) ∧
    (∀ t ∈ [null0, end0], let e := { node0 with ins := [t] }
      let s := { pair inst2 with engines := [e] }
      s.engine? 1 0 = some e ∧ e.idle = true ∧ s.running 1 = true ∧ s.engineRoom e = true ∧ ∀ x ∈ e.outs, x.mask = 0) := by decide +kernel

/-- A cease of SEQ 9 against `arc01`, and one against `arc10`. -/
def cease0 (k : Nat) : CeaseTok := { inst := 1, arc := k, seq := 9 }

/-- An island of node 0 whose tile 0 accumulates SEQ 9. -/
def accumulating : IslandUnit := { island0 with tiles := [{ state := .accum, seqacc := 9 }, {}] }

theorem witness_CeasesAndSettling :
    (∀ u ∈ [island0, accumulating], let s := { pair inst2 with islands := [u], ceases := [cease0 0] }
      s.ceaseAt 0 = some (cease0 0, arc01) ∧ s.running 1 = true ∧ arc01.pc = false ∧ (cease0 0).poison = false ∧
      s.islands.find? (fun u => !arc01.pc && u.inst == arc01.inst && u.node == arc01.pnode) = some u) ∧
    ([0, 1].find? (fun t => (island0.tile t).state != .empty && (island0.tile t).seqacc == 9 && !(island0.tile t).ceased) = none) ∧
    ([0, 1].find? (fun t => (accumulating.tile t).state != .empty && (accumulating.tile t).seqacc == 9 && !(accumulating.tile t).ceased) = some 0) ∧
    (accumulating.tile 0).owed = false ∧ accumulating.diagAt = none ∧ island0.diagAt = none ∧
    (∀ cs ∈ [[], [(9 : BitVec 16)]], let u := { unit0 with ceases := cs }
      let s := { pair inst2 with facets := [u], ceases := [cease0 0] }
      s.ceaseAt 0 = some (cease0 0, arc01) ∧ s.facet? 1 0 0 0 = some u) ∧
    (let s := { pair inst2 with engines := [node0], ceases := [cease0 0] };
      s.ceaseAt 0 = some (cease0 0, arc01) ∧ (s.engine? 1 0).isSome = true) ∧
    (∀ l ∈ [[], [0]], let i := { inst2 with versSince := l }
      let s := { pair i with islands := [island0] }
      s.inst? 1 = some i ∧ s.running 1 = true ∧ i.settledNow.contains 0 = false ∧ 0 < i.image.levels.length ∧ s.isSettled i 0 = true ∧
      (∀ u ∈ s.islands, u.setWait = none) ∧ i.versSince.contains 0 = !l.isEmpty) ∧
    (let u := { island0 with contain := true };
      let s := { pair inst2 with islands := [u] }
      s.island? 0 0 = some u ∧ s.inst? u.inst = some inst2 ∧ s.running u.inst = true ∧ u.broken = false ∧ (recentErrors s.clk u.errTimes).length < 3 ∧ u.firing = none) := by
  decide +kernel

/-! ### Chains, walks, multicast and scrubs -/

/-- The two members of a chain, its leader's firing of slot 0 having reached member `n`. -/
def leader (n : Nat) : FacetUnit := { passer [] [] (slotWord 0x01 0 1 31 31 0) with chain := 2, chainFire := some (0, n), indecl := 0 }
def follower : FacetUnit := { leader 0 with pos := 1, rank := 1, chainFire := none }

/-- A facet whose firing of slot 0 a BREAK has held. -/
def broken (w : BitVec 64) : FacetUnit := { passer [] [] w with brk := some 0 }

/-- A facet at a breakpoint on the word `w`. -/
def atBreak (w : Word64) : Prop :=
  (solo (broken w)).facetsAt 0 0 = [broken w] ∧ (solo (broken w)).mayAct 0 0 = true ∧ (broken w).pos = 0 ∧
    (solo (broken w)).running (broken w).inst = true ∧ (broken w).passBreak = false ∧ (broken w).chainFire = none

theorem atBreak_brk : atBreak (slotWord 0xD1 31 31 31 31 0) := by unfold atBreak; decide +kernel
theorem atBreak_add : atBreak addSlot := by unfold atBreak; decide +kernel

theorem witness_ChainsFireTogether :
    (∀ n ∈ [0, 1], let s := { pair inst2 with facets := [leader n, follower] }
      s.facetsAt 0 0 = [leader n] ∧ s.facetsAt 0 1 = [follower] ∧ s.mayAct 0 0 = true ∧ s.mayAct 0 1 = true ∧ s.facet? 1 0 0 0 = some (leader n) ∧ (leader n).chainFire = some (0, n) ∧
      (leader n).chain = 2 ∧ s.running 1 = true) ∧
    ((leader 0).pos = min 0 (2 - 1) ∧ follower.pos = min 1 (2 - 1)) ∧
    (∀ v ∈ [leader 0, follower], ({ pair inst2 with facets := [leader 0, follower] } : State).memberMay (leader 0) v 0 = true) ∧
    (∃ i, (leader 1).instr 0 = some i) ∧
    atBreak (slotWord 0xD1 31 31 31 31 0) ∧ atBreak addSlot ∧
    (∃ w, (broken (slotWord 0xD1 31 31 31 31 0)).instr 0 = some (.brk w)) ∧ ∃ sz w, (broken addSlot).instr 0 = some (.facetAdd sz w) := by
  refine ⟨by decide +kernel, by decide, ?_, ⟨_, rfl⟩, atBreak_brk, atBreak_add, ⟨_, rfl⟩, _, _, rfl⟩
  intro v hv
  simp only [List.mem_cons, List.not_mem_nil, or_false] at hv
  rcases hv with rfl | rfl <;> rfl

/-- A descriptor of a multicast read of 1,024 bytes at 0, to regions 0 and 4 of the die. -/
def mcCmd : StreamCmd :=
  { issuer := .conductor 0, ctx := 0, inst := 1, store := false, free := false, handle := 0, slot := 0
    desc := put 0x30 8 0x11 (put 0xC 4 1024 (put 8 1 0x80 zero64)) }

def rec0 (left : Option Nat) : MergeRec := { slice := 0, line := 0, ctx := 0, mask := 1, joined := [(0, 0)], hint := 0, opened := 0, left := left }

theorem witness_WalksMulticastAndScrubs :
    (let w : Walk := ⟨0, 0, 0, 0x10000000000, { write := true }⟩;
      let s := { mapped lead with walksWaiting := [w] }
      s.walksWaiting.find? (fun w => w.die == 0) = some w ∧ s.walk w.ctx w.va.toNat = none) ∧
    (let w : Walk := ⟨0, 0, 0, 0x1000, { write := true }⟩;
      let s := { mapped lead with walksWaiting := [w] }
      s.walksWaiting.find? (fun w => w.die == 0) = some w ∧ s.walk w.ctx w.va.toNat = some ⟨0x300000, 0x7B, 2 ^ 30⟩) ∧
    (let h := { hand .filling {} with bytes := 1024 };
      let s := { life led inst1 with handles := [h], streams := [(0, 0, [mcCmd])], clk := 100000
                                     tlb := [{ region := 0, ctx := 0, va := 0, size := 65536, leaf := 0x7B }] }
      s.stream 0 0 = [mcCmd] ∧ s.handle? 0 0 = some h ∧ (Desc.ofBytes mcCmd.desc).mc = true ∧ mcCmd.mcWait = false ∧ mcCmd.single = false ∧ mcCmd.line = [] ∧ s.running 1 = true ∧
      mcCmd.off < h.bytes ∧
      (match s.expireRecords.engineTarget (engineActor 0 1 0 (.stream 0 0) []) 0 false with
        | .ok s' (.hbm a) => a == 0 && s'.mergeRecs.isEmpty
        | _ => false) = true ∧ s.heldBack mcCmd.behind = false) ∧
    (let m : MergeRec := { rec0 none with mask := 0x11, joined := [(4, 0)] };
      m.line == 0 / 1024 && m.ctx == mcCmd.ctx && m.mask.toNat == (Desc.ofBytes mcCmd.desc).mask && m.left.isNone) ∧
    (let s := { life led inst1 with streams := [(0, 0, [{ mcCmd with mcWait := true }])], mergeRecs := [rec0 none], clk := 64 };
      s.mergeRec 0 0 = some (rec0 none) ∧ (rec0 none).joined.Nodup ∧ s.stream 0 0 = [{ mcCmd with mcWait := true }]) ∧
    (let s := { State.reset with mergeRecs := [rec0 none], clk := 64 };
      s.mergeRec 0 0 = some (rec0 none) ∧ (rec0 none).closed s.clk = true) ∧
    (let s := { State.reset with mergeRecs := [rec0 (some 10)], clk := 1034 };
      s.mergeRec 0 0 = some (rec0 (some 10)) ∧ 10 + 1024 ≤ s.clk) ∧
    (State.reset.stopped = false ∧ (0x7FFFFFFFFF : Nat) < 2 ^ 39 ∧ State.reset.store.retired.length < 1024 ∧ State.reset.latent = []) ∧
    (let x : L2Line := ⟨0, 0, 1, 5, 0xFF, 0, 0, false, 0, false⟩;
      (mapped lead).l2.find? (fun x => x.slice == 0 && x.set == 0 && x.way == 1) = some x ∧ x.dirty = 0 ∧ (mapped lead).wayOut 0 0 1 = false) := by
  decide +kernel

/-! ### Streamers and islands -/

/-- A running command of streamer 0: `d` its descriptor, into or out of slot 0 of handle 0. -/
def cmd (store : Bool) (d : List Byte) (chase : Option Word64) : StreamCmd := { mcCmd with store := store, desc := d, chase := chase, linkDue := chase.isSome }

/-- A device in which region 0 may spend, with that command. -/
def streaming (c : StreamCmd) : State :=
  { withHandle (hand (if c.store then .draining else .filling) {}) [c] with tlb := [{ region := 0, ctx := 0, va := 0, size := 65536, leaf := 0x10007B }] }

/-- Whether an access answered in whole. -/
def allOf (x : Gather) : Bool :=
  match x with
  | .all _ bs => bs.all fun b => !b.2
  | _ => false

/-- A streamer node with a command for slot 0 of handle 0 at its port, and a chord engine node with a put. -/
def cmdNode (p : Word128) (chord : Bool) : EngineNode := { node0 with isChord := chord, ins := [{ payload := p, side := 0 }] }

theorem witness_StreamersMoveUnits :
    (∀ c ∈ [cmd false (put 0xC 4 16 zero64) none, cmd true (put 0xC 4 16 zero64) none], let s := streaming c
      let d := Desc.ofBytes c.desc
      let x := engineActor 0 c.inst c.ctx (.stream 0 0) c.arrived
      ∀ h ∈ s.handle? 0 0, s.stream 0 0 = [c] ∧ s.running c.inst = true ∧ c.mcWait = false ∧ c.linkDue = false ∧ d.mc = false ∧ d.kind < 2 ∧
        c.line = [] ∧ c.single = false ∧ c.off < h.bytes ∧ s.affords 0 (500 * 16) = true ∧ c.unitLen d h.bytes = 16 ∧
        c.unitLen d h.bytes = min 128 h.bytes ∧ s.heldBack c.behind = false ∧
        (if c.store then ((s.debit 0 (500 * 16)).writeRuns x d.hint (splitDue true (unitRuns (s.storePieces d h c 16))).1).2
          else ((s.debit 0 (500 * 16)).readUnit x d c 16).2.2.2) = none) ∧
    (let c := { cmd false (put 0xC 4 16 zero64) none with line := List.replicate 16 (0, false) }; c.line ≠ [] ∧ (streaming c).stream 0 0 = [c]) ∧
    (let c := cmd false (put 0xC 4 16 (put 8 1 2 zero64)) (some 0);
      let s := streaming c
      let d := Desc.ofBytes c.desc
      s.stream 0 0 = [c] ∧ c.linkDue = true ∧ c.off < (hand .filling {}).bytes ∧
      allOf (s.gather (engineActor 0 1 0 (.stream 0 0) []) d.hint 2 ((0 + d.extc) % 2 ^ 64) 8) = true) ∧
    (let e := cmdNode 0x1000 false;
      let s := { withHandle (hand .free {}) [] with engines := [e] }
      let x : Actor := { engineActor 0 1 0 (.node 1 0) [] with agent := .engine 1 0 }
      s.engine? 1 0 = some e ∧ s.inst? 1 = some inst1 ∧ s.running 1 = true ∧ e.ins = [{ payload := 0x1000, side := 0 }] ∧
      e.faulted = false ∧ e.finished = false ∧ e.isChord = false ∧
      (match ((s.observe (.engine 1 0) []).orderAfter (.engine 1 0) {}).stream1 x (.node 1 0) 0x1000 0 0 false false false with
        | .status _ k => k == 0
        | _ => false) = true) ∧
    (let e := cmdNode 0 true;
      let s := { withHandle (hand .full peer1) [] with engines := [e] }
      let x : Actor := { engineActor 0 1 0 (.node 1 0) [] with agent := .engine 1 0 }
      let z := (s.observe (.engine 1 0) []).orderAfter (.engine 1 0) {}
      e.isChord = true ∧ z.handleFor 0 0 0 = some (hand .full peer1) ∧ lzsendOperand 0 2 = some (0, 0) ∧
      (match (z.modEngine 1 0 fun v => { v with ins := [], arrived := [], pending := v.pending + 1 }).put x (.node 1 0) e.unit
          (hand .full peer1) 0 true 0 0 16 with
        | .status _ k => k == 0
        | _ => false) = true) := by decide +kernel

/-- An island whose tile 0 is enabled, K 1 and NF 1, route 0 to handle 1 (F32, one row), with an A token at port 0 and weights. -/
def tile0 : Tile := { acfg := 0x8001000000000000, route3 := 0x80000001 }
def weights0 : Weights := { fmt := 1, kb := 1, dec := [⟨4, [], none, false, 0⟩, ⟨4, [], none, false, 0⟩], uses := 0 }
def slotTok : Token := { payload := 0, side := 0 }
def island1 : IslandUnit := { island0 with tiles := [tile0, {}], weights := some weights0, ins := [[slotTok], [], []] }

/-- Handle 0 of int8 operands, its slot 0 as given, and handle 1 of 256 bytes of F32. -/
def operand (st : SlotState) : Handle := { hand st {} with fmt := 1, bytes := 64 }
def result (st : SlotState) : Handle := { hand st {} with num := 1, fmt := 12, bytes := 256, slots := [{ state := st }] }
def matrix (u : IslandUnit) (h1 : Handle) : State := { withHandle (operand .full) [] with islands := [u], handles := [operand .full, h1] }

/-- A firing of tile 0 on diagonal `d`, split by a freeze or not. -/
def fire0 (d : Nat) (split : Bool) : Machine.Firing :=
  { tile := 0, k := 1, ma := 4, mb := 4, ps := 0, d := d, a := [], maxA := 0, maxB := 0, handle := 0, slot := 0, fmt := 1, awin := 0, auto := false, fillAt := 1
    filled := true, due := 1, split := split }

/-- Whether the operand at a port stands ready in slot 0 of handle 0. -/
def operandIs (x : IslandOp) (h : Handle) : Bool :=
  match x with
  | .ok g sl t => g == h && sl == 0 && t == slotTok
  | _ => false

theorem witness_IslandsFire :
    (∀ u ∈ [island1, { island1 with weights := none, ins := [[], [slotTok], []] }, { island1 with reload := some (0, 0, 1) }],
      (matrix u (result .free)).island? 0 0 = some u ∧ (matrix u (result .free)).islandActs u = true ∧ u.tiles.length = 2) ∧
    (let u := { island1 with weights := none, ins := [[], [slotTok], []] };
      let s := matrix u (result .free)
      u.reload = none ∧ u.firing = none ∧ u.reloadDue = true ∧ operandIs (s.islandOperand u 1) (operand .full) = true ∧ (operand .full).fmt < 12 ∧
      bcfgKb u.bcfg * 64 * elemBits 1 / 8 ≤ (operand .full).bytes ∧ s.affords 0 (bcfgKb u.bcfg * 64 * elemBits 1 / 8 * 1000) = true) ∧
    (let u := { island1 with reload := some (0, 0, 1) };
      1 ≤ (matrix u (result .free)).clk ∧ (matrix u (result .free)).handle? 0 0 = some (operand .full) ∧ 0 < (operand .full).slots.length) ∧
    (∀ sp, let w := { weights0 with spoiled := sp };
      let u := { island1 with weights := some w };
      let s := matrix u (result .free);
      let x := u.tile 0
      let e := routeEntry x.route3 x.route4 0
      s.island? 0 0 = some u ∧ s.islandActs u = true ∧ u.tiles.length = 2 ∧ u.turnTile = some 0 ∧ u.firing = none ∧ u.reload = none ∧
      u.reloadDue = false ∧ s.fedPort 1 0 2 = false ∧
      operandIs (s.islandOperand u 0) (operand .full) = true ∧ x.state = .empty ∧ e.v = true ∧ s.destHandle u e = some (result .free) ∧
      (s.freeSlot (result .free)).isSome = true ∧ (result .free).fmt = pregFo x.preg ∧ (result .free).bytes * 8 = e.nr * 64 * elemBits (pregFo x.preg) ∧
      acfgK x.acfg ≤ w.kb ∧ aPast x.acfg x.awin 1 64 = false ∧ s.affords 0 (firingCost (acfgK x.acfg) (pregMa x.preg) 4) = true) ∧
    (∀ sp ∈ [[], [65]], let x := { tile0 with state := .accum, lAcfg := 0x8003000000000000, lRoute3 := 0x80000001, spoiled := sp };
      let u := { island1 with tiles := [x, {}] };
      let s := matrix u (result .free);
      s.island? 0 0 = some u ∧ s.islandActs u = true ∧ u.tiles.length = 2 ∧ u.turnTile = some 0 ∧ u.weights = some weights0 ∧
      weights0.spoiled = false ∧ u.firing = none ∧ u.reload = none ∧ u.reloadDue = false ∧
      operandIs (s.islandOperand u 0) (operand .full) = true ∧ x.ceased = false ∧ x.entry.v = true ∧
      s.destHandle u x.entry = some (result .free) ∧ (result .free).fmt = pregFo x.preg ∧
      (result .free).bytes * 8 = x.entry.nr * 64 * elemBits (pregFo x.preg) ∧ acfgK x.lAcfg ≤ weights0.kb ∧
      aPast x.lAcfg x.awin 1 64 = false ∧ s.affords 0 (firingCost (acfgK x.lAcfg) (pregMa x.preg) 4) = true) ∧
    (let u := { island1 with ins := [[slotTok], [], [slotTok]] };
      let s := { matrix u (result .free) with arcs := [{ inst := 1, idx := 0, word := 0x20000001 }] }
      u.turnTile = some 0 ∧ (u.tile 0).state = .empty ∧ s.fedPort 1 0 2 = true ∧ (u.head 2).map Token.kind = some 0 ∧
      (u.head 2).map Token.psn = some false ∧ operandIs (s.islandOperand u 0) (operand .full) = true ∧
      routeEntry (u.tile 0).route3 (u.tile 0).route4 (Word.field slotTok.payload 1 0) = routeEntry tile0.route3 tile0.route4 0) ∧
    (let s := matrix { island1 with firing := some (fire0 6 true) } (result .free);
      ((s.inst? 1).map s.freezeDue).getD false = false ∧ s.affords 0 2000000 = true ∧ ({ s with energy := [] } : State).affords 0 2000000 = false ∧
      ((({ s with pins := { shdn := true } } : State).inst? 1).map ({ s with pins := { shdn := true } } : State).freezeDue).getD false = true) ∧
    ((fire0 6 true).split = true ∧ (fire0 6 false).due ≤ (matrix island1 (result .free)).clk ∧ (fire0 0 false).d = 0 ∧
      0 + 1 < acfgNf 0x8003000000000000) ∧
    (let x := { tile0 with state := .accum, ceased := true, lAcfg := 0x8003000000000000 };
      let u := { island1 with tiles := [x, {}] }
      u.turnTile = some 0 ∧ u.reload = none ∧ operandIs ((matrix u (result .free)).islandOperand u 0) (operand .full) = true) := by
  and_intros <;> first | decide +kernel | rfl

/-- A tile in FINAL, with the route latched; and a snapshot of it draining row `r` into slot 0 of handle 1. -/
def final0 : Tile := { tile0 with state := .final, lRoute3 := 0x80000001, lAcfg := 0x8001000000000000, owed := true }
def draining (r : Nat) : Snap := { snap0 with busy := true, handle := 1, row := r, rowAt := 0 }

theorem witness_VersionsArePublished :
    (let u := { island1 with tiles := [final0, {}] };
      let s := matrix u (result .free)
      s.island? 0 0 = some u ∧ s.islandActs u = true ∧ u.tiles.length = 2 ∧ u.outs.length = 5 ∧ (u.tile 0).state = .final ∧ (u.tile 0).owed = true ∧
      s.pubSlot u 0 = some (result .free, 0)) ∧
    (∀ r ∈ [0, 1], let x := { final0 with snap := some (draining r) }
      let u := { island1 with tiles := [x, {}] }
      let s := matrix u (result .filling)
      s.island? 0 0 = some u ∧ (draining r).busy = true ∧ (r < x.entry.nr ↔ r = 0) ∧ (draining r).rowAt < s.clk ∧ (draining r).col = 0 ∧
      s.affords 0 rowCost = true ∧ s.handle? 0 1 = some (result .filling) ∧ 0 < (result .filling).slots.length ∧
      (∀ k, k < 64 → (draining r).spoiled.contains (64 * (x.entry.row0 + r) + k) = false ∧
        (((x.drainOf (draining 0)).rowElems (x.entry.row0 + 0)).map Drained.subnormal).getD k false = false) ∧
      u.room x.entry.port = true ∧ x.entry.port < 5) ∧
    (let q := final0.drainOf { draining 0 with acc := [0, 1], anchor := -128 };
      let es := q.rowElems final0.entry.row0
      (es.map Drained.subnormal).getD 0 false = false ∧ (es.map Drained.subnormal).getD 1 false = true) ∧
    (let p := { draining 0 with spoiled := [2] };
      let x := { final0 with snap := some p }
      let es := (x.drainOf p).rowElems final0.entry.row0
      (matrix { island1 with tiles := [x, {}] } (result .filling)).affords 0 rowCost = true ∧ 64 * (final0.entry.row0 + 0) = 0 ∧
      p.spoiled.contains 2 = true ∧ ∀ j, j < 2 → p.spoiled.contains j = false ∧ (es.map Drained.subnormal).getD j false = false) ∧
    (let x := { final0 with owed := false, repeats := true };
      x.state = .final ∧ x.repeats = true ∧ x.snapFree = true) := by decide +kernel

/-! ### Puts, landing zones, ports and flits -/

/-- A put of 200 bytes from slot 0 of handle 0 to device 1, on port 0 or 1. -/
def put1 : Put :=
  { id := 1, issuer := .conductor 0, inst := 1, ctx := 0, region := 0, handle := 0, slot := 0, lzsend := true, src := 0, start := 0, fin := 200
    next := 0, acked := 0, port := some 0, kind := .scaleUp, route := 3, target := 1, ztag := 0x77, timeout := 50 }

/-- Ports 0 and 1 of the fabric: up with 8 lanes, or down. -/
def portUp0 : Machine.Port := { en := true, state := 2, lanes := 8, good := 8 }
def portDown0 : Machine.Port := { en := true, state := 4 }

/-- A device that sends `p`, with the ports given. -/
def sender (p : Put) (x y : Machine.Port) : State :=
  { withHandle (hand .draining peer1) [] with chords := [(0, { puts := [p] })], sup := x :: y :: List.replicate 30 {}, clk := 100000 }

/-- A chord flit of device 5 for slot 0 of handle 0 of region 0. -/
def flit (typ off attr : Nat) (z : BitVec 32) : Flit :=
  { typ := typ, src := 5, dst := 0, ctx := 5, txid := 1, addr := BitVec.ofNat 64 (off * 2 ^ 32), ztag := z, attr := BitVec.ofNat 32 attr
    psn := 0, payload := [1, 2, 3, 4, 5, 6, 7, 8] }

theorem witness_PutsAreSent :
    (let s := sender put1 portUp0 portUp0;
      ((s.chord 0).puts.filter fun p => s.running p.inst) = [put1] ∧ s.canSend put1 = true ∧ put1.port = some 0 ∧ put1.lzsend = true ∧
      s.handle? put1.region put1.handle = some (hand .draining peer1) ∧ s.affords put1.region (1000 * min 128 (put1.fin - put1.next)) = true ∧ put1.fin < 2 ^ 32) ∧
    (∀ f ∈ [flit 8 0 0 0x77, flit 8 0 3 0x77, flit 8 0 4 0x77], (sender put1 portUp0 portUp0).putOf f.txid = some (0, put1)) ∧
    (let f := flit 8 0 0 0x77; f.attr = 0 ∧ f.off ≤ put1.acked ∧ put1.acked ≤ f.off + 128 ∧ f.off + 128 < put1.fin) ∧
    (let f := flit 8 128 0 0x77;
      let p := { put1 with acked := 128 };
      (sender p portUp0 portUp0).putOf f.txid = some (0, p) ∧ f.attr = 0 ∧ f.off ≤ p.acked ∧ p.acked ≤ f.off + 128 ∧ p.fin ≤ f.off + 128 ∧
      p.acked ≤ p.fin) ∧
    (let f := flit 8 0 3 0x77; f.attr ≠ 0 ∧ f.attr ≠ 4) ∧ (flit 8 0 4 0x77).attr = 4 ∧
    (let p := { put1 with quietAt := some 0 };
      let s := sender p portDown0 portUp0
      let s := { s with insts := [{ inst1 with counted := 5000 }] }
      (s.chord 0).puts.find? (fun x => x.id == p.id) = some p ∧ s.running p.inst = true ∧ p.expired (s.countedOf p.inst) = false ∧
      p.port = some 0 ∧ 0 + 5000 ≤ s.countedOf p.inst ∧ (s.moveRequest p.id).nextChosen p.route 0 = some 1 ∧ (s.moveRequest p.id).portUp p.kind 1 = true) ∧
    (let p := { put1 with quietAt := some 0 };
      let s := sender p portDown0 { portDown0 with downAt := 100000 }
      let s := { s with insts := [{ inst1 with counted := 5000 }] }
      (s.chord 0).puts.find? (fun x => x.id == p.id) = some p ∧ (s.moveRequest p.id).nextChosen p.route 0 = some 1 ∧ (s.moveRequest p.id).portUp p.kind 1 = false) ∧
    (let p := { put1 with quietAt := some 0, port := none };
      let s := sender p portDown0 portUp0
      (s.chord 0).puts.find? (fun x => x.id == p.id) = some p ∧ s.running p.inst = true ∧ p.expired (s.countedOf p.inst) = false ∧
      (s.moveRequest p.id).firstPort p.route = some 1) ∧
    (let p := { put1 with failAt := some 0 };
      let s := sender p portDown0 portDown0
      let s := { s with insts := [{ inst1 with counted := 50000 }] }
      (s.chord 0).puts.find? (fun x => x.id == p.id) = some p ∧ s.running p.inst = true ∧ p.expired (s.countedOf p.inst) = true) ∧
    (let p := { put1 with next := 200 };
      let s := sender p portUp0 portUp0
      (s.chord 0).puts.find? (fun x => x.id == p.id) = some p ∧ p.port = some 0 ∧ s.stopped = false ∧ s.portUp p.kind 0 = true ∧ s.toReceiver p = [p] ∧
      ∀ x ∈ s.toReceiver p, s.canSend x = false ∧ x.keepAt + 1000 ≤ s.clk) ∧
    (put1.slot < (hand .draining peer1).recs.length ∧ put1.acked < 2 ^ 32) := by decide +kernel

/-- Slot 0 held by context 5 of device 5 and filled to byte 8, as a handle whose sender is context 5. -/
def held (st : SlotState) : Handle :=
  { hand st {} with bytes := 64, slots := [{ state := st, wptr := 8, holder := some (5, 5), lastPort := some (.scaleUp, 0) }, {}] }

/-- What a packet under the tag of slot 0 needs. -/
def lands (s : State) (f : Flit) (h : Handle) : Prop :=
  let z := s.hear f.sender
  z.landing f = some h ∧ s.handle? h.region h.num = some h ∧ f.slot < h.slots.length ∧ h.ztag f.slot = f.ztag ∧ s.running h.inst = true

theorem lands_held (n : Nat) (h : n ∈ [8, 9]) : lands (withHandle (held .filling) []) (flit 7 n 0 0) (held .filling) ∧
    ((held .filling).slot 0).heldBy (flit 7 n 0 0) = true := by
  unfold lands
  revert n
  decide +kernel

theorem lands_free : lands (withHandle (hand .free {}) []) (flit 7 0 0 0) (hand .free {}) ∧
    ((hand .free {}).slot 0).heldBy (flit 7 0 0 0) = false := by
  unfold lands
  decide +kernel

theorem witness_LandingZonesReceive :
    (∀ h ∈ [hand .free {}, hand .full {}, { hand .free {} with peer := 6 }], (withHandle h []).handle? (flit 9 0 0 0).region (flit 9 0 0 0).handle = some h ∧
      (flit 9 0 0 0).slot < h.slots.length) ∧
    ((hand .free {}).rw = true ∧ (hand .free {}).peer = (flit 9 0 0 0).ctx ∧ ({ hand .free {} with peer := 6 } : Handle).peer ≠ (flit 9 0 0 0).ctx ∧
      ((hand .full {}).slot 0).granted (withHandle (hand .full {}) []).clk (flit 9 0 0 0) = false ∧
      (withHandle (hand .free {}) []).isFree ((hand .free {}).slot 0) = true ∧ (withHandle (hand .full {}) []).isFree ((hand .full {}).slot 0) = false) ∧
    (let f := flit 9 0 2 0;
      let x : HSlot := { state := .reserved, holder := some (5, 5), grant := (2, 1) };
      let y : HSlot := { state := .reserved, holder := some (5, 7), grant := (3, 9), metAt := some 1 };
      x.repeats f = true ∧ x.state = .reserved ∧ x.holder = some (f.sender, f.ctx) ∧ x.grant.2 = f.txid ∧
      y.repeats f = false ∧ y.state = .reserved ∧ y.metAt = some (withHandle (hand .free {}) []).clk ∧ y.granted 1 f = true ∧
      y.granted 1 (flit 9 0 3 0) = false ∧ y.granted 1 (flit 9 0 4 0) = false) ∧
    (let s := { withHandle (held .filling) [] with insts := [{ inst1 with state := .saved }] };
      ((s.hear 5).landing (flit 7 8 0 0)) = some (held .filling) ∧ s.running (held .filling).inst = false) ∧
    (let f := flit 11 0 0 0;
      let s := withHandle (held .aborted) [];
      (s.hear f.sender).landing f = some (held .aborted) ∧ ((held .aborted).slot 0).heldBy f = true ∧
      ((held .aborted).slot 0).metAt ≠ some s.clk ∧ ((held .aborted).slot 0).state = .aborted) ∧
    (let s := { withHandle (held .filling) [] with sup := portUp0 :: List.replicate 31 {}, clk := 4000, heard := [(5, 1000)] };
      s.portUp .scaleUp 0 = true ∧ ((held .filling).slot 0).lastPort = some (.scaleUp, 0) ∧ ((held .filling).slot 0).holder = some (5, 5) ∧
      lookup s.heard 0 5 + 3000 ≤ s.clk) ∧
    (let x := (held .filling).slot 0;
      x.state = .filling ∧ x.wptr < (flit 7 9 0 0).off ∧ (flit 7 8 0 0).off = x.wptr ∧ (flit 7 8 0 0).payload ≠ [] ∧
      x.wptr + (flit 7 8 0 0).payload.length < (held .filling).bytes) ∧
    ((withHandle (held .filling) []).hear 5).landing { flit 7 0 0 0 with addr := 0x900 } = none ∧
    (∀ n ∈ [0, 1], let f := flit 11 0 n 0
      let s := withHandle (held .filling) []
      ((s.hear f.sender).reply f 12 0 f.ztag 0).landing f = some (held .filling) ∧ s.handle? 0 0 = some (held .filling) ∧
        ((held .filling).slot 0).heldBy f = true ∧ ((held .filling).slot 0).metAt ≠ some s.clk) ∧
    (∀ n ∈ [0, 3], let f := flit 10 64 n 9
      let s := { withHandle (hand .free {}) [] with resvs := [resv none] }
      s.resvs.find? (fun v => BitVec.ofNat 16 v.tx == f.txid && (v.answer.isNone || v.late)) = some (resv none) ∧ (resv none).late = false ∧
      s.handle? 0 0 = some (hand .free {}) ∧ (resv none).slot < (hand .free {}).recs.length) ∧
    (let s := { withHandle (hand .free {}) [] with resvs := [resv none], insts := [{ inst1 with counted := 50000 }] };
      s.resvs.find? (fun y => y.tx == 1) = some (resv none) ∧ (resv none).answer = none ∧ (resv none).counted + 1000 * (resv none).timeout ≤ s.countedOf 1) ∧
    (let s := withHandle (held .filling) [];
      s.handle? 0 0 = some (held .filling) ∧ ((held .filling).slot 0).seenFail = none ∧ s.portUp .scaleUp 0 = false) ∧
    (let h := { held .filling with slots := [{ state := .filling, seenFail := some 0 }] };
      let i := { inst1 with counted := 50000 }
      let s := { withHandle h [] with insts := [i] }
      s.handle? 0 0 = some h ∧ s.inst? h.inst = some i ∧ 0 + 1000 * i.lztimeout ≤ i.counted) := by
  and_intros <;> decide +kernel

/-- A record that the packet was sent under, one of another tag, and one whose target is another handle. -/
theorem witness_RevokedPacketsAreCounted :
    let f := flit 8 0 4 0x77
    let y : PeerRec := { valid := true, target := 5, ztag := 0x77, status := 0x0300 }
    (y.ztag = f.ztag ∧ routeKind y.route = f.net ∧ Word.field y.target 27 0 = f.src.toNat + 256 * Word.field f.addr 19 0) ∧
    ({ y with ztag := 0x78 } : PeerRec).ztag ≠ f.ztag ∧
    Word.field ({ y with target := 0x105 } : PeerRec).target 27 0 ≠ f.src.toNat + 256 * Word.field f.addr 19 0 ∧
    f.attr = 4 ∧ ((withHandle (hand .free {}) []).hear f.sender).putOf f.txid = none := by decide +kernel

/-- The answer to a reservation given up, whose route the table still gives. -/
theorem witness_LateGrantsAreReleased :
    let v : Resv := { resv (some (answerWord 0 0 3)) with late := true }
    let f := flit 10 64 0 9
    let s := { withHandle (hand .free {}) [] with resvs := [v] }
    s.resvs.find? (fun v => BitVec.ofNat 16 v.tx == f.txid && (v.answer.isNone || v.late)) = some v ∧ v.late = true ∧ f.attr = 0 ∧
    ((s.hear f.sender).routeAnew v.inst f.ctx (Word.field v.target 39 36) v.route).2 = some routeDefault := by decide +kernel

/-- A device whose port 0 of each kind is `x`. -/
def ported (x : Machine.Port) : State := { State.reset with sup := x :: List.replicate 31 {}, sop := x :: List.replicate 31 {}, clk := 200000000 }

/-- A flit sent on port 0 and replayed `n` times. -/
def sent (n : Nat) : Sent := { kind := .scaleUp, port := 0, flit := flit 1 0 8 0, seq := 1, tries := n }

theorem witness_PortsTrainAndFail :
    (∀ k ∈ [PortKind.scaleUp, .scaleOut], ∀ x ∈ [{}, portUp0, portDown0], (ported x).stopped = false ∧ (ported x).port k 0 = x ∧
      (match k with
        | .scaleUp => decide (0 < (ported x).sup.length)
        | .scaleOut => decide (0 < (ported x).sop.length)) = true) ∧
    (({} : Machine.Port).en = false ∧ ({} : Machine.Port).held = false ∧ portUp0.en = true ∧ portDown0.state = 4 ∧
      portDown0.since + 1000000 ≤ (ported portDown0).clk ∧
      Word.field (ported {}).regs.socfg 15 0 = 0 ∧ Word.field ({ ported {} with regs := { socfg := 0x88B5 } } : State).regs.socfg 15 0 ≠ 0 ∧
      ({ held := true } : Machine.Port).held = true) ∧
    (let x : Machine.Port := { en := true, state := 1, since := 150000000 }; x.state = 1 ∧ (ported x).clk < x.since + 100000000) ∧
    (let x : Machine.Port := { en := true, state := 1, since := 100000000 }; x.state = 1 ∧ x.since + 100000000 ≤ (ported x).clk) ∧
    (32 ≤ ({ portUp0 with rxBad := 32 } : Machine.Port).rxBad) ∧
    (let x := { portUp0 with unacked := [sent 32] }; (ported x).portUp .scaleUp 0 = true ∧ (ported x).portUp .scaleOut 0 = true ∧
      x.lastRx + 1000 ≤ (ported x).clk ∧ 32 ≤ x.replays ∧ x.spare = 0xF ∧ 4 < x.good) ∧
    (let x := { portUp0 with spare := 2, good := 4 }; (ported x).portUp .scaleUp 0 = true ∧ x.spare ≠ 0xF ∧ x.good ≤ 4) := by decide +kernel

/-- The bytes of a flit before its CRC, in eight parts: TYPE `t` at byte 0, SRC 5 and DST `d`. -/
def rawHead (t d : Byte) : List Byte := [t, 5, d] ++ List.replicate 28 0
def zeros31 : List Byte := List.replicate 31 0
def rawBody (t d : Byte) : List Byte :=
  rawHead t d ++ (zeros31 ++ (zeros31 ++ (zeros31 ++ (zeros31 ++ (zeros31 ++ (zeros31 ++ zeros31))))))

/-- The 256 bytes of a flit with the CRC `c` (R346). -/
def rawFlit (t d : Byte) (c : Nat) : List Byte := rawBody t d ++ Word.toBytes 8 c

/-- One byte of the CRC. -/
def crcByte (c : BitVec 64) (b : Byte) : BitVec 64 := [7, 6, 5, 4, 3, 2, 1, 0].foldl (fun c k => crcBit c (b.getLsbD k)) c

/-- The CRC after a further 31 zeros. -/
theorem crc_chunk {xs ys : List Byte} {c : BitVec 64} (d : BitVec 64) (h : xs.foldl crcByte c = d) :
    (xs ++ ys).foldl crcByte c = ys.foldl crcByte d := by rw [List.foldl_append, h]

theorem crc_of_1 : crc64 (rawBody 1 0) = 0x29344C4496FFB592 := by
  show (rawBody 1 0).foldl crcByte 0 = _
  unfold rawBody
  rw [crc_chunk 0x4440FCB3CA6F8C5 (by decide +kernel),
    crc_chunk 0x7DFAE0F954E092BC (by decide +kernel),
    crc_chunk 0x68689F5A4C1F6B65 (by decide +kernel),
    crc_chunk 0xA5D232141BDEF9A5 (by decide +kernel),
    crc_chunk 0xEFC3156DB53C4C3A (by decide +kernel),
    crc_chunk 0x7B4FFD66E6B3B7EC (by decide +kernel),
    crc_chunk 0xEE4AB63A2AB36C5E (by decide +kernel)]
  decide +kernel

theorem crc_of_8 : crc64 (rawBody 8 0) = 0xB47FFE91783546C4 := by
  show (rawBody 8 0).foldl crcByte 0 = _
  unfold rawBody
  rw [crc_chunk 0xE2B6A8A6D61AEA7E (by decide +kernel),
    crc_chunk 0x39A3BBEA769F002 (by decide +kernel),
    crc_chunk 0x5346AEC230B8FA2E (by decide +kernel),
    crc_chunk 0xB2047DA64467E54D (by decide +kernel),
    crc_chunk 0x1B6E15CCD9EB4510 (by decide +kernel),
    crc_chunk 0x880C92E2F6409E2B (by decide +kernel),
    crc_chunk 0xF245711A195A88B5 (by decide +kernel)]
  decide +kernel

theorem crc_of_15 : crc64 (rawBody 15 0) = 0x116CF84BAD50587 := by
  show (rawBody 15 0).foldl crcByte 0 = _
  unfold rawBody
  rw [crc_chunk 0x7EB76ADB1728F666 (by decide +kernel),
    crc_chunk 0x29BA7283F6112E68 (by decide +kernel),
    crc_chunk 0x45A341B5E4DA7517 (by decide +kernel),
    crc_chunk 0x7EE6186EE9A90364 (by decide +kernel),
    crc_chunk 0x48F515AC0259BDF6 (by decide +kernel),
    crc_chunk 0x189DE8C79EB794E7 (by decide +kernel),
    crc_chunk 0x38106CA36F5BC69D (by decide +kernel)]
  decide +kernel

def crcOf1 : Nat := 0x29344C4496FFB592
def crcOf8 : Nat := 0xB47FFE91783546C4
def crcOf15 : Nat := 0x116CF84BAD50587

theorem crcOk_of {t d : Byte} {c : Nat} (h : crc64 (rawBody t d) = BitVec.ofNat 64 c) (hc : c < 2 ^ 64)
    (hf : fieldAt (rawFlit t d c) 0xF8 8 = c) : crcOk (rawFlit t d c) = true := by
  have hb : (rawBody t d).length = 0xF8 := by
    simp only [rawBody, rawHead, zeros31, List.length_append, List.length_replicate, List.length_cons, List.length_nil]
  have ht : (rawFlit t d c).take 0xF8 = rawBody t d := List.take_left' hb
  have hl : (rawFlit t d c).length = 256 := by rw [rawFlit, List.length_append, hb]; simp [Word.toBytes]
  simp only [crcOk, ht, hl, h, hf, BitVec.toNat_ofNat, Nat.mod_eq_of_lt hc, beq_self_eq_true, Bool.and_self]

theorem crcOk_1 : crcOk (rawFlit 1 0 crcOf1) = true := crcOk_of crc_of_1 (by decide) (by decide +kernel)
theorem crcOk_8 : crcOk (rawFlit 8 0 crcOf8) = true := crcOk_of crc_of_8 (by decide) (by decide +kernel)
theorem crcOk_15 : crcOk (rawFlit 15 0 crcOf15) = true := crcOk_of crc_of_15 (by decide) (by decide +kernel)

/-- A frame of PSEQ 1 that carries a flit of TYPE 8. -/
def rawFrame : List Byte := [1, 0, 0, 0, 0, 0, 0, 0, 1, 0, 0, 0, 0, 0, 0, 0] ++ rawFlit 8 0 crcOf8

theorem witness_FlitsAreActedOn :
    (crcOk (rawFlit 1 0 crcOf1) = true ∧ crcOk (rawFlit 15 0 crcOf15) = true ∧ crcOk (rawFrame.drop 16) = true) ∧
    (let x := { portUp0 with unacked := [sent 0, { sent 3 with seq := 2 }], rxSeq := 7 };
      (ported x).portUp .scaleUp 0 = true ∧ 0 < (ported x).sup.length ∧ x.unacked.length = 2) ∧
    (let f := flit 1 0 8 0
      let g := { flit 3 0 8 0 with payload := List.replicate 8 1 }
      f.net = .scaleUp ∧ f.typ < 256 ∧ ({ f with payload := [] } : Flit).payload.length % 16 = 0 ∧ g.typ = 3 ∧ g.attr.toNat = g.payload.length) ∧
    (fieldAt (rawFlit 1 0 crcOf1) 0xE0 4 ≠ (portUp0.rxSeq + 1) % 2 ^ 32 ∧
      ∀ n ∈ [1, 15], fieldAt (rawFlit n 0 0) 0xE0 4 = (({ portUp0 with rxSeq := 0xFFFFFFFF } : Machine.Port).rxSeq + 1) % 2 ^ 32) ∧
    (let s := { ported portUp0 with regs := { sopeer := [(0, 0x8000000000000000)] } };
      s.portUp .scaleUp 0 = true ∧ s.portUp .scaleOut 0 = true ∧ 0 < s.sup.length ∧ Word.bit (lookup s.regs.sopeer 0 0) 63 = true ∧
      seqAfter (fieldAt rawFrame 0 4) (lookup s.peers {} 0).pack = true ∧ (lookup s.peers {} 0).ahead.contains (fieldAt rawFrame 0 4) = false) ∧
    (fieldAt rawFrame 8 1 = 1 ∧ rawFrame.length = 272 ∧ 6 < (flitOf (rawFrame.drop 16)).typ ∧
      (flitOf (rawFrame.drop 16)).typ < 15 ∧ (flitStep .scaleOut 0 (flitOf (rawFrame.drop 16))).isSome = true) ∧
    (crcOk [0] = false ∧ 15 ≤ (flitOf (rawFlit 15 0 crcOf15)).typ ∧
      (flitOf (rawFlit 1 0 crcOf1)).dst = (ported portUp0).devId ∧ (flitOf (rawFlit 1 7 0)).dst ≠ (ported portUp0).devId ∧ (flitOf (rawFlit 1 0 crcOf1)).typ < 15 ∧
      (flitStep .scaleUp 0 (flitOf (rawFlit 1 0 crcOf1))).isSome = true) ∧
    (∀ n ∈ [0, 8], let f : Frame := { pseq := 1, port := 0, sentAt := 0, resends := n, flit := flit 8 0 0 0 }
      let s := { ported portUp0 with peers := [(0, { unacked := [f] })] }
      (lookup s.peers {} 0).unacked.find? (fun f => f.pseq == 1) = some f ∧ s.portUp .scaleOut f.port = true ∧ f.sentAt + 8000 ≤ s.clk) ∧
    (∀ n ∈ [1, 3, 5], let f : Flit := { flit n 0 0x10 0 with addr := 0x100000 }
      (ported portUp0).localPlace (f.addr.toNat % 2 ^ 44) = some (.hbm 0x100000) ∧ 0 < f.attr.toNat ∧ f.attr.toNat ≤ 192 ∧
      f.attr.getLsbD 4 = true ∧ f.attr.getLsbD 16 = false ∧
      (ported portUp0).placeToWrite ((ported portUp0).devId.toNat * 2 ^ 44 + f.addr.toNat % 2 ^ 44) = some (.hbm 0x100000) ∧ f.attr.toNat % 16 = 0 ∧ 0x100000 % 8 = 0 ∧ (ported portUp0).poisoned 0x100000 8 = false ∧
      (ported portUp0).performed = []) ∧
    (let q : Flit := { flit 1 0 8 0 with dst := 5 };
      let x : Txn := { waiting with flit := q, returns := true }
      let f := flit 2 0 0 0
      [x].find? (fun t => t.isAccess && t.flit.txid == f.txid && t.flit.dst == f.src && (f.typ == t.flit.typ + 1 || f.typ == 13)) = some x ∧
      x.returns = true ∧ x.flit.typ = 1 ∧ f.attr = 0 ∧ f.typ = 2) ∧
    (let q : Flit := { flit 1 0 8 0 with dst := 1 };
      let x : Txn := { waiting with flit := q }
      let s := { ported portUp0 with txns := [x], regs := { domrt := [(1, 1)] } }
      x.isAccess = true ∧ x.flit.dst.toNat = 1 ∧ x.port = none ∧ x.quietAt = none ∧ s.domPath.find? (fun y => y.1 == 1) = none ∧
      s.domainNext 1 0 = some 0 ∧ s.replies = []) ∧
    (let q : Flit := { flit 1 0 8 0 with dst := 1 };
      let x : Txn := { waiting with flit := q, port := some 0, quietAt := some 0 }
      let s := { ported portDown0 with txns := [x], regs := { domrt := [(1, 3)] }, domPath := [(1, 0)], sup := [portDown0, portUp0] }
      let z := { s with regs := { domrt := [(1, 2)] } }
      x.isAccess = true ∧ 0 + 5000 ≤ s.clk ∧ s.domPath.find? (fun y => y.1 == 1) = some (1, 0) ∧ s.serves 1 0 = true ∧
      s.domainNext 1 1 = some 1 ∧ z.serves 1 0 = false ∧ z.domainNext 1 0 = some 1) ∧
    ((ported portUp0).domainPort (flit 1 0 8 0).src.toNat = none ∧ (flit 1 0 8 0).net = .scaleUp) ∧
    (∀ b ∈ [true, false], let x : Txn := { waiting with flit := flit 1 0 8 0, returns := b }
      [x].find? (fun t => t.tx == x.tx) = some x ∧ x.isAccess = true ∧ x.issued + 1000000 ≤ (ported portUp0).clk) := by
  refine ⟨⟨crcOk_1, crcOk_15, crcOk_8⟩, by decide +kernel, ?_⟩
  and_intros <;> decide +kernel

/-! ### The device's own steps -/

/-- A facet whose node runs, contained or out of use as given. -/
def ailing (contain suspect broken : Bool) : FacetUnit :=
  { passer [] [] addSlot with contain := contain, suspect := suspect, broken := broken }

/-- Checkpoint registers 0 of 8 granules, their map at 0x1000 of context 0. -/
def check0 (status : Nat) (ctx : BitVec 12) : Checkpoint := { idx := 0, cnt := 8, map := 0x1000, dst := 0x200000, ctx := ctx, status := status }

/-- A device with those registers. -/
def checking (c : Checkpoint) : State := { mapped lead with checks := [c] }

/-- Whether an access, or a walk over CKMAP, reached its end. -/
def walked {α : Type} (x : Acc α) : Bool :=
  match x with
  | .ok _ _ => true
  | _ => false

/-- Whether it failed. -/
def refused {α : Type} (x : Acc α) : Bool :=
  match x with
  | .bad _ _ => true
  | _ => false

theorem witness_RepairAndCheckpoints :
    (let u := ailing true true false;
      let s := solo u
      s.facetsAt 0 0 = [u] ∧ u.contain = true ∧ u.suspect = true ∧ s.running u.inst = true ∧ s.facet? u.inst u.node u.clone u.pos = some u ∧
      let recent := fun (s : State) => (s.facetErrs.filter fun x => x.1 == 0 && x.2.1 == 0 && s.clk < x.2.2 + 1000000).length;
      recent { s with facetErrs := [(0, 0, 0), (0, 1, 0)] } < 3 ∧ 3 ≤ recent { s with facetErrs := [(0, 0, 0), (0, 0, 0), (0, 0, 0)] }) ∧
    (let u := ailing true false true;
      let s := solo u
      s.facetsAt 0 0 = [u] ∧ u.broken = true ∧ s.inst? u.inst = some inst2 ∧ s.running u.inst = true ∧ inst2.ctl.wave = none ∧
      s.debugged inst2 = false ∧ u.chain = 1 ∧ s.chainOf u = [u] ∧ s.wf ∧
      (s.repairOf 0).dead.contains 0 = false ∧ s.facet? u.inst u.node u.clone u.pos = some u ∧
      let z : State := { s with store := { repair := [{ region := 0, dead := [0] }] } };
      (z.repairOf 0).dead.contains 0 = true ∧ z.facetsAt 0 0 = [u] ∧
      (0 :: inst2.regions.filter fun q => q != 0).findSome? (fun q => (z.freePlace inst2.id [u] q).map fun p => (q, p)) = some (0, 1)) ∧
    (let u := ailing false false false;
      (solo u).facet? inst2.id 0 0 0 = some u ∧ (solo u).inst? inst2.id = some inst2 ∧ inst2.ctx.toNat = Word.field (0 : Word64) 43 32 ∧
      0 = Word.field (0 : Word64) 11 0 ∧ 0 = Word.field (0 : Word64) 14 12) ∧
    (let c := check0 0 0;
      let s := checking c
      s.stopped = false ∧ s.check 0 = c ∧ c.status ≠ 1 ∧ ({ c with cnt := 0 } : Checkpoint).cnt.toNat = 0 ∧ 0 < c.cnt.toNat ∧ c.cnt.toNat ≤ 2 ^ 24 ∧
      walked (s.overMap c (State.collectByte c) (List.range ((c.cnt.toNat + 7) / 8))) = true ∧
      walked (s.overMap c (State.copyByte c) (List.range ((c.cnt.toNat + 7) / 8))) = true) ∧
    (let c := check0 0 9;
      refused ((checking c).overMap c (State.collectByte c) (List.range ((c.cnt.toNat + 7) / 8))) = true) ∧
    (let c := check0 0 0;
      let s := checking c
      walked (s.loadClean c.actor (c.map.toNat + 0) 1) = true ∧ (match s.storeVa c.ctx (c.map.toNat + 0) [1] with
        | .ok _ => true
        | .error _ => false) = true) ∧
    (checking (check0 1 0)).check 0 = check0 1 0 := by
  and_intros <;> decide +kernel

/-- R376: granule 0 is mapped, dirty or not as its leaf says (to host memory where its leaf is moved there), and granules past the first gigabyte are not; its bytes go to host memory. -/
theorem witness_CheckpointBitsStandForGranules :
    let c := { check0 0 0 with dst := 0x10000000000 }
    let s := checking c
    (s.walk 0 0).isSome = true ∧ s.walk 0 (2 ^ 40) = none ∧ s.ckdstOk c 0 = true ∧
    walked (State.copyOut c { s with mem := tables ++ [(0x300005, 1)] } 0) = true ∧
    (sound s ∧ ((s.walk 0 0).map fun l => (pteA l.entry, s.place (pteAddr l.entry + 0 % l.size))) = some (true, some (.hbm 0))) ∧
    s.localPlace (0x10000000000 % 2 ^ 44) = some (.host 0x10000000000) ∧
    s.localPlace ((0x10000000000 + 128 * 511) % 2 ^ 44) = some (.host (0x10000000000 + 128 * 511)) :=
  ⟨by decide +kernel, by decide +kernel, by decide +kernel, by decide +kernel,
    ⟨⟨by decide +kernel, by decide +kernel⟩, by decide +kernel⟩, by decide +kernel, by decide +kernel⟩

/-- A device that PWRGD has held for 100 ms, with step levels as given. -/
def waitingBoot (ls : List (Nat × Nat)) : State :=
  { State.reset with pins := { perst := true, pwrgd := true }, clk := 100000000, store := { levels := ls } }

/-- A boot in which step `n` fails, or none. -/
def boot0 (n : Option Nat) : BootRun := ⟨n, 7, [], [], 0, 0, false, []⟩

theorem witness_PowerAndBoot :
    (∀ ls ∈ [[], [(2, 1)]], let s := waitingBoot ls
      s.pins.perst = true ∧ s.pins.pwrgd = true ∧ s.pins.pwrgdAt + 100000000 ≤ s.clk) ∧
    (let x := (waitingBoot [(2, 1)]).cold.store; ∃ n ∈ [1, 2, 3, 4, 5, 6, 7, 8, 9, 10], alternates n < x.level n) ∧
    (let x := (waitingBoot []).cold.store;
      (∀ n ∈ [1, 2, 3, 4, 5, 6, 7, 8, 9, 10], x.level n ≤ alternates n) ∧
      (x.boots (boot0 none) [1, 2, 3, 4, 5, 6, 7, 8, 9, 10]).2 = none ∧
      (x.boots { boot0 none with idTaken := true } [1, 2, 3, 4, 5, 6, 7, 8, 9, 10]).2 = some 9 ∧
      (({ x with levels := [(9, 1)] } : Store).boots { boot0 none with idTaken := true } [1, 2, 3, 4, 5, 6, 7, 8, 9, 10]).2 = none ∧
      (x.boots (boot0 (some 2)) [1, 2, 3, 4, 5, 6, 7, 8, 9, 10]).2 = some 2) ∧
    (let s : State := { waitingBoot [] with pins := { pwrgd := true }, boot := { again := true } };
      s.boot.again = true ∧ s.pins.pwrgd = true ∧ s.pins.pwrgdAt + 100000000 ≤ s.clk) ∧
    115 ≤ (115 : BitVec 8).toNat ∧ (114 : BitVec 8).toNat < 115 ∧
    (∀ u ∈ [passer [] [] addSlot, { passer [] [] addSlot with chainFire := some (0, 1) }],
      let z : State := { solo u with pins := { (solo u).pins with shdn := true } };
      (solo u).stopped = false ∧ z.insts = [inst2] ∧ inst2.state = .running ∧ z.atBoundary inst2 = u.chainFire.isNone) ∧
    (∀ at_ ∈ [0, 20000], let s : State := { life lead inst1 with clk := 10000, regs := { powerAt := at_ } };
      s.stopped = false ∧ s.refillAt ≤ s.clk ∧ s.insts = [inst1] ∧ inst1.state = .running ∧ inst1.regions = [0] ∧ 0 < s.energy.length ∧
      (s.regs.powerAt ≤ s.clk ↔ at_ = 0)) := by
  and_intros <;> decide +kernel

theorem witness_BootStepsRun :
    (let b := boot0 none; b.failStep = none ∧ b.badQuads = [] ∧ b.badWays = [] ∧ b.badSup = 0 ∧ b.badSop = 0 ∧ b.idTaken = false) ∧
    (∀ n ∈ [1, 5], (boot0 (some n)).failStep = some n) ∧
    (let b := { boot0 none with badQuads := [3] };
      3 ∈ b.badQuads ∧ b.failStep = none ∧ ({} : Store).level 6 = 0 ∧ 3 ∉ ({} : Store).quadsOut ∧ ({} : Store).staged = [] ∧
      ({ levels := [(6, 1)] } : Store).level 6 = 1) := by
  and_intros <;> decide +kernel

/-- A device whose VF 1 has context 0 and key slot 3. -/
def virtual : State :=
  { mapped lead with
    regs := { vfctx := [(1, 0x8000000000000000)] }
    ctxs := [{ id := 0, root := 0x200000, key := 0x80000003 }]
    keys := [⟨3, 1, 9, 0⟩], tdis := [(1, 9)] }

/-- A signed image of version 1. -/
def image1 : StagedImage := { kind := 0, version := 1, sigOk := true, digest := 0 }

theorem witness_HostReachesTheDevice :
    (virtual.boot.recovery = false ∧ 0x1000 < 2 ^ 36 ∧
      virtual.localPlace ((virtual.regs.winbase.toNat + 0x1000) % 2 ^ 44) = some (.hbm 0x1000)) ∧
    (Word.bit (lookup virtual.regs.vfctx 0 1) 63 = true ∧ (0 : BitVec 12) = (lookup virtual.regs.vfctx 0 1).extractLsb' 0 12 ∧
      (match virtual.translateNow 0 ((lookup virtual.regs.vfbase 0 1).toNat + 0x1000) { write := false } with
        | .ok (z, pa) => decide (z.place pa = some (.hbm 0x1000) ∧ z.latent = [] ∧ ∀ y ∈ z.l2, y.bad = false)
        | .error _ => false) = true ∧
      (match virtual.translateNow 0 ((lookup virtual.regs.vfbase 0 1).toNat + 0x1000) { write := true } with
        | .ok (z, pa) => decide (z.placeToWrite pa = some (.hbm 0x1000))
        | .error _ => false) = true ∧ Word.bit (lookup virtual.regs.vfctx 0 2) 63 = false) ∧
    (let s : State := { virtual with regs := { winbase := 0x20000000000, cxlwin := 1 :: List.replicate 7 0 } };
      s.localPlace ((s.regs.winbase.toNat + 0x1000) % 2 ^ 44) = some (.cxl 0x20000001000)) ∧
    (let v : Word64 := 0x0000_01CC_0000_0640;
      400 ≤ Word.field v 15 0 ∧ Word.field v 15 0 ≤ 1600 ∧ Word.field v 47 32 < Word.field v 15 0) ∧
    (let v : Word64 := 399; Word.field v 15 0 < 400) ∧ (let v : Word64 := 1601; 1600 < Word.field v 15 0) ∧
    (let v : Word64 := 0x0000_0190_0000_0190; Word.field v 15 0 ≤ Word.field v 47 32) ∧
    (∀ n ∈ [70, 105], let v : Word64 := BitVec.ofNat 64 (n * 2 ^ 48); 70 ≤ Word.field v 55 48 ∧ Word.field v 55 48 ≤ 105) ∧
    (∀ n ∈ [69, 106], let v : Word64 := BitVec.ofNat 64 (n * 2 ^ 48); Word.field v 55 48 < 70 ∨ 105 < Word.field v 55 48) ∧
    0 < virtual.regs.cxlwin.length ∧ virtual.regRead 0x38 = none ∧ ((virtual.tdis.find? fun x => x.1 == 1) = some (1, 9)) ∧ (virtual.tdis.find? fun x => x.1 == 2) = none ∧
    (∀ k ∈ virtual.keys, k.slot = 3 → k.vf = 1) ∧
    (let c : Context := { id := 0, root := 0x200000, key := 0x80000003 };
      ⟨3, 1, 9, 0⟩ ∈ virtual.keys ∧ virtual.context? c.id = some c ∧ c.state = 0 ∧ c.key.getLsbD 31 = true ∧ c.key.toNat % 256 = 3) ∧
    (image1.sigOk = true ∧ virtual.store.rollback ≤ image1.version ∧ image1.version < ({ rollback := 2 } : Store).rollback) := by decide +kernel

/-! ### The machine as a whole -/

/-- The conductor of region 0 as a fetch finds it after reset. -/
def cond0 : Conductor := { bskip := true }

/-- What the fetch of a conductor's word answers: whether it is paid for and decodes. -/
def fetched (s : State) (c : Conductor) : Option (Bool × Bool) :=
  match s.fetch 0 c with
  | .word s1 w => some ((s1.issueCost 0 c w).isSome, match Decode.conductor w with
      | .ok _ => true
      | .error _ => false)
  | _ => none

/-- A device about to take conductor 0's turn, its word `w` placed. -/
def turn0 (w : Nat) : State := State.reset.withFetchWord 32 w

theorem witness_StepRunsDecoded :
    (∀ w ∈ [0x08400008, 0], let z := { turn0 w with agenda := [], cur := { region := 0 } }
      (turn0 w).agenda = .conductor 0 :: [] ∧ z.cond? 0 = some cond0 ∧ z.condRuns cond0 = true ∧ z.mayAct 0 64 = true ∧
      (!cond0.pl && !cond0.bskip && z.matched 0 cond0) = false) ∧
    fetched { turn0 0x08400008 with agenda := [] } cond0 = some (true, true) ∧ fetched { turn0 0 with agenda := [] } cond0 = some (true, false) ∧
    (let c := { cond0 with pc := 2 };
      let z := { State.reset with conds := c :: List.replicate 191 {} }
      z.cond? 0 = some c ∧ z.condRuns c = true ∧ z.mayAct 0 64 = true ∧ (!c.pl && !c.bskip && z.matched 0 c) = false ∧
      (match z.fetch 0 c with
        | .fault k => decide (k = .misalign)
        | _ => false) = true) ∧
    (let z := { turn0 0x08400008 with agenda := [], cur := { region := 0 } };
      Word.field cond0.pc 63 56 = 0 ∧ cond0.pc.toNat % 4 = 0 ∧ cond0.ic = [] ∧ cond0.inst = none ∧
      (match z.translate 0 (z.ctxOf 0) cond0.pc.toNat { fetch := true, sys := cond0.pl } with
        | .ok pa => match z.place (pa / 128 * 128) with
          | some (.hbm x) => !z.poisoned x 128
          | _ => false
        | _ => false) = true) := by decide +kernel

theorem witness_StepRunsDecodedFacet :
    let s := State.reset.withFetchWord 64 0x000000900084F800
    s.agenda = .facet 0 0 :: [] ∧ State.mayAct { s with agenda := [] } 0 0 = true ∧ (match State.facetChoice { s with agenda := [] } 0 0 with
      | .fire u k _ _ => match Decode.facet (u.slots.getD k 0) with
        | .ok _ => true
        | .error _ => false
      | .nothing => false) = true := by decide +kernel

theorem witness_StepTakesTheNextTurn : State.reset.agenda = [] ∧ ({ State.reset with agenda := [.clock] } : State).agenda = .clock :: [] ∧
    ({ State.reset with agenda := [.event .shdn] } : State).agenda = .event .shdn :: [] := ⟨rfl, rfl, rfl⟩

/-- What the claim on a facet's choice asks of a lone facet. -/
def alone (s : State) (u : FacetUnit) : Prop :=
  s.facetsAt 0 0 = [u] ∧ s.takesTurns u = true ∧ u.assist = none ∧ u.chainFire = none ∧ u.brk = none ∧ u.chain = 1 ∧
    s.switchDue u = false ∧ s.facet? u.inst u.node u.clone 0 = some u

theorem alone_full : alone (solo (passer [tok] [] addSlot)) (passer [tok] [] addSlot) := by unfold alone; decide +kernel
theorem alone_empty : alone (solo (passer [] [] addSlot)) (passer [] [] addSlot) := by unfold alone; decide +kernel

theorem witness_FacetFiresTheLowestReadySlot :
    alone (solo (passer [tok] [] addSlot)) (passer [tok] [] addSlot) ∧ alone (solo (passer [] [] addSlot)) (passer [] [] addSlot) ∧
    (solo (passer [tok] [] addSlot)).slotReady (passer [tok] [] addSlot) 0 = true ∧
    (∀ k, k < 16 → (solo (passer [] [] addSlot)).slotReady (passer [] [] addSlot) k = false) ∧
    (∃ sz w, Decode.facet ((passer [tok] [] addSlot).slots.getD 0 0) = .ok (.facetAdd sz w)) ∧
    ∃ w, Decode.facet ((passer [tok] [] addSlot).slots.getD 1 0) = .ok (.nop w) ∧ w.puAct = 0 :=
  ⟨alone_full, alone_empty, by decide +kernel, by decide +kernel, ⟨_, _, rfl⟩, _, rfl, rfl⟩

/-- R19: a facet that has fired in this clk has no second firing in it. -/
theorem test_one_firing_a_clk : let s := { solo (passer [tok] [] addSlot) with agenda := [.facet 0 0] }
    (match step s, step { s with acted := [(0, s.clk, 0)] } with
      | .next t, .next z => (t.facets.map fun u => u.ins.getD 0 [], z.facets.map fun u => u.ins.getD 0 [])
      | _, _ => ([], [])) = ([[]], [[tok]]) := by decide +kernel

theorem witness_DecodeAndEncodeAgree : (Instr.nop plainWord).wf = true ∧ (Encode.facet (.nop plainWord)).isSome = true ∧
    (Instr.addi 2 0 8).wf = true ∧ (Encode.conductor (.addi 2 0 8)).isSome = true ∧ (∃ i, Decode.conductor 0x08400008 = .ok i) ∧
    ∃ i, Decode.facet 0x000000900084F800 = .ok i := ⟨by decide, by decide, by decide, by decide, ⟨_, rfl⟩, _, rfl⟩

theorem witness_StepKeepsMemoryCanonical : State.reset.wf ∧ ∃ t, step State.reset = .next t := ⟨⟨rfl, rfl⟩, _, rfl⟩

theorem witness_MemoryReadsWhatWasWritten : Memory.wf [(1, 5), (3, 7)] = true := by decide

theorem witness_EveryStepAnswers :
    (∀ i rest, State.reset.agenda = .event i :: rest → Encode.conductor i = none ∧ Encode.facet i = none) ∧
    ∀ i rest, ({ State.reset with agenda := [.event .shdn] } : State).agenda = .event i :: rest →
      Encode.conductor i = none ∧ Encode.facet i = none := by
  refine ⟨fun i rest h => ?_, fun i rest h => ?_⟩
  · cases h
  · cases h; exact ⟨rfl, rfl⟩

end Sys2Proof.Tests
end

section
/-!
PROOFS. How a conductor's integer instruction ends, the rows of R213 and R215 as the decoder reads them, and the three obligations of the
conductor's arithmetic, its branches and LAYVER (R213, R215, R237).
-/
namespace Sys2Proof.Machine
open Sys2Proof.Claims

/-! ### How a conductor instruction ends, in the terms of the claims (R206, R212) -/

theorem settle_done_completed (s s' : State) (r : Nat) (c : Conductor) :
    settle s r c (.done s') = s'.completed r c (c.pc + 4) := rfl

theorem settle_jump_completed (s s' : State) (r : Nat) (c : Conductor) (pc : Word64) :
    settle s r c (.jump s' pc) = s'.completed r c pc := rfl

/-- A trap that found no memory error changes nothing but the conductor. -/
theorem settle_trapAt_tookTrap (s : State) (r : Nat) (c : Conductor) (cause : Cause) (a : Word64) :
    settle s r c (trapAt cause a) = s.tookTrap r { cause := cause, faddr := some a } := rfl

/-- A conductor instruction that completes with `s'`. -/
theorem conductor_done {s s' : State} {c : Conductor} {f : Nat → Conductor → CondRes} (hs : s.executes c)
    (hf : f s.cur.region c = .done s') : conductor s f = .next (s'.completed s.cur.region c (c.pc + 4)) := by
  rw [conductor_next f hs, hf, settle_done_completed]

/-- An instruction executed by `aluR` writes its function's value, by whatever expression that value is known. -/
theorem aluR_writes {s : State} {c : Conductor} {i : Instr} {f : Word64 → Word64 → Word64} {d a b : Reg} {v : Word64}
    (hs : s.executes c) (hi : exec i s = aluR f d a b s) (hv : f (c.get a) (c.get b) = v) :
    exec i s = .next ((s.setX s.cur.region d v).completed s.cur.region c (c.pc + 4)) := by
  subst hv
  rw [hi, aluR]
  exact conductor_done hs rfl

/-! ### The values of R213 as its table writes them -/

theorem ofNat_toNat_word (x : Word64) : BitVec.ofNat 64 x.toNat = x := by rw [BitVec.ofNat_toNat, BitVec.setWidth_eq]

theorem shiftLeft_eq_mul_ofNat (x : Word64) (n : Nat) : x <<< n = x * BitVec.ofNat 64 (2 ^ n) := by
  rw [BitVec.shiftLeft_eq_mul_twoPow]
  exact congrArg (x * ·) (BitVec.eq_of_toNat_eq (by rw [BitVec.toNat_twoPow, BitVec.toNat_ofNat]))

theorem ushiftRight_eq_ofNat_div (x : Word64) (n : Nat) : x >>> n = BitVec.ofNat 64 (x.toNat / 2 ^ n) := by
  rw [← Nat.shiftRight_eq_div_pow, ← BitVec.toNat_ushiftRight, ofNat_toNat_word]

theorem sshiftRight_eq_ofInt_div (x : Word64) (n : Nat) : x.sshiftRight n = BitVec.ofInt 64 (x.toInt / 2 ^ n) := by
  rw [BitVec.sshiftRight, Int.shiftRight_eq_div_pow, Nat.cast_pow, Nat.cast_ofNat]

/-- All ones, the quotient of a division by 0, is -1. -/
theorem allOnes_eq_neg_one : BitVec.allOnes 64 = -1 := BitVec.neg_one_eq_allOnes.symm

/-- DIVS is the truncated division of signed words but for the divisor 0. -/
theorem divS_eq_sdiv (x y : Word64) : divS x y = if y = 0 then -1 else x.sdiv y := by
  have hq : BitVec.ofInt 64 (x.toInt.tdiv y.toInt) = x.sdiv y :=
    BitVec.eq_of_toInt_eq (by rw [BitVec.toInt_ofInt, BitVec.toInt_sdiv])
  rw [divS, hq, allOnes_eq_neg_one]

theorem remS_eq_srem (x y : Word64) : remS x y = if y = 0 then x else x.srem y := by
  have hr : BitVec.ofInt 64 (x.toInt - y.toInt * x.toInt.tdiv y.toInt) = x.srem y := by
    rw [← Int.tmod_def, ← BitVec.toInt_srem, BitVec.ofInt_toInt]
  rw [remS, hr]

theorem divZ_eq_udiv (x y : Word64) : divZ x y = if y = 0 then -1 else x / y := by
  rw [divZ, ← BitVec.toNat_udiv, ofNat_toNat_word, allOnes_eq_neg_one]

theorem remZ_eq_umod (x y : Word64) : remZ x y = if y = 0 then x else x % y := by
  rw [remZ, ← BitVec.toNat_umod, ofNat_toNat_word]

section
variable {α : Type} [LinearOrder α] {val : Word64 → α} {word : α → Word64}

/-- The word whose reading is smaller, for a reading that `word` takes back. -/
theorem ite_lt_eq_word_min (hw : ∀ x, word (val x) = x) (x y : Word64) :
    (if val y < val x then y else x) = word (min (val x) (val y)) := by
  rw [min_comm, min_def_lt, apply_ite word, hw, hw]

/-- The word whose reading is larger, for a reading that `word` takes back. -/
theorem ite_lt_eq_word_max (hw : ∀ x, word (val x) = x) (x y : Word64) :
    (if val x < val y then y else x) = word (max (val x) (val y)) := by
  rw [max_def_lt, apply_ite word, hw, hw]

end

theorem mins_eq_ofInt_min (x y : Word64) : (if y.slt x then y else x) = BitVec.ofInt 64 (min x.toInt y.toInt) := by
  simpa only [BitVec.slt_iff_toInt_lt] using ite_lt_eq_word_min (fun _ => BitVec.ofInt_toInt) x y

theorem maxs_eq_ofInt_max (x y : Word64) : (if x.slt y then y else x) = BitVec.ofInt 64 (max x.toInt y.toInt) := by
  simpa only [BitVec.slt_iff_toInt_lt] using ite_lt_eq_word_max (fun _ => BitVec.ofInt_toInt) x y

theorem minz_eq_ofNat_min (x y : Word64) : (if y.ult x then y else x) = BitVec.ofNat 64 (min x.toNat y.toNat) := by
  simpa only [BitVec.ult_iff_toNat_lt] using ite_lt_eq_word_min ofNat_toNat_word x y

theorem maxz_eq_ofNat_max (x y : Word64) : (if x.ult y then y else x) = BitVec.ofNat 64 (max x.toNat y.toNat) := by
  simpa only [BitVec.ult_iff_toNat_lt] using ite_lt_eq_word_max ofNat_toNat_word x y

theorem leadingZeros_eq_sub_log2 (x : Word64) :
    leadingZeros 64 x.toNat = 64 - (if x = 0 then 0 else Nat.log2 x.toNat + 1) := by
  by_cases h : x = 0
  · subst h; rfl
  · have hn : x.toNat ≠ 0 := fun e => h (BitVec.eq_of_toNat_eq e)
    rw [leadingZeros, if_neg hn, if_neg h, Nat.sub_sub, Nat.add_comm]

theorem sextW_eq_signExtend (x : Word64) : sextW x = (x.setWidth 32).signExtend 64 := by
  rw [sextW, BitVec.setWidth_eq_extractLsb' (by decide)]

/-- A sum of truth values counts the members that satisfy the predicate. -/
theorem foldl_add_toNat_eq (p : Nat → Bool) (l : List Nat) (m : Nat) :
    l.foldl (fun n k => n + (p k).toNat) m = m + (l.filter p).length := by
  induction l generalizing m with
  | nil => rfl
  | cons k l ih =>
    rw [List.foldl_cons, ih]
    cases hk : p k <;> simp [hk]; omega

theorem popCount_eq_length (x : Word64) : popCount x = ((List.range 64).filter fun k => x.getLsbD k).length := by
  rw [popCount, foldl_add_toNat_eq, Nat.zero_add]

/-! ### O1: the ALU instructions (R213) -/

/-- A row's FN is a row number, so 11 bits hold it. -/
theorem aluRows_lt {k : Nat} {f : Reg → Reg → Reg → Instr} (h : aluRows[k]? = some f) : k < 27 :=
  (List.getElem?_eq_some_iff.1 h).1

/-- OP 0x01 is read by FN alone. -/
theorem decode_formR_alu (d a b : Reg) (fn : BitVec 11) :
    Decode.conductor (Encode.formR 0x01 d a b fn) = Decode.alu fn.toNat d a b := by
  simp [Decode.conductor, Laws.reg_val]

/-- A row whose B must be 0. -/
theorem whenZero_beq (b : Reg) (i : Instr) :
    Decode.whenZero (b == 0) i = if b ≠ 0 then .error .unusedField else .ok i := by
  by_cases h : b = 0 <;> simp [Decode.whenZero, h]

/-- FN gives the instruction of its row; CLZ and POPC alone refuse a nonzero B. -/
theorem decode_aluRows {k : Nat} {f : Reg → Reg → Reg → Instr} (h : aluRows[k]? = some f) (d a b : Reg) :
    Decode.alu k d a b = if (k = 22 ∨ k = 23) ∧ b ≠ 0 then .error .unusedField else .ok (f d a b) := by
  have hk := aluRows_lt h
  interval_cases k <;> cases h <;> simp [Decode.alu, whenZero_beq]

/-- Each row of R213 that always writes xd writes the table's value. -/
theorem exec_regResult {s : State} {c : Conductor} (hs : s.executes c) {i : Instr} {d : Reg} {v : Word64}
    (h : regResult i c = some (d, v)) :
    exec i s = .next ((s.setX s.cur.region d v).completed s.cur.region c (c.pc + 4)) := by
  cases i with
  | add => cases h; exact aluR_writes hs (exec_add s) rfl
  | sub => cases h; exact aluR_writes hs (exec_sub s) rfl
  | and => cases h; exact aluR_writes hs (exec_and s) rfl
  | or => cases h; exact aluR_writes hs (exec_or s) rfl
  | xor => cases h; exact aluR_writes hs (exec_xor s) rfl
  | andn => cases h; exact aluR_writes hs (exec_andn s) rfl
  | shl => cases h; exact aluR_writes hs (exec_shl s) (shiftLeft_eq_mul_ofNat _ _)
  | shrz => cases h; exact aluR_writes hs (exec_shrz s) (ushiftRight_eq_ofNat_div _ _)
  | shrs => cases h; exact aluR_writes hs (exec_shrs s) (sshiftRight_eq_ofInt_div _ _)
  | mul => cases h; exact aluR_writes hs (exec_mul s) rfl
  | mulhs => cases h; exact aluR_writes hs (exec_mulhs s) rfl
  | mulhz => cases h; exact aluR_writes hs (exec_mulhz s) rfl
  | divs => cases h; exact aluR_writes hs (exec_divs s) (divS_eq_sdiv _ _)
  | divz => cases h; exact aluR_writes hs (exec_divz s) (divZ_eq_udiv _ _)
  | rems => cases h; exact aluR_writes hs (exec_rems s) (remS_eq_srem _ _)
  | remz => cases h; exact aluR_writes hs (exec_remz s) (remZ_eq_umod _ _)
  | slts => cases h; exact aluR_writes hs (exec_slts s) rfl
  | sltz => cases h; exact aluR_writes hs (exec_sltz s) rfl
  | mins => cases h; exact aluR_writes hs (exec_mins s) (mins_eq_ofInt_min _ _)
  | maxs => cases h; exact aluR_writes hs (exec_maxs s) (maxs_eq_ofInt_max _ _)
  | minz => cases h; exact aluR_writes hs (exec_minz s) (minz_eq_ofNat_min _ _)
  | maxz => cases h; exact aluR_writes hs (exec_maxz s) (maxz_eq_ofNat_max _ _)
  | clz => cases h; exact aluR_writes hs (exec_clz s) (congrArg _ (leadingZeros_eq_sub_log2 _))
  | popc => cases h; exact aluR_writes hs (exec_popc s) (congrArg _ (popCount_eq_length _))
  | addw => cases h; exact aluR_writes hs (exec_addw s) (sextW_eq_signExtend _)
  | subw => cases h; exact aluR_writes hs (exec_subw s) (sextW_eq_signExtend _)
  | _ => cases h

/-- SELNZ writes xd only where xb is not 0. -/
theorem exec_selnz_completes {s : State} {c : Conductor} (hs : s.executes c) (d a b : Reg) :
    exec (.selnz d a b) s = .next (
      (if c.get b ≠ 0 then s.setX s.cur.region d (c.get a) else s).completed s.cur.region c (c.pc + 4)) := by
  rw [exec_selnz, execSelnz, ite_not]
  exact conductor_done hs rfl

/-- Settles O1: each row by FN, each value by the model's expression for it. -/
theorem registerInstructionWritesItsResult : Obligations.RegisterInstructionWritesItsResult := by
  refine ⟨fun k f hk d a b => ?_, fun s c hs => ⟨fun i d v => exec_regResult hs, exec_selnz_completes hs⟩⟩
  have hfn : (BitVec.ofNat 11 k).toNat = k := Nat.mod_eq_of_lt (by have := aluRows_lt hk; omega)
  rw [decode_formR_alu, hfn, decode_aluRows hk]

/-! ### O3: the branches (R215) -/

/-- The six rows, by OP from 0x10. -/
theorem decode_branchRows {k : Nat} {f : Reg → Reg → BitVec 16 → Instr} (h : branchRows[k]? = some f) (a b : Reg) (disp : BitVec 16) :
    Decode.conductor (Encode.formI (BitVec.ofNat 6 (0x10 + k)) a b disp) = .ok (f a b disp) := by
  have hk : k < 6 := (List.getElem?_eq_some_iff.1 h).1
  interval_cases k <;> cases h <;> simp [Decode.conductor, Laws.reg_val]

theorem bne_eq_decide (x y : Word64) : (x != y) = decide (x ≠ y) := by
  rw [bne, beq_eq_decide, decide_not]

theorem not_slt_eq_decide_ge (x y : Word64) : (!x.slt y) = decide (x.toInt ≥ y.toInt) := by
  rw [BitVec.slt_eq_decide, ← decide_not, decide_eq_decide, not_lt]

theorem not_ult_eq_decide_ge (x y : Word64) : (!x.ult y) = decide (x.toNat ≥ y.toNat) := by
  rw [BitVec.ult_eq_decide, ← decide_not, decide_eq_decide, not_lt]

/-- Going to a target: the two faults of R216 in their order, else completion there. -/
theorem settle_goTo (s s' : State) (r : Nat) (c : Conductor) (t : Word64) : settle s r c (goTo s' t) =
    if Word.field t 63 56 ≠ 0 then s.tookTrap r { cause := .addressForm, faddr := some t }
    else if t.toNat % 4 ≠ 0 then s.tookTrap r { cause := .misalign, faddr := some t }
    else s'.completed r c t := by
  rw [goTo, apply_ite (settle s r c), apply_ite (settle s r c), settle_trapAt_tookTrap, settle_trapAt_tookTrap,
    settle_jump_completed]

/-- An instruction executed by `branch`, by the outcome of its test. -/
theorem branch_goes {s : State} {c : Conductor} {i : Instr} {test : Word64 → Word64 → Bool} {a b : Reg} {disp : BitVec 16}
    {taken : Bool} (hs : s.executes c) (hi : exec i s = branch test a b disp s) (ht : test (c.get a) (c.get b) = taken) :
    let t := c.pc + 4 + disp.signExtend 64 * 4
    exec i s = .next (
      if taken = false then s.completed s.cur.region c (c.pc + 4)
      else if Word.field t 63 56 ≠ 0 then s.tookTrap s.cur.region { cause := .addressForm, faddr := some t }
      else if t.toNat % 4 ≠ 0 then s.tookTrap s.cur.region { cause := .misalign, faddr := some t }
      else s.completed s.cur.region c t) := by
  intro t
  rw [hi, branch, conductor_next _ hs, ht, ← settle_goTo s s s.cur.region c t]
  cases taken <;> rfl

/-- Settles O3: the six tests are those of R215, and a branch taken goes to its target as a jump does. -/
theorem branchGoesToItsTarget : Obligations.BranchGoesToItsTarget := by
  refine ⟨fun k f => decode_branchRows, fun s c i taken disp hs h => ?_⟩
  cases i with
  | beq => cases h; exact branch_goes hs (exec_beq s) (beq_eq_decide _ _)
  | bne => cases h; exact branch_goes hs (exec_bne s) (bne_eq_decide _ _)
  | blts => cases h; exact branch_goes hs (exec_blts s) rfl
  | bges => cases h; exact branch_goes hs (exec_bges s) (not_slt_eq_decide_ge _ _)
  | blo => cases h; exact branch_goes hs (exec_blo s) rfl
  | bhs => cases h; exact branch_goes hs (exec_bhs s) (not_ult_eq_decide_ge _ _)
  | _ => cases h

/-! ### O18: the layout version (R237) -/

theorem decode_layver (d a b : Reg) : Decode.conductor (Encode.formR 0x34 d a b 0) =
    if a = 0 ∧ b = 0 then .ok (.layver d) else .error .unusedField := by
  simp [Decode.conductor, Decode.whenZero, Laws.reg_val]

theorem exec_layver_writes {s : State} {c : Conductor} {i : Inst} (d : Reg) (hs : s.executes c)
    (hi : s.instOf s.cur.region = some i) : exec (.layver d) s =
      .next ((s.setX s.cur.region d (i.layver.setWidth 64)).completed s.cur.region c (c.pc + 4)) := by
  rw [exec_layver, execLayver]
  exact conductor_done hs (by simp only [hi, BitVec.ofNat_toNat])

/-- Settles O18: the version is the one the instance holds as LAYVER executes. -/
theorem layverReadsTheLayoutVersion : Obligations.LayverReadsTheLayoutVersion :=
  ⟨decode_layver, fun _ _ _ d hs hi => exec_layver_writes d hs hi⟩

end Sys2Proof.Machine
end
